-- ==== Sys2Proof/Word.lean ====
section
/-! DEFINITION. The word types of the Tuinval 2 and the classes that name an instruction's fields. -/
namespace Sys2Proof

/-- A byte of memory. -/
abbrev Byte := BitVec 8

/-- A scalar register, a system register or a virtual address (R60). -/
abbrev Word := BitVec 64

/-- The 128 bits of a bundle (R12). -/
abbrev Bundle := BitVec 128

/-- A row of the scratchpad, or the bits of a vector register: 512 bytes (R78, R163). -/
abbrev Row := BitVec 4096

/-- A predicate (R78). -/
abbrev PredBits := BitVec 1024

end Sys2Proof
end

