-- ==== Sys2Proof/Machine/Bits.lean ====
section
/-! DEFINITION. Bit fields, little-endian bytes, signed readings and the arithmetic helpers that the spec's pseudocode
names (R9, R11): the one place where the model cuts words into fields and puts fields together. -/
namespace Sys2Proof.Machine

/-- bits(v, hi, lo) of R11, on a natural number. -/
def bits (v hi lo : Nat) : Nat := v / 2 ^ lo % 2 ^ (hi + 1 - lo)

/-- Fields of the given widths, the first in the lowest bits. -/
def unpack : List Nat → Nat → List Nat
  | [], _ => []
  | w :: ws, n => n % 2 ^ w :: unpack ws (n / 2 ^ w)

/-- The number whose fields (width, value), the first in the lowest bits, are those given. -/
def pack : List (Nat × Nat) → Nat
  | [] => 0
  | (w, v) :: r => v % 2 ^ w + 2 ^ w * pack r

/-- `n` elements of `b` bits, the first in the lowest bits (R121). -/
def splitEls (b : Nat) : Nat → Nat → List Nat
  | 0, _ => []
  | n + 1, v => v % 2 ^ b :: splitEls b n (v / 2 ^ b)

/-- The number whose elements of `b` bits, the first in the lowest bits, are those given. -/
def joinEls (b : Nat) : List Nat → Nat
  | [] => 0
  | x :: r => x % 2 ^ b + 2 ^ b * joinEls b r

/-- The `n` little-endian bytes of a number (R9). -/
def toBytes (n v : Nat) : List Byte := (splitEls 8 n v).map (BitVec.ofNat 8)

/-- The number that little-endian bytes spell (R9). -/
def ofBytes (l : List Byte) : Nat := joinEls 8 (l.map (·.toNat))

/-- A `w`-bit pattern read as two's complement. -/
def signed (w v : Nat) : Int := if v % 2 ^ w < 2 ^ (w - 1) then (v % 2 ^ w : Nat) else (v % 2 ^ w : Nat) - (2 ^ w : Nat)

/-- The `w`-bit two's complement pattern of an integer: v mod 2^w. -/
def wrapTo (w : Nat) (v : Int) : Nat := (v % (2 ^ w : Nat)).toNat

/-- sat(v, lo, hi) of R11. -/
def sat (v lo hi : Int) : Int := if v < lo then lo else if hi < v then hi else v

/-- Number of ones among the `n` lowest bits. -/
def popcount : Nat → Nat → Nat
  | 0, _ => 0
  | n + 1, v => v % 2 + popcount n (v / 2)

/-- Position of the lowest one among the `n` lowest bits, `n` when there is none. -/
def lowestOne : Nat → Nat → Nat
  | 0, _ => 0
  | n + 1, v => if v % 2 = 1 then 0 else lowestOne n (v / 2) + 1

/-- floor(log2 n), 0 for 0. -/
def log2 (n : Nat) : Nat := n.log2

/-- A vector field's group width: bits [7:6] (R19). -/
def grpW (g : BitVec 8) : Nat := 2 ^ (g.toNat / 64)

/-- A vector field's first register: bits [5:0] (R19). -/
def grpN (g : BitVec 8) : Nat := g.toNat % 64

/-- The group is aligned to its width (R19). -/
def grpOk (g : BitVec 8) : Bool := grpN g % grpW g == 0

/-- Container width in bits of an element type (R18, R79). -/
def tyBits (ty : BitVec 4) : Nat :=
  match ty.toNat with
  | 0 | 1 | 8 | 9 | 15 => 8
  | 2 | 3 | 10 | 11 => 16
  | 4 | 5 | 12 => 32
  | 13 => 64
  | _ => 4

/-- Elements of the type in one register (R79). -/
def tyN (ty : BitVec 4) : Nat := 4096 / tyBits ty

/-- Class INT of R18. -/
def isInt (ty : BitVec 4) : Bool := ty.toNat ≤ 7
/-- Class SINT of R18. -/
def isSint (ty : BitVec 4) : Bool := ty.toNat == 0 || ty.toNat == 2 || ty.toNat == 4 || ty.toNat == 6
/-- Class NINT of R18. -/
def isNint (ty : BitVec 4) : Bool := ty.toNat ≤ 3 || ty.toNat == 6 || ty.toNat == 7
/-- Class FPA of R18. -/
def isFpa (ty : BitVec 4) : Bool := 10 ≤ ty.toNat && ty.toNat ≤ 13
/-- Class FPN of R18. -/
def isFpn (ty : BitVec 4) : Bool := ty.toNat == 8 || ty.toNat == 9 || ty.toNat == 14 || ty.toNat == 15
/-- Types FP16, BF16 and FP32, the class of the approximations (R160). -/
def isApx (ty : BitVec 4) : Bool := 10 ≤ ty.toNat && ty.toNat ≤ 12

/-- Container width in a vector register of a conversion format, numbered as in R132. -/
def cvtBits (f : Nat) : Nat := if f < 16 then tyBits (BitVec.ofNat 4 f) else 8

/-- Source conversion format of a VCVT: TYPE, or 16 + TYPE when XS = 1 (R157). -/
def cvtSrc (ty : BitVec 4) (imm : BitVec 8) : Nat := if imm.toNat < 128 then ty.toNat else 16 + ty.toNat

/-- Destination conversion format of a VCVT (R157). -/
def cvtDst (imm : BitVec 8) : Nat := imm.toNat % 32

/-- The widths of a VCVT's groups stand in one of the relations of R158. -/
def cvtWidthsOk (bs bd wd wa : Nat) : Bool :=
  if bd = bs then wd == wa
  else if bd = 16 * bs then wa == 1 && wd == 8
  else if bs = 16 * bd then wd == 1 && wa == 8
  else if bd > bs then wd == wa * (bd / bs)
  else wa == wd * (bs / bd)

/-- A VSPLATI immediate that its element type can hold (R102). -/
def splatiOk (ty : BitVec 4) (imm : BitVec 16) : Bool :=
  let b := tyBits ty
  if b ≥ 16 then true
  else if isSint ty then imm.toNat == wrapTo 16 (signed b imm.toNat)
  else decide (imm.toNat < 2 ^ b)

/-- k of a VTOPK: C, with 0 for 256 (R108). -/
def topkK (imm : BitVec 8) : Nat := if imm.toNat = 0 then 256 else imm.toNat

/-- System registers that MFS reads (R62). -/
def sysListed : List Nat :=
  [0x000, 0x001, 0x002, 0x008, 0x010, 0x011, 0x018, 0x020, 0x028, 0x029, 0x030, 0x038, 0x040, 0x041, 0x042, 0x048,
   0x049, 0x04A, 0x04B, 0x04C, 0x04D, 0x04E, 0x04F, 0x050, 0x051, 0x052]

/-- System registers that a program may always write: access RW (R62). -/
def sysRW : List Nat := [0x010, 0x011, 0x018, 0x048, 0x049, 0x050, 0x051]

/-- System registers that are writable only while TSTAT.INH = 1: access H (R62). -/
def sysH : List Nat := [0x04A, 0x04B, 0x04C, 0x04D, 0x04E, 0x04F, 0x052]

end Sys2Proof.Machine
end

