-- ==== Sys2Proof/Syntax.lean ====
section
/-! DEFINITION. The instructions of Kuxia 1.0 and the steps of the device, one constructor per row of the opcode
table: S, V and M syllables with the fields their layouts name (R15, R17, R21), ring commands with the words of their
entry (R31, R32), transfer instructions with the lane that runs them and their words (R41), and the steps that the
device takes on its own or on the host's request, with what arrives in them. -/
namespace Sys2Proof

/-- The words of a ring entry that a command reads, without its opcode byte (R31, R32). -/
structure Cmd where
  /-- timeline to await, 8 for none -/
  wtl : BitVec 4
  /-- timeline raised on completion -/
  rtl : BitVec 2
  /-- tag of a CP command -/
  tag : BitVec 6
  /-- command-specific field -/
  arg : BitVec 40
  /-- wait threshold -/
  waitv : Word
  p0 : Word
  p1 : Word
  p2 : Word
  p3 : Word
deriving DecidableEq, Repr

/-- The words of a transfer instruction, without its opcode byte (R41). -/
structure XWords where
  flags : BitVec 8
  /-- XW0[47:0] -/
  op : BitVec 48
  x1 : Word
  x2 : Word
  x3 : Word
deriving DecidableEq, Repr

/-- A packet of the links or of the Ethernet flows: the header of R377 and its payload. -/
structure Packet where
  op : BitVec 8
  flg : BitVec 8
  group : BitVec 16
  job : BitVec 32
  src : BitVec 32
  dst : BitVec 32
  addr : Word
  step : BitVec 48
  len : BitVec 16
  payload : List Byte
deriving DecidableEq, Repr

/-- What the board supplies to the package at cold reset (R63, R90, R278, R402): the identity record's words and the repair
records of cores and stacks. -/
structure BoardRecord where
  domain : BitVec 14
  pkg : BitVec 6
  ident : Word
  /-- LANEMAP of each core that has a repair record: core number and value -/
  lanemaps : List (Nat × Word)
  /-- stacks whose repair record is present and passes its check: bit n for stack n -/
  stacksRead : BitVec 8
  /-- repair entries of each stack: entry number (256·stack + entry) and value -/
  repairs : List (Nat × Word)
  /-- PCI Express ports that run as two links of eight lanes (R400) -/
  split : BitVec 2
  /-- endpoints whose link requires IDE (R400) -/
  ideNeeds : BitVec 4
  /-- endpoint of the owner host (R401) -/
  owner : BitVec 2
deriving DecidableEq, Repr


/-- The instructions: one constructor per row of the opcode table, in its order. -/
inductive Instr where
  /-- NOP (R64). Scalar no-operation whose idle count delays the next bundle. -/
  | nop (idle : BitVec 3)
  /-- ADD (R65). Sd receives Sa plus Sb modulo 2^64. -/
  | add (idle : BitVec 3) (d : BitVec 5) (a : BitVec 5) (b : BitVec 5)
  /-- SUB (R65). Sd receives Sa minus Sb modulo 2^64. -/
  | sub (idle : BitVec 3) (d : BitVec 5) (a : BitVec 5) (b : BitVec 5)
  /-- AND (R65). Sd receives the bitwise AND of Sa and Sb. -/
  | and (idle : BitVec 3) (d : BitVec 5) (a : BitVec 5) (b : BitVec 5)
  /-- OR (R65). Sd receives the bitwise OR of Sa and Sb. -/
  | or (idle : BitVec 3) (d : BitVec 5) (a : BitVec 5) (b : BitVec 5)
  /-- XOR (R65). Sd receives the bitwise XOR of Sa and Sb. -/
  | xor (idle : BitVec 3) (d : BitVec 5) (a : BitVec 5) (b : BitVec 5)
  /-- ANDN (R65). Sd receives Sa AND NOT Sb. -/
  | andn (idle : BitVec 3) (d : BitVec 5) (a : BitVec 5) (b : BitVec 5)
  /-- SHL (R65). Sd receives Sa shifted left by Sb[5:0]. -/
  | shl (idle : BitVec 3) (d : BitVec 5) (a : BitVec 5) (b : BitVec 5)
  /-- SHR (R65). Sd receives Sa shifted logically right by Sb[5:0]. -/
  | shr (idle : BitVec 3) (d : BitVec 5) (a : BitVec 5) (b : BitVec 5)
  /-- SRA (R65). Sd receives Sa shifted arithmetically right by Sb[5:0]. -/
  | sra (idle : BitVec 3) (d : BitVec 5) (a : BitVec 5) (b : BitVec 5)
  /-- MIN (R65). Sd receives the signed lesser of Sa and Sb. -/
  | min (idle : BitVec 3) (d : BitVec 5) (a : BitVec 5) (b : BitVec 5)
  /-- MAX (R65). Sd receives the signed greater of Sa and Sb. -/
  | max (idle : BitVec 3) (d : BitVec 5) (a : BitVec 5) (b : BitVec 5)
  /-- MINU (R65). Sd receives the unsigned lesser of Sa and Sb. -/
  | minu (idle : BitVec 3) (d : BitVec 5) (a : BitVec 5) (b : BitVec 5)
  /-- MAXU (R65). Sd receives the unsigned greater of Sa and Sb. -/
  | maxu (idle : BitVec 3) (d : BitVec 5) (a : BitVec 5) (b : BitVec 5)
  /-- SEQ (R65). Sd receives 1 if Sa equals Sb, else 0. -/
  | seq (idle : BitVec 3) (d : BitVec 5) (a : BitVec 5) (b : BitVec 5)
  /-- SNE (R65). Sd receives 1 if Sa differs from Sb, else 0. -/
  | sne (idle : BitVec 3) (d : BitVec 5) (a : BitVec 5) (b : BitVec 5)
  /-- SLT (R65). Sd receives 1 if Sa is signed-less than Sb. -/
  | slt (idle : BitVec 3) (d : BitVec 5) (a : BitVec 5) (b : BitVec 5)
  /-- SLTU (R65). Sd receives 1 if Sa is unsigned-less than Sb. -/
  | sltu (idle : BitVec 3) (d : BitVec 5) (a : BitVec 5) (b : BitVec 5)
  /-- SLE (R65). Sd receives 1 if Sa is signed-less-or-equal to Sb. -/
  | sle (idle : BitVec 3) (d : BitVec 5) (a : BitVec 5) (b : BitVec 5)
  /-- SLEU (R65). Sd receives 1 if Sa is unsigned-less-or-equal to Sb. -/
  | sleu (idle : BitVec 3) (d : BitVec 5) (a : BitVec 5) (b : BitVec 5)
  /-- MUL (R65). Sd receives the low 64 bits of Sa times Sb. -/
  | mul (idle : BitVec 3) (d : BitVec 5) (a : BitVec 5) (b : BitVec 5)
  /-- MULH (R65). Sd receives the high 64 bits of the signed product. -/
  | mulh (idle : BitVec 3) (d : BitVec 5) (a : BitVec 5) (b : BitVec 5)
  /-- MULHU (R65). Sd receives the high 64 bits of the unsigned product. -/
  | mulhu (idle : BitVec 3) (d : BitVec 5) (a : BitVec 5) (b : BitVec 5)
  /-- DIV (R65). Sd receives the signed quotient rounded towards zero, with defined division-by-zero results. -/
  | div (idle : BitVec 3) (d : BitVec 5) (a : BitVec 5) (b : BitVec 5)
  /-- DIVU (R65). Sd receives the unsigned quotient. -/
  | divu (idle : BitVec 3) (d : BitVec 5) (a : BitVec 5) (b : BitVec 5)
  /-- REM (R65). Sd receives the signed remainder. -/
  | rem (idle : BitVec 3) (d : BitVec 5) (a : BitVec 5) (b : BitVec 5)
  /-- REMU (R65). Sd receives the unsigned remainder. -/
  | remu (idle : BitVec 3) (d : BitVec 5) (a : BitVec 5) (b : BitVec 5)
  /-- CLZ (R65). Sd receives the count of leading zero bits of Sa. -/
  | clz (idle : BitVec 3) (d : BitVec 5) (a : BitVec 5)
  /-- CTZ (R65). Sd receives the count of trailing zero bits of Sa. -/
  | ctz (idle : BitVec 3) (d : BitVec 5) (a : BitVec 5)
  /-- POPC (R65). Sd receives the number of set bits of Sa. -/
  | popc (idle : BitVec 3) (d : BitVec 5) (a : BitVec 5)
  /-- ADDI (R66). Sd receives Sa plus the sign-extended immediate. -/
  | addi (idle : BitVec 3) (d : BitVec 5) (a : BitVec 5) (imm : BitVec 13)
  /-- ANDI (R66). Sd receives Sa AND the sign-extended immediate. -/
  | andi (idle : BitVec 3) (d : BitVec 5) (a : BitVec 5) (imm : BitVec 13)
  /-- ORI (R66). Sd receives Sa OR the sign-extended immediate. -/
  | ori (idle : BitVec 3) (d : BitVec 5) (a : BitVec 5) (imm : BitVec 13)
  /-- XORI (R66). Sd receives Sa XOR the sign-extended immediate. -/
  | xori (idle : BitVec 3) (d : BitVec 5) (a : BitVec 5) (imm : BitVec 13)
  /-- SHLI (R66). Sd receives Sa shifted left by an immediate count. -/
  | shli (idle : BitVec 3) (d : BitVec 5) (a : BitVec 5) (cnt : BitVec 6)
  /-- SHRI (R66). Sd receives Sa shifted logically right by an immediate count. -/
  | shri (idle : BitVec 3) (d : BitVec 5) (a : BitVec 5) (cnt : BitVec 6)
  /-- SRAI (R66). Sd receives Sa shifted arithmetically right by an immediate count. -/
  | srai (idle : BitVec 3) (d : BitVec 5) (a : BitVec 5) (cnt : BitVec 6)
  /-- SLTI (R66). Sd receives 1 if Sa is signed-less than the immediate. -/
  | slti (idle : BitVec 3) (d : BitVec 5) (a : BitVec 5) (imm : BitVec 13)
  /-- SLTIU (R66). Sd receives 1 if Sa is unsigned-less than the immediate. -/
  | sltiu (idle : BitVec 3) (d : BitVec 5) (a : BitVec 5) (imm : BitVec 13)
  /-- SEQI (R66). Sd receives 1 if Sa equals the immediate. -/
  | seqi (idle : BitVec 3) (d : BitVec 5) (a : BitVec 5) (imm : BitVec 13)
  /-- MULI (R66). Sd receives the low 64 bits of Sa times the immediate. -/
  | muli (idle : BitVec 3) (d : BitVec 5) (a : BitVec 5) (imm : BitVec 13)
  /-- EXTU (R67). Sd receives a zero-extended bit field of Sa. -/
  | extu (idle : BitVec 3) (d : BitVec 5) (a : BitVec 5) (w : BitVec 6) (p : BitVec 6)
  /-- EXTS (R67). Sd receives a sign-extended bit field of Sa. -/
  | exts (idle : BitVec 3) (d : BitVec 5) (a : BitVec 5) (w : BitVec 6) (p : BitVec 6)
  /-- INS (R67). Inserts the low bits of Sa into a bit field of Sd. -/
  | ins (idle : BitVec 3) (d : BitVec 5) (a : BitVec 5) (w : BitVec 6) (p : BitVec 6)
  /-- LIH (R68). Sd receives the sign-extended 18-bit immediate times 8192. -/
  | lih (idle : BitVec 3) (d : BitVec 5) (imm : BitVec 18)
  /-- LIPC (R68). Sd receives the bundle's 8-KiB base plus the immediate times 8192. -/
  | lipc (idle : BitVec 3) (d : BitVec 5) (imm : BitVec 18)
  /-- BEQZ (R69). Branches by a bundle offset when Sa is zero. -/
  | beqz (idle : BitVec 3) (a : BitVec 5) (off : BitVec 18)
  /-- BNEZ (R69). Branches by a bundle offset when Sa is non-zero. -/
  | bnez (idle : BitVec 3) (a : BitVec 5) (off : BitVec 18)
  /-- BLTZ (R69). Branches when Sa is negative. -/
  | bltz (idle : BitVec 3) (a : BitVec 5) (off : BitVec 18)
  /-- BGEZ (R69). Branches when Sa is not negative. -/
  | bgez (idle : BitVec 3) (a : BitVec 5) (off : BitVec 18)
  /-- BR (R69). Branches unconditionally by a bundle offset. -/
  | br (idle : BitVec 3) (off : BitVec 18)
  /-- CALL (R69). Writes the return address to S31 and branches. -/
  | call (idle : BitVec 3) (off : BitVec 18)
  /-- JR (R69). Jumps to the address in Sa. -/
  | jr (idle : BitVec 3) (a : BitVec 5)
  /-- CALLR (R69). Jumps to Sa and writes the return address to Sd. -/
  | callr (idle : BitVec 3) (d : BitVec 5) (a : BitVec 5)
  /-- LOOP (R70). Decrements Sa and, if non-zero, rotates VRB and PRB and branches. -/
  | loop (idle : BitVec 3) (a : BitVec 5) (off : BitVec 18)
  /-- LDB (R71). Loads a sign-extended byte. -/
  | ldb (idle : BitVec 3) (d : BitVec 5) (a : BitVec 5) (imm : BitVec 13)
  /-- LDBU (R71). Loads a zero-extended byte. -/
  | ldbu (idle : BitVec 3) (d : BitVec 5) (a : BitVec 5) (imm : BitVec 13)
  /-- LDH (R71). Loads a sign-extended halfword. -/
  | ldh (idle : BitVec 3) (d : BitVec 5) (a : BitVec 5) (imm : BitVec 13)
  /-- LDHU (R71). Loads a zero-extended halfword. -/
  | ldhu (idle : BitVec 3) (d : BitVec 5) (a : BitVec 5) (imm : BitVec 13)
  /-- LDW (R71). Loads a sign-extended word. -/
  | ldw (idle : BitVec 3) (d : BitVec 5) (a : BitVec 5) (imm : BitVec 13)
  /-- LDWU (R71). Loads a zero-extended word. -/
  | ldwu (idle : BitVec 3) (d : BitVec 5) (a : BitVec 5) (imm : BitVec 13)
  /-- LDD (R71). Loads a doubleword. -/
  | ldd (idle : BitVec 3) (d : BitVec 5) (a : BitVec 5) (imm : BitVec 13)
  /-- LDC (R305). Loads 8 bytes through the core's constant path. -/
  | ldc (idle : BitVec 3) (d : BitVec 5) (a : BitVec 5) (imm : BitVec 13)
  /-- STB (R71). Stores the low byte of Sd. -/
  | stb (idle : BitVec 3) (d : BitVec 5) (a : BitVec 5) (imm : BitVec 13)
  /-- STH (R71). Stores the low halfword of Sd. -/
  | sth (idle : BitVec 3) (d : BitVec 5) (a : BitVec 5) (imm : BitVec 13)
  /-- STW (R71). Stores the low word of Sd. -/
  | stw (idle : BitVec 3) (d : BitVec 5) (a : BitVec 5) (imm : BitVec 13)
  /-- STD (R71). Stores the doubleword Sd; a store to a launch doorbell requests a launch. -/
  | std (idle : BitVec 3) (d : BitVec 5) (a : BitVec 5) (imm : BitVec 13)
  /-- LDA (R72). Register-offset load, optionally an acquire at a scope. -/
  | lda (idle : BitVec 3) (d : BitVec 5) (a : BitVec 5) (b : BitVec 5) (sz : BitVec 2) (u : BitVec 1) (ord : BitVec 1) (sc : BitVec 3)
  /-- STA (R72). Register-offset store, optionally a release at a scope. -/
  | sta (idle : BitVec 3) (d : BitVec 5) (a : BitVec 5) (b : BitVec 5) (sz : BitVec 2) (ord : BitVec 1) (sc : BitVec 3)
  /-- ATOM (R304). Performs an unannotated atomic read-modify-write at the home L2. -/
  | atom (idle : BitVec 3) (d : BitVec 5) (a : BitVec 5) (b : BitVec 5) (op : BitVec 4) (sz : BitVec 1)
  /-- ATOM_ACQ (R304). Atomic read-modify-write with acquire at a scope. -/
  | atomAcq (idle : BitVec 3) (d : BitVec 5) (a : BitVec 5) (b : BitVec 5) (op : BitVec 4) (sz : BitVec 1) (sc : BitVec 3)
  /-- ATOM_REL (R304). Atomic read-modify-write with release at a scope. -/
  | atomRel (idle : BitVec 3) (d : BitVec 5) (a : BitVec 5) (b : BitVec 5) (op : BitVec 4) (sz : BitVec 1) (sc : BitVec 3)
  /-- ATOM_AR (R304). Atomic read-modify-write with acquire and release at a scope. -/
  | atomAr (idle : BitVec 3) (d : BitVec 5) (a : BitVec 5) (b : BitVec 5) (op : BitVec 4) (sz : BitVec 1) (sc : BitVec 3)
  /-- FENCE (R302). Stalls until earlier S- and R-kind stores are visible at the scope. -/
  | fence (idle : BitVec 3) (sc : BitVec 3)
  /-- FENCE_U (R302). Stalls until every earlier access of any kind is performed at the scope. -/
  | fenceU (idle : BitVec 3) (sc : BitVec 3)
  /-- CINV (R306). Empties the constant path. -/
  | cinv (idle : BitVec 3)
  /-- MFS (R73). Reads a system register into Sd. -/
  | mfs (idle : BitVec 3) (d : BitVec 5) (n : BitVec 13)
  /-- MTS (R73). Writes Sa to a system register. -/
  | mts (idle : BitVec 3) (a : BitVec 5) (n : BitVec 13)
  /-- TRAP (R74). Completes and then takes a trap with the given code. -/
  | trap (idle : BitVec 3) (code : BitVec 13)
  /-- RFT (R75). Returns from a handler, waiting for the handler's exposed results. -/
  | rft (idle : BitVec 3)
  /-- HALT (R76). Stops the core issuing further bundles. -/
  | halt (idle : BitVec 3)
  /-- PUBLISH (R404). Publishes a host window image and posts its version. -/
  | publish (idle : BitVec 3) (w : BitVec 4)
  /-- SETPHASE (R269). Declares coming bank-set power levels with a lead. -/
  | setphase (idle : BitVec 3) (a : BitVec 5) (lead : BitVec 13)
  /-- VNOP (R93). Vector no-operation. -/
  | vnop
  /-- VADD (R94). Elementwise integer or floating-point addition. -/
  | vadd (ty : BitVec 4) (p : BitVec 4) (d : BitVec 8) (a : BitVec 8) (b : BitVec 8)
  /-- VSUB (R94). Elementwise subtraction. -/
  | vsub (ty : BitVec 4) (p : BitVec 4) (d : BitVec 8) (a : BitVec 8) (b : BitVec 8)
  /-- VMUL (R94). Elementwise multiplication. -/
  | vmul (ty : BitVec 4) (p : BitVec 4) (d : BitVec 8) (a : BitVec 8) (b : BitVec 8)
  /-- VMULH (R94). Elementwise high half of the integer product. -/
  | vmulh (ty : BitVec 4) (p : BitVec 4) (d : BitVec 8) (a : BitVec 8) (b : BitVec 8)
  /-- VADDS (R94). Elementwise saturating integer addition. -/
  | vadds (ty : BitVec 4) (p : BitVec 4) (d : BitVec 8) (a : BitVec 8) (b : BitVec 8)
  /-- VSUBS (R94). Elementwise saturating integer subtraction. -/
  | vsubs (ty : BitVec 4) (p : BitVec 4) (d : BitVec 8) (a : BitVec 8) (b : BitVec 8)
  /-- VMIN (R94). Elementwise minimum. -/
  | vmin (ty : BitVec 4) (p : BitVec 4) (d : BitVec 8) (a : BitVec 8) (b : BitVec 8)
  /-- VMAX (R94). Elementwise maximum. -/
  | vmax (ty : BitVec 4) (p : BitVec 4) (d : BitVec 8) (a : BitVec 8) (b : BitVec 8)
  /-- VABS (R95). Elementwise absolute value. -/
  | vabs (ty : BitVec 4) (p : BitVec 4) (d : BitVec 8) (a : BitVec 8)
  /-- VNEG (R95). Elementwise negation. -/
  | vneg (ty : BitVec 4) (p : BitVec 4) (d : BitVec 8) (a : BitVec 8)
  /-- VMULW (R98). Widening exact multiply into lane-interleaved order. -/
  | vmulw (ty : BitVec 4) (p : BitVec 4) (d : BitVec 8) (a : BitVec 8) (b : BitVec 8)
  /-- VADDW (R98). Widening exact add into lane-interleaved order. -/
  | vaddw (ty : BitVec 4) (p : BitVec 4) (d : BitVec 8) (a : BitVec 8) (b : BitVec 8)
  /-- VNARROW (R99). Saturating narrow from the next wider type. -/
  | vnarrow (ty : BitVec 4) (p : BitVec 4) (d : BitVec 8) (a : BitVec 8)
  /-- VADDI (R96). Adds a sign-extended 8-bit immediate. -/
  | vaddi (ty : BitVec 4) (p : BitVec 4) (d : BitVec 8) (a : BitVec 8) (imm : BitVec 8)
  /-- VMAC (R97). Integer multiply-accumulate into the destination. -/
  | vmac (ty : BitVec 4) (p : BitVec 4) (d : BitVec 8) (a : BitVec 8) (b : BitVec 8)
  /-- VAND (R94). Elementwise AND. -/
  | vand (ty : BitVec 4) (p : BitVec 4) (d : BitVec 8) (a : BitVec 8) (b : BitVec 8)
  /-- VOR (R94). Elementwise OR. -/
  | vor (ty : BitVec 4) (p : BitVec 4) (d : BitVec 8) (a : BitVec 8) (b : BitVec 8)
  /-- VXOR (R94). Elementwise XOR. -/
  | vxor (ty : BitVec 4) (p : BitVec 4) (d : BitVec 8) (a : BitVec 8) (b : BitVec 8)
  /-- VANDN (R94). Elementwise AND NOT. -/
  | vandn (ty : BitVec 4) (p : BitVec 4) (d : BitVec 8) (a : BitVec 8) (b : BitVec 8)
  /-- VNOT (R95). Elementwise bitwise complement. -/
  | vnot (ty : BitVec 4) (p : BitVec 4) (d : BitVec 8) (a : BitVec 8)
  /-- VSHL (R94). Elementwise left shift by a vector count. -/
  | vshl (ty : BitVec 4) (p : BitVec 4) (d : BitVec 8) (a : BitVec 8) (b : BitVec 8)
  /-- VSHR (R94). Elementwise logical right shift by a vector count. -/
  | vshr (ty : BitVec 4) (p : BitVec 4) (d : BitVec 8) (a : BitVec 8) (b : BitVec 8)
  /-- VSRA (R94). Elementwise arithmetic right shift by a vector count. -/
  | vsra (ty : BitVec 4) (p : BitVec 4) (d : BitVec 8) (a : BitVec 8) (b : BitVec 8)
  /-- VSHLI (R96). Elementwise left shift by an immediate. -/
  | vshli (ty : BitVec 4) (p : BitVec 4) (d : BitVec 8) (a : BitVec 8) (imm : BitVec 8)
  /-- VSHRI (R96). Elementwise logical right shift by an immediate. -/
  | vshri (ty : BitVec 4) (p : BitVec 4) (d : BitVec 8) (a : BitVec 8) (imm : BitVec 8)
  /-- VSRAI (R96). Elementwise arithmetic right shift by an immediate. -/
  | vsrai (ty : BitVec 4) (p : BitVec 4) (d : BitVec 8) (a : BitVec 8) (imm : BitVec 8)
  /-- VCMP (R100). Compares elements into a predicate. -/
  | vcmp (ty : BitVec 4) (p : BitVec 4) (d : BitVec 4) (a : BitVec 8) (b : BitVec 8) (imm : BitVec 8)
  /-- VSEL (R101). Selects elements of two sources by a predicate. -/
  | vsel (ty : BitVec 4) (p : BitVec 4) (d : BitVec 8) (a : BitVec 8) (b : BitVec 8) (c : BitVec 4)
  /-- VSPLAT (R102). Broadcasts a scalar into every active element. -/
  | vsplat (ty : BitVec 4) (p : BitVec 4) (d : BitVec 8) (a : BitVec 5)
  /-- VSPLATI (R102). Broadcasts a 16-bit immediate into every active element. -/
  | vsplati (ty : BitVec 4) (p : BitVec 4) (d : BitVec 8) (imm : BitVec 16)
  /-- VINS (R103). Inserts a scalar into one indexed element. -/
  | vins (ty : BitVec 4) (p : BitVec 4) (d : BitVec 8) (a : BitVec 5) (b : BitVec 5)
  /-- VEXT (R104). Extracts one element into a scalar register, faulting on poison. -/
  | vext (ty : BitVec 4) (d : BitVec 5) (a : BitVec 8) (b : BitVec 5)
  /-- VMOV (R95). Copies elements as bits. -/
  | vmov (ty : BitVec 4) (p : BitVec 4) (d : BitVec 8) (a : BitVec 8)
  /-- VFMA (R149). Fused multiply-add with one rounding. -/
  | vfma (ty : BitVec 4) (p : BitVec 4) (d : BitVec 8) (a : BitVec 8) (b : BitVec 8) (c : BitVec 8)
  /-- VFMS (R149). Fused multiply-subtract with one rounding. -/
  | vfms (ty : BitVec 4) (p : BitVec 4) (d : BitVec 8) (a : BitVec 8) (b : BitVec 8) (c : BitVec 8)
  /-- VFNMA (R149). Fused negated multiply-add with one rounding. -/
  | vfnma (ty : BitVec 4) (p : BitVec 4) (d : BitVec 8) (a : BitVec 8) (b : BitVec 8) (c : BitVec 8)
  /-- VCVT (R157). Converts elements between conversion formats. -/
  | vcvt (ty : BitVec 4) (p : BitVec 4) (d : BitVec 8) (a : BitVec 8) (imm : BitVec 8)
  /-- VDOT (R156). Dot product of narrow elements accumulated into 32-bit elements. -/
  | vdot (ty : BitVec 4) (p : BitVec 4) (d : BitVec 8) (a : BitVec 8) (b : BitVec 8) (c : BitVec 8)
  /-- VRCP (R160). Approximate reciprocal to 12 bits. -/
  | vrcp (ty : BitVec 4) (p : BitVec 4) (d : BitVec 8) (a : BitVec 8)
  /-- VRSQ (R160). Approximate reciprocal square root to 12 bits. -/
  | vrsq (ty : BitVec 4) (p : BitVec 4) (d : BitVec 8) (a : BitVec 8)
  /-- VRCPN (R161). One Newton step refining a reciprocal. -/
  | vrcpn (ty : BitVec 4) (p : BitVec 4) (d : BitVec 8) (a : BitVec 8) (b : BitVec 8)
  /-- VRSQN (R161). One Newton step refining a reciprocal square root. -/
  | vrsqn (ty : BitVec 4) (p : BitVec 4) (d : BitVec 8) (a : BitVec 8) (b : BitVec 8)
  /-- VEXP2 (R162). Correctly rounded base-2 exponential. -/
  | vexp2 (ty : BitVec 4) (p : BitVec 4) (d : BitVec 8) (a : BitVec 8)
  /-- VLOG2 (R162). Correctly rounded base-2 logarithm. -/
  | vlog2 (ty : BitVec 4) (p : BitVec 4) (d : BitVec 8) (a : BitVec 8)
  /-- VREDADD (R105). Sum reduction of the active elements into element 0. -/
  | vredadd (ty : BitVec 4) (p : BitVec 4) (d : BitVec 8) (a : BitVec 8)
  /-- VREDMIN (R105). Minimum reduction into element 0. -/
  | vredmin (ty : BitVec 4) (p : BitVec 4) (d : BitVec 8) (a : BitVec 8)
  /-- VREDMAX (R105). Maximum reduction into element 0. -/
  | vredmax (ty : BitVec 4) (p : BitVec 4) (d : BitVec 8) (a : BitVec 8)
  /-- VSCAN (R106). Inclusive prefix sum over the flattened group. -/
  | vscan (ty : BitVec 4) (p : BitVec 4) (d : BitVec 8) (a : BitVec 8)
  /-- VPPOPC (R107). Writes the prefix popcount of a predicate into each element. -/
  | vppopc (ty : BitVec 4) (p : BitVec 4) (d : BitVec 8) (a : BitVec 4)
  /-- VTOPK (R108). Selects the k largest elements and their indices. -/
  | vtopk (ty : BitVec 4) (p : BitVec 4) (d : BitVec 8) (a : BitVec 8) (b : BitVec 8) (imm : BitVec 8)
  /-- VPERM (R109). Permutes elements by UI16 indices. -/
  | vperm (ty : BitVec 4) (p : BitVec 4) (d : BitVec 8) (a : BitVec 8) (b : BitVec 8)
  /-- VSLIDE (R110). Slides a register pair down by s elements. -/
  | vslide (ty : BitVec 4) (p : BitVec 4) (d : BitVec 8) (a : BitVec 8) (b : BitVec 8) (imm : BitVec 8)
  /-- VZIP (R111). Interleaves two groups. -/
  | vzip (ty : BitVec 4) (p : BitVec 4) (d : BitVec 8) (a : BitVec 8) (b : BitVec 8)
  /-- VUNZIP (R111). Takes the even elements of a double group. -/
  | vunzip (ty : BitVec 4) (p : BitVec 4) (d : BitVec 8) (a : BitVec 8)
  /-- VCOMPRESS (R112). Packs the predicated elements to the front. -/
  | vcompress (ty : BitVec 4) (d : BitVec 8) (a : BitVec 8) (c : BitVec 4)
  /-- VEXPAND (R112). Spreads leading elements to the predicated positions. -/
  | vexpand (ty : BitVec 4) (d : BitVec 8) (a : BitVec 8) (c : BitVec 4)
  /-- VBCASTE (R113). Broadcasts one indexed element. -/
  | vbcaste (ty : BitVec 4) (p : BitVec 4) (d : BitVec 8) (a : BitVec 8) (imm : BitVec 8)
  /-- VCBDEC (R114). Decodes CB2 codes through a palette. -/
  | vcbdec (ty : BitVec 4) (p : BitVec 4) (d : BitVec 8) (a : BitVec 8) (imm : BitVec 8)
  /-- SCACC (R193). Scales an accumulator tile row and adds it to a vector. -/
  | scacc (ty : BitVec 4) (p : BitVec 4) (d : BitVec 8) (a : BitVec 8) (tile : BitVec 8) (imm : BitVec 8)
  /-- PAND (R116). Predicate AND under the governing predicate. -/
  | pand (ty : BitVec 4) (p : BitVec 4) (d : BitVec 4) (a : BitVec 4) (b : BitVec 4)
  /-- POR (R116). Predicate OR. -/
  | por (ty : BitVec 4) (p : BitVec 4) (d : BitVec 4) (a : BitVec 4) (b : BitVec 4)
  /-- PXOR (R116). Predicate XOR. -/
  | pxor (ty : BitVec 4) (p : BitVec 4) (d : BitVec 4) (a : BitVec 4) (b : BitVec 4)
  /-- PANDN (R116). Predicate AND NOT. -/
  | pandn (ty : BitVec 4) (p : BitVec 4) (d : BitVec 4) (a : BitVec 4) (b : BitVec 4)
  /-- PNOT (R116). Predicate complement. -/
  | pnot (ty : BitVec 4) (p : BitVec 4) (d : BitVec 4) (a : BitVec 4)
  /-- PSETI (R117). Sets the first n predicate bits. -/
  | pseti (ty : BitVec 4) (d : BitVec 4) (imm : BitVec 16)
  /-- PPOPC (R118). Counts the active predicate bits into a scalar. -/
  | ppopc (ty : BitVec 4) (p : BitVec 4) (d : BitVec 5) (a : BitVec 4)
  /-- PFIRST (R118). Finds the first active predicate bit. -/
  | pfirst (ty : BitVec 4) (p : BitVec 4) (d : BitVec 5) (a : BitVec 4)
  /-- VPCLR (R119). Clears the poison of the active elements. -/
  | vpclr (ty : BitVec 4) (p : BitVec 4) (d : BitVec 8)
  /-- VPTEST (R120). Reports element poison as predicate bits. -/
  | vptest (ty : BitVec 4) (p : BitVec 4) (d : BitVec 4) (a : BitVec 8)
  /-- MNOP (R30). M-slot no-operation. -/
  | mnop
  /-- VLD (R167). Reads scratchpad rows into a vector group at issue. -/
  | vld (vr : BitVec 6) (w : BitVec 2) (sa : BitVec 5) (imm : BitVec 16)
  /-- VST (R168). Masked store of a vector group into scratchpad rows. -/
  | vst (vr : BitVec 6) (w : BitVec 2) (sa : BitVec 5) (imm : BitVec 16) (p : BitVec 4) (gr : BitVec 2)
  /-- VGATHER (R169). Gathers one 16-byte granule per lane. -/
  | vgather (vr : BitVec 6) (sa : BitVec 5) (vb : BitVec 6) (p : BitVec 4)
  /-- VSCATTER (R169). Scatters one 16-byte granule per lane. -/
  | vscatter (vr : BitVec 6) (sa : BitVec 5) (vb : BitVec 6) (p : BitVec 4)
  /-- VRMG (R170). Byte rotate of a register pair with merge. -/
  | vrmg (vd : BitVec 6) (va : BitVec 6) (p : BitVec 4) (i : BitVec 1) (imm : BitVec 10) (sb : BitVec 5)
  /-- CLAIM (R184). Claims an operand slot, optionally self-freeing. -/
  | claim (slot : BitVec 5) (auto : BitVec 1)
  /-- RELEASE (R185). Frees an operand slot once no fill or reader holds it. -/
  | release (slot : BitVec 5)
  /-- MTC (R207). Writes a loop-nest image into a shadow set. -/
  | mtc (eng : BitVec 1) (set : BitVec 1) (vn : BitVec 6) (ovr : BitVec 1)
  /-- ACCRD (R192). Reads an accumulator tile row into vector registers. -/
  | accrd (vd : BitVec 6) (tile : BitVec 7) (row : BitVec 4) (sel : BitVec 2)
  /-- ENQ (R38). Pushes commands from a vector register onto an engine ring. -/
  | enq (ring : BitVec 3) (vn : BitVec 6) (seg : BitVec 3) (cnt : BitVec 3) (rel : BitVec 1) (sc : BitVec 3)
  /-- TLWAIT (R308). Stalls until a timeline reaches a threshold, then acquires. -/
  | tlwait (tl : BitVec 3) (sa : BitVec 5) (sc : BitVec 5) (rmt : BitVec 1) (imm : BitVec 16)
  /-- TLADV (R309). Releases and raises a software timeline. -/
  | tladv (tl : BitVec 3) (cnt : BitVec 8)
  /-- TAGWAIT_ANY (R313). Stalls until any masked tag is set. -/
  | tagwaitAny (sa : BitVec 5)
  /-- TAGWAIT_ALL (R313). Stalls until all masked tags are set. -/
  | tagwaitAll (sa : BitVec 5)
  /-- TAGFF (R313). Returns the lowest set masked tag. -/
  | tagff (sa : BitVec 5) (sd : BitVec 5)
  /-- TAGCLR (R313). Clears masked tags. -/
  | tagclr (sa : BitVec 5)
  /-- RVINIT (R316). Sets a rendezvous point's expected count once. -/
  | rvinit (rv : BitVec 5) (lev : BitVec 2) (reg : BitVec 5)
  /-- ARRIVE (R316). Releases and counts an arrival at a rendezvous point. -/
  | arrive (rv : BitVec 5) (lev : BitVec 2) (reg : BitVec 5)
  /-- RVWAIT (R316). Stalls until a rendezvous phase completes, then acquires. -/
  | rvwait (rv : BitVec 5) (lev : BitVec 2) (reg : BitVec 5)
  /-- BUFW (R174). Acquires write access to a versioned buffer. -/
  | bufw (buf : BitVec 8) (sd : BitVec 5)
  /-- BUFP (R175). Publishes the version being written. -/
  | bufp (buf : BitVec 8)
  /-- BUFR (R176). Acquires a read of the latest published version. -/
  | bufr (buf : BitVec 8) (sd : BitVec 5) (sa : BitVec 5)
  /-- BUFX (R177). Releases a read of a version. -/
  | bufx (buf : BitVec 8) (sa : BitVec 5)
  /-- LIVEMARK (R179). Sets the scratchpad live mark. -/
  | livemark (i : BitVec 1) (imm : BitVec 13) (sa : BitVec 5)
  /-- CNOP (R37). Engine no-op that awaits its wait and completes at once. -/
  | cnop (ring : BitVec 3) (c : Cmd)
  /-- OPLD (R215). MX command filling an operand slot and its scale lane from memory. -/
  | opld (c : Cmd)
  /-- MMGO (R213). Runs a loop nest on the main array. -/
  | mmgo (c : Cmd)
  /-- MMSL (R228). Runs a sliced FP32 or FP64 nest on the main array. -/
  | mmsl (c : Cmd)
  /-- ACCZ (R195). Zeroes a range of accumulator tiles in a mode. -/
  | accz (c : Cmd)
  /-- ACCST (R196). Stores tile images to memory. -/
  | accst (c : Cmd)
  /-- ACCLD (R196). Loads tiles from tile images in memory. -/
  | accld (c : Cmd)
  /-- MDQFILL (R218). Appends sparsity metadata entries to the queue. -/
  | mdqfill (c : Cmd)
  /-- SKGO (R213). Runs a loop nest on the sketch array. -/
  | skgo (c : Cmd)
  /-- SKSCORE (R214). Scores query rows against key sketches or bounds into a tile. -/
  | skscore (c : Cmd)
  /-- CBTAB (R216). Replaces a CB2 palette from memory. -/
  | cbtab (c : Cmd)
  /-- CPY (R417). Copies sectors between rows and virtual memory. -/
  | cpy (c : Cmd)
  /-- CPYG (R430). Gathers block storage or summaries listed by descriptors. -/
  | cpyg (c : Cmd)
  /-- CPYS (R418). Copies pitched rows of sectors. -/
  | cpys (c : Cmd)
  /-- CPYOP (R419). Fills an operand slot or appends metadata entries from the copy engine. -/
  | cpyop (c : Cmd)
  /-- CPYFILL (R420). Writes a repeated 8-byte value over sectors. -/
  | cpyfill (c : Cmd)
  /-- NPUT (R361). Copies local rows to a peer. -/
  | nput (c : Cmd)
  /-- NGET (R361). Copies peer rows or memory into local rows. -/
  | nget (c : Cmd)
  /-- NSIG (R362). Raises a peer timeline after earlier puts complete. -/
  | nsig (c : Cmd)
  /-- NATOM (R363). Performs an atomic at a peer address. -/
  | natom (c : Cmd)
  /-- NCOLL (R364). Runs a collective loop nest from a collective record. -/
  | ncoll (c : Cmd)
  /-- NXPERT (R368). Scatters token rows to expert owners. -/
  | nxpert (c : Cmd)
  /-- NABORT (R372). Aborts a collective group as initiator. -/
  | nabort (c : Cmd)
  /-- BTALLOC (R339). Allocates absent blocks of a sequence. -/
  | btalloc (c : Cmd)
  /-- BTFREE (R339). Drops blocks at or above a position and truncates LEN. -/
  | btfree (c : Cmd)
  /-- BTSHARE (R339). Shares a prefix of blocks with another sequence. -/
  | btshare (c : Cmd)
  /-- BTCOW (R339). Makes a private copy of a shared block. -/
  | btcow (c : Cmd)
  /-- BTWALK (R342). Lists block descriptors under a hold or drops a hold. -/
  | btwalk (c : Cmd)
  /-- BTEVICT (R340). Evicts positions of a block, packing survivors. -/
  | btevict (c : Cmd)
  /-- SUMUPD (R341). Recomputes block summaries from their rows. -/
  | sumupd (c : Cmd)
  /-- EZOPEN (R343). Opens an easel for a sequence. -/
  | ezopen (c : Cmd)
  /-- EZTREE (R347). Posts token trees for drafting easels. -/
  | eztree (c : Cmd)
  /-- EZCHECK (R347). Posts check probabilities, runs acceptance and commits each easel. -/
  | ezcheck (c : Cmd)
  /-- EZPARK (R344). Parks a ready easel into a DRAM record. -/
  | ezpark (c : Cmd)
  /-- EZRESUME (R344). Restores a parked easel. -/
  | ezresume (c : Cmd)
  /-- EZCLOSE (R345). Closes an easel, dropping wet blocks and tree. -/
  | ezclose (c : Cmd)
  /-- EZNEXT (R346). Forms a drafting batch of ready easels. -/
  | eznext (c : Cmd)
  /-- XRUN (R246). Starts or continues a transfer program on a lane. -/
  | xrun (c : Cmd)
  /-- XSTOP (R247). Halts a lane's transfer program. -/
  | xstop (c : Cmd)
  /-- XNOP (R256). Transfer no-operation. -/
  | xnop (lane : BitVec 3) (w : XWords)
  /-- XMOV (R250). Moves pitched rows from memory to one destination member. -/
  | xmov (lane : BitVec 3) (w : XWords)
  /-- XMC (R250). Multicasts pitched rows to every member of a multicast set. -/
  | xmc (lane : BitVec 3) (w : XWords)
  /-- XLOOP (R252). Counts an index register and branches. -/
  | xloop (lane : BitVec 3) (w : XWords)
  /-- XWAIT (R253). Waits for a core timeline threshold, then acquires. -/
  | xwait (lane : BitVec 3) (w : XWords)
  /-- XSIG (R254). Raises a core timeline after earlier transfers complete. -/
  | xsig (lane : BitVec 3) (w : XWords)
  /-- XPHASE (R255). Declares bank-set levels with a refresh-adjusted lead. -/
  | xphase (lane : BitVec 3) (w : XWords)
  /-- XEND (R256). Ends the transfer program after earlier transfers complete. -/
  | xend (lane : BitVec 3) (w : XWords)
  /-- EXPOSED_RESULT_LANDING (R54). A vector or predicate result lands in its register at its landing tick. -/
  | exposedResultLanding
  /-- SCALAR_WRITE_COMPLETE (R53). A pending interlocked scalar write completes and releases stalled bundles. -/
  | scalarWriteComplete
  /-- STORE_BUFFER_DRAIN (R303). A buffered scalar store drains to memory. -/
  | storeBufferDrain (n : BitVec 4)
  /-- INSTRUCTION_FETCH (R69). A missed bundle is fetched, or the fetch faults. -/
  | instructionFetch
  /-- TRAP_ENTRY (R57). A control-core trap waits for scalar writes, captures the landing buffer and enters the handler. -/
  | trapEntry (cause : BitVec 8) (slot : BitVec 3) (code : BitVec 13) (tval : BitVec 64)
  /-- ASYNCHRONOUS_TRAP (R394). A pending ring-stop or ABORT trap is taken at a bundle boundary. -/
  | asynchronousTrap
  /-- RFT_REINSTATE (R75). After its wait, RFT reinstates landing entries, clears TSTAT, restarts unheld rings and resumes. -/
  | rftReinstate
  /-- ENGINE_ENTRY_COMPLETION (R33). An engine entry completes: status written, tag set, timelines raised, entry retired. -/
  | engineEntryCompletion (ring : BitVec 3) (n : BitVec 3)
  /-- RING_STOP (R35). A command that cannot complete stops its ring with a status code and reports to the context. -/
  | ringStop (ring : BitVec 3) (n : BitVec 3)
  /-- NEST_STEP (R209). A loop nest performs one K-step after its slots, metadata and tokens are ready. -/
  | nestStep (sk : Bool)
  /-- PAIR_STEP (R230). MMSL performs one slice-pair step into a diagonal tile. -/
  | pairStep
  /-- SLOT_FILL_COMPLETE (R183). A slot fill completes, making the slot FULL and releasing its data. -/
  | slotFillComplete (slot : BitVec 5)
  /-- TOKEN_REFILL (R219). Each microsecond the column's token pool is refilled up to its cap. -/
  | tokenRefill (col : BitVec 3)
  /-- TOKEN_GRANT (R220). The head heat-token request is granted once the pool holds its weight. -/
  | tokenGrant (col : BitVec 3)
  /-- LANE_SWAP_COMPLETE (R91). A lane copy into the spare lane finishes and steering takes effect. -/
  | laneSwapComplete
  /-- MCLOG_READ (R397). A read of MCLOG pops its head entry. -/
  | mclogRead
  /-- CORECTL_RESUME (R398). A write of RESUME clears a saved core's checkstop mark. -/
  | corectlResume (core : BitVec 7)
  /-- CORECTL_RETIRE (R398). A write of RETIRE retires the core and kills its context. -/
  | corectlRetire (core : BitVec 7)
  /-- CORECTL_LMAP (R90). A write of LMAP steers the spare lane, starting a lane swap when SWAP is set. -/
  | corectlLmap (core : BitVec 7) (lmap : BitVec 16)
  /-- MGMT_REGISTER_WRITE (R401). A write to a management-window register without a row of its own. -/
  | mgmtRegisterWrite (off : BitVec 32) (v : BitVec 64)
  /-- TLBINV (R289). A write of TLBINV starts a TLB invalidation. -/
  | tlbinv (v : BitVec 64)
  /-- TLBINV_DONE (R289). The invalidation completes and GO reads 0. -/
  | tlbinvDone
  /-- PAGE_WALK (R285). A queued TLB miss is walked through the page tables with bank checks. -/
  | pageWalk (slot : BitVec 3) (va : BitVec 64)
  /-- KEY_LOAD (R291). The host security path loads a key handle. -/
  | keyLoad (h : BitVec 10) (key1 : BitVec 256) (key2 : BitVec 256) (lid : BitVec 64) (base : BitVec 64) (holders : BitVec 8)
  /-- KEY_UNLOAD (R291). A key handle is cleared once accesses presenting it are performed. -/
  | keyUnload (h : BitVec 10)
  /-- BANK_ALLOCATE (R266). A request allots and scrubs banks for a context's bank set. -/
  | bankAllocate (stack : BitVec 3) (ctx : BitVec 4) (set : Nat) (count : Nat)
  /-- BANK_FREE (R267). A free request waits for in-flight accesses, frees the bank and starts a scrub. -/
  | bankFree (bank : BitVec 15)
  /-- SCRUB_COMPLETE (R267). A bank scrub finishes. -/
  | scrubComplete (bank : BitVec 15)
  /-- BANK_IDLE_TIMEOUT (R264). An active bank becomes IDLE after 1 µs without access. -/
  | bankIdleTimeout (bank : BitVec 15)
  /-- RETAIN_ENTRY (R264). An allocated idle bank enters RETAIN at OFF or after 50 µs at LOW. -/
  | retainEntry (bank : BitVec 15)
  /-- DEEP_ENTRY (R264). A free scrubbed bank enters DEEP after 1 ms. -/
  | deepEntry (bank : BitVec 15)
  /-- BANK_WAKE (R271). A RETAIN bank begins to wake for a pending or in-force FULL level or an access. -/
  | bankWake (bank : BitVec 15)
  /-- BANK_WAKE_COMPLETE (R265). A waking bank becomes usable after 1.2 µs and serves waiting accesses. -/
  | bankWakeComplete (bank : BitVec 15)
  /-- PHASE_LEVEL_DUE (R270). A pending bank-set level comes into force at its due time. -/
  | phaseLevelDue (slot : BitVec 3) (set : BitVec 4)
  /-- REFRESH (R275). A bank refresh occupies the bank for 195 ns each interval. -/
  | refresh (bank : BitVec 15)
  /-- TEMPERATURE_SAMPLE (R275). Each bank's sensor is sampled every 32 µs and TSTEP adjusted. -/
  | temperatureSample (bank : BitVec 15) (degrees : Int)
  /-- REFLOSS_UPDATE (R276). The column's LOSS and HOT fields are updated each µs. -/
  | reflossUpdate (col : BitVec 3)
  /-- REPAIR_COMMIT (R278). A write of REPAIR_COMMIT applies the valid repair entries. -/
  | repairCommit (stack : BitVec 3)
  /-- REPAIR_COMMIT_DONE (R279). The repair commit finishes, clearing UNREPAIRED and UNREP. -/
  | repairCommitDone (stack : BitVec 3)
  /-- COLD_RESET (R405). Rails, PLLs, board record, DRAM and link training run in order. -/
  | coldReset (rec : Option BoardRecord)
  /-- WARM_RESET (R406). A write of WRST stops every agent and removes all contexts. -/
  | warmReset
  /-- POWER_LIMIT_ADJUST (R409). Every 100 µs the manager lowers or raises APPLIED against LIMIT. -/
  | powerLimitAdjust (col : BitVec 3) (watts : Nat)
  /-- THERMAL_ALARM (R409). TJ reaching 110 or 120 °C raises an alarm or throttles the clock. -/
  | thermalAlarm (col : BitVec 3) (tj : Int)
  /-- DROOP_STRETCH (R410). A VDD sample below 94% stretches the column's cycles. -/
  | droopStretch (col : BitVec 3)
  /-- DROOP_RECOVER (R410). Stretching ends after VDD holds above 97% for 64 cycles. -/
  | droopRecover (col : BitVec 3)
  /-- CONTEXT_RESIDENT (R379). Host software makes a context resident by giving its context record. -/
  | contextResident (slot : BitVec 3) (rec : BitVec 512) (stores : List (List Word)) (transport : BitVec 3)
  /-- CONTEXT_REMOVE (R379). Host software removes a resident context that is not running. -/
  | contextRemove (slot : BitVec 3)
  /-- LAUNCH_REQUEST (R381). Host software requests a launch of a start record. -/
  | launchRequest (slot : BitVec 3) (addr : BitVec 64)
  /-- LAUNCH (R381). A chosen, halted context starts every core from its start record. -/
  | launch (part : BitVec 3)
  /-- QUANTUM_EXPIRY (R383). A running context's quantum expires. -/
  | quantumExpiry (part : BitVec 3)
  /-- GSWCTL_WRITE (R391). A write of GSWCTL arms the gang switch. -/
  | gswctlWrite (v : BitVec 64)
  /-- GANG_SWITCH_FIRE (R392). GTIME reaches TIME while armed and pre-empts the masked partitions. -/
  | gangSwitchFire
  /-- PREEMPTION (R386). A pre-emption stops cores and engines, drains store buffers and saves state. -/
  | preemption (part : BitVec 3)
  /-- PREEMPT_REQUEST (R386). Host software requests a pre-emption. -/
  | preemptRequest (part : BitVec 3)
  /-- CONTEXT_SAVE (R387). The saved state of each core and the context is written. -/
  | contextSave (part : BitVec 3)
  /-- CONTEXT_RESTORE (R387). A saved context is restored bit for bit onto a partition. -/
  | contextRestore (part : BitVec 3)
  /-- KILL (R399). A context is stopped without save, its groups aborted and residency removed. -/
  | kill (slot : BitVec 3)
  /-- REQUANTISE_BLOCK (R325). The requantisation engine re-encodes a queued BF16 block as MXFP4. -/
  | requantiseBlock (slot : BitVec 3) (col : BitVec 3)
  /-- EPOCH_FLIP (R326). With the old-epoch holds at zero, pending retired frames become draining. -/
  | epochFlip (slot : BitVec 3) (col : BitVec 3)
  /-- DRAINING_FREE (R326). With the holds at zero again, the draining frames are freed. -/
  | drainingFree (slot : BitVec 3) (col : BitVec 3)
  /-- FLIT_RECEIVE (R351). A receiver accepts an in-order flit with good CRC or answers NAK. -/
  | flitReceive (port : BitVec 3) (flit : BitVec 2048)
  /-- LINK_IDLE_TIMEOUT (R352). 10 µs without a valid flit while traffic is pending starts retraining. -/
  | linkIdleTimeout (port : BitVec 3)
  /-- LINK_RETRAIN_DONE (R352). Retraining ends, resuming traffic or leaving the link down. -/
  | linkRetrainDone (port : BitVec 3) (ok : Bool)
  /-- READ_PACKET (R356). A remote read request is performed at the destination package. -/
  | readPacket (pkt : Packet)
  /-- WRITE_PACKET (R356). A remote write request is performed at the destination package. -/
  | writePacket (pkt : Packet)
  /-- ATOMIC_PACKET (R356). A remote atomic is performed at the home L2. -/
  | atomicPacket (pkt : Packet)
  /-- SIGNAL_PACKET (R362). A remote timeline raise arrives at its target core. -/
  | signalPacket (pkt : Packet)
  /-- COLLECTIVE_TRANSFER_PACKET (R365). A collective transfer arrives and is written or combined. -/
  | collectiveTransferPacket (pkt : Packet)
  /-- STOP_PACKET (R370). A member receiving STOP freezes its steps and replies with STEP. -/
  | stopPacket (pkt : Packet)
  /-- ABORT_PACKET (R371). A member receiving ABORT marks the group and stops its NCOLL. -/
  | abortPacket (pkt : Packet)
  /-- RESPONSE_PACKET (R356). A response completes the issuer's remote access. -/
  | responsePacket (pkt : Packet)
  /-- RETRY_PACKET (R357). A RETRY answer makes the sender's link agent wait to resend. -/
  | retryPacket (pkt : Packet)
  /-- RETRY_RESEND (R357). Every 2 µs the link agent resends a request answered RETRY. -/
  | retryResend
  /-- STOP_REPLY_TIMEOUT (R370). A member that has not replied within 1 ms counts as STEP 0. -/
  | stopReplyTimeout
  /-- LOOP_WALKER_TRANSFER (R365). The collective loop walker issues its next transfer when one of 16 places frees. -/
  | loopWalkerTransfer
  /-- DATAGRAM_RECEIVE (R375). An Ethernet datagram is authenticated and delivered in flow order. -/
  | datagramReceive (flow : Nat) (seq : BitVec 32) (ack : BitVec 32) (tag : BitVec 128) (pkt : Packet)
  /-- DATAGRAM_RESEND (R374). An unacknowledged datagram is resent after 50 µs. -/
  | datagramResend (flow : Nat)
  /-- RETAIN_ENTRY_COMPLETE (R264). A bank's uninterruptible 100 ns entry to RETAIN ends, and a wake that arrived during it then begins. -/
  | retainEntryComplete (bank : BitVec 15)
  /-- LANE_TRANSFER_COMPLETE (R251). An in-flight XMOV or XMC of a lane completes, which releases a waiting XSIG or XEND. -/
  | laneTransferComplete (lane : BitVec 3) (n : BitVec 4)
  /-- PREEMPT_ABANDON_DEADLINE (R386). At 36,000 cycles after a pre-emption trigger, unfinished CP entries and begun repeatable CM transfers are abandoned. -/
  | preemptAbandonDeadline (part : BitVec 3)
  /-- TJ_FALLS_BELOW_110 (R409). The hottest compute-die sensor falls below 110 °C, which ends the half-rate clock throttle. -/
  | tjFallsBelow110 (col : BitVec 3) (tj : Int)
  /-- GTIME_ALIGNMENT_LOSS (R390). Loss of domain-link or IEEE 1588 alignment of the nanosecond clock is reported to host software. -/
  | gtimeAlignmentLoss (ieee : Bool)
  /-- IDE_ESTABLISHMENT (R400). IDE link encryption is established on a PCI Express link that the board record requires, after which the link carries transactions. -/
  | ideEstablishment (link : BitVec 2)
deriving DecidableEq, Repr

end Sys2Proof
end

