-- ==== Sys2Proof/WellFormed.lean ====
section
/-! DEFINITION. Which instructions an encoding can hold: type classes (R18), aligned groups and their relative widths
(R19), and the sub-field values that each description lists (R22). A bundle also obeys R53, R74 and R75. -/
namespace Sys2Proof

open Sys2Proof.Machine

/-- The frame of a command word (R32, R36): WTL is 0 to 8, WAITV is zero without a wait, and only CP commands carry a tag. -/
def cmdOk (cp : Bool) (c : Cmd) : Bool :=
  decide (c.wtl.toNat ≤ 8) && (c.wtl != 8 || c.waitv == 0) && (cp || c.tag == 0)

/-- The instruction breaks no rule of its encoding. -/
def Instr.wf : Instr → Bool

  | .nop _ => true
  | .add _ _ _ _ => true
  | .sub _ _ _ _ => true
  | .and _ _ _ _ => true
  | .or _ _ _ _ => true
  | .xor _ _ _ _ => true
  | .andn _ _ _ _ => true
  | .shl _ _ _ _ => true
  | .shr _ _ _ _ => true
  | .sra _ _ _ _ => true
  | .min _ _ _ _ => true
  | .max _ _ _ _ => true
  | .minu _ _ _ _ => true
  | .maxu _ _ _ _ => true
  | .seq _ _ _ _ => true
  | .sne _ _ _ _ => true
  | .slt _ _ _ _ => true
  | .sltu _ _ _ _ => true
  | .sle _ _ _ _ => true
  | .sleu _ _ _ _ => true
  | .mul _ _ _ _ => true
  | .mulh _ _ _ _ => true
  | .mulhu _ _ _ _ => true
  | .div _ _ _ _ => true
  | .divu _ _ _ _ => true
  | .rem _ _ _ _ => true
  | .remu _ _ _ _ => true
  | .clz _ _ _ => true
  | .ctz _ _ _ => true
  | .popc _ _ _ => true
  | .addi _ _ _ _ => true
  | .andi _ _ _ _ => true
  | .ori _ _ _ _ => true
  | .xori _ _ _ _ => true
  | .shli _ _ _ _ => true
  | .shri _ _ _ _ => true
  | .srai _ _ _ _ => true
  | .slti _ _ _ _ => true
  | .sltiu _ _ _ _ => true
  | .seqi _ _ _ _ => true
  | .muli _ _ _ _ => true
  | .extu _ _ _ w p => decide (p.toNat + w.toNat + 1 ≤ 64)
  | .exts _ _ _ w p => decide (p.toNat + w.toNat + 1 ≤ 64)
  | .ins _ _ _ w p => decide (p.toNat + w.toNat + 1 ≤ 64)
  | .lih _ _ _ => true
  | .lipc _ _ _ => true
  | .beqz _ _ _ => true
  | .bnez _ _ _ => true
  | .bltz _ _ _ => true
  | .bgez _ _ _ => true
  | .br _ _ => true
  | .call _ _ => true
  | .jr _ _ => true
  | .callr _ _ _ => true
  | .loop _ a _ => a != 0
  | .ldb _ _ _ _ => true
  | .ldbu _ _ _ _ => true
  | .ldh _ _ _ _ => true
  | .ldhu _ _ _ _ => true
  | .ldw _ _ _ _ => true
  | .ldwu _ _ _ _ => true
  | .ldd _ _ _ _ => true
  | .ldc _ _ _ _ => true
  | .stb _ _ _ _ => true
  | .sth _ _ _ _ => true
  | .stw _ _ _ _ => true
  | .std _ _ _ _ => true
  | .lda _ _ _ _ sz u ord sc => decide (sc.toNat ≤ 4) && (ord == 1 || sc == 0) && !(u == 1 && sz == 3)
  | .sta _ _ _ _ _ ord sc => decide (sc.toNat ≤ 4) && (ord == 1 || sc == 0)
  | .atom _ _ _ _ op _ => decide (op.toNat ≤ 9)
  | .atomAcq _ _ _ _ op _ sc => decide (op.toNat ≤ 9) && decide (sc.toNat ≤ 4)
  | .atomRel _ _ _ _ op _ sc => decide (op.toNat ≤ 9) && decide (sc.toNat ≤ 4)
  | .atomAr _ _ _ _ op _ sc => decide (op.toNat ≤ 9) && decide (sc.toNat ≤ 4)
  | .fence _ sc => decide (sc.toNat ≤ 4)
  | .fenceU _ sc => decide (sc.toNat ≤ 4)
  | .cinv _ => true
  | .mfs _ _ n => sysListed.contains n.toNat
  | .mts _ _ n => sysListed.contains n.toNat
  | .trap _ _ => true
  | .rft _ => true
  | .halt _ => true
  | .publish _ _ => true
  | .setphase _ _ _ => true
  | .vnop => true
  | .vadd ty _ d a b => (isInt ty || isFpa ty) && grpOk d && grpOk a && grpOk b && grpW d == grpW a && grpW d == grpW b
  | .vsub ty _ d a b => (isInt ty || isFpa ty) && grpOk d && grpOk a && grpOk b && grpW d == grpW a && grpW d == grpW b
  | .vmul ty _ d a b => (isInt ty || isFpa ty) && grpOk d && grpOk a && grpOk b && grpW d == grpW a && grpW d == grpW b
  | .vmulh ty _ d a b => isInt ty && grpOk d && grpOk a && grpOk b && grpW d == grpW a && grpW d == grpW b
  | .vadds ty _ d a b => isInt ty && grpOk d && grpOk a && grpOk b && grpW d == grpW a && grpW d == grpW b
  | .vsubs ty _ d a b => isInt ty && grpOk d && grpOk a && grpOk b && grpW d == grpW a && grpW d == grpW b
  | .vmin ty _ d a b => (isInt ty || isFpa ty) && grpOk d && grpOk a && grpOk b && grpW d == grpW a && grpW d == grpW b
  | .vmax ty _ d a b => (isInt ty || isFpa ty) && grpOk d && grpOk a && grpOk b && grpW d == grpW a && grpW d == grpW b
  | .vabs ty _ d a => (isSint ty || isFpa ty) && grpOk d && grpOk a && grpW d == grpW a
  | .vneg ty _ d a => (isSint ty || isFpa ty) && grpOk d && grpOk a && grpW d == grpW a
  | .vmulw ty _ d a b => isNint ty && grpOk d && grpOk a && grpOk b && grpW d == 2 * grpW a && grpW a == grpW b
  | .vaddw ty _ d a b => isNint ty && grpOk d && grpOk a && grpOk b && grpW d == 2 * grpW a && grpW a == grpW b
  | .vnarrow ty _ d a => isNint ty && grpOk d && grpOk a && grpW a == 2 * grpW d
  | .vaddi ty _ d a _ => isInt ty && grpOk d && grpOk a && grpW d == grpW a
  | .vmac ty _ d a b => isInt ty && grpOk d && grpOk a && grpOk b && grpW d == grpW a && grpW d == grpW b
  | .vand ty _ d a b => isInt ty && grpOk d && grpOk a && grpOk b && grpW d == grpW a && grpW d == grpW b
  | .vor ty _ d a b => isInt ty && grpOk d && grpOk a && grpOk b && grpW d == grpW a && grpW d == grpW b
  | .vxor ty _ d a b => isInt ty && grpOk d && grpOk a && grpOk b && grpW d == grpW a && grpW d == grpW b
  | .vandn ty _ d a b => isInt ty && grpOk d && grpOk a && grpOk b && grpW d == grpW a && grpW d == grpW b
  | .vnot ty _ d a => isInt ty && grpOk d && grpOk a && grpW d == grpW a
  | .vshl ty _ d a b => isInt ty && grpOk d && grpOk a && grpOk b && grpW d == grpW a && grpW d == grpW b
  | .vshr ty _ d a b => isInt ty && grpOk d && grpOk a && grpOk b && grpW d == grpW a && grpW d == grpW b
  | .vsra ty _ d a b => isInt ty && grpOk d && grpOk a && grpOk b && grpW d == grpW a && grpW d == grpW b
  | .vshli ty _ d a imm => isInt ty && grpOk d && grpOk a && grpW d == grpW a && decide (imm.toNat < tyBits ty)
  | .vshri ty _ d a imm => isInt ty && grpOk d && grpOk a && grpW d == grpW a && decide (imm.toNat < tyBits ty)
  | .vsrai ty _ d a imm => isInt ty && grpOk d && grpOk a && grpW d == grpW a && decide (imm.toNat < tyBits ty)
  | .vcmp ty _ _ a b imm => (isInt ty || isFpa ty) && grpOk a && grpOk b && grpW a == 1 && grpW b == 1 && decide (imm.toNat < (if isInt ty then 6 else 8))
  | .vsel _ _ d a b _ => grpOk d && grpOk a && grpOk b && grpW d == grpW a && grpW d == grpW b
  | .vsplat _ _ d _ => grpOk d
  | .vsplati ty _ d imm => (isInt ty || ty == 10 || ty == 11) && grpOk d && splatiOk ty imm
  | .vins _ _ d _ _ => grpOk d && grpW d == 1
  | .vext _ _ a _ => grpOk a && grpW a == 1
  | .vmov _ _ d a => grpOk d && grpOk a && grpW d == grpW a
  | .vfma ty _ d a b c => isFpa ty && grpOk d && grpOk a && grpOk b && grpOk c && grpW d == grpW a && grpW d == grpW b && grpW d == grpW c
  | .vfms ty _ d a b c => isFpa ty && grpOk d && grpOk a && grpOk b && grpOk c && grpW d == grpW a && grpW d == grpW b && grpW d == grpW c
  | .vfnma ty _ d a b c => isFpa ty && grpOk d && grpOk a && grpOk b && grpOk c && grpW d == grpW a && grpW d == grpW b && grpW d == grpW c
  | .vcvt ty _ d a imm => grpOk d && grpOk a && decide (cvtDst imm < 18) && (decide (imm.toNat < 128) || decide (ty.toNat < 2)) && cvtWidthsOk (cvtBits (cvtSrc ty imm)) (cvtBits (cvtDst imm)) (grpW d) (grpW a)
  | .vdot ty _ d a b c => (isFpn ty || ty == 0 || ty == 1 || ty == 10 || ty == 11) && grpOk d && grpOk a && grpOk b && grpOk c && grpW d == grpW a && grpW d == grpW b && grpW d == grpW c
  | .vrcp ty _ d a => isApx ty && grpOk d && grpOk a && grpW d == grpW a
  | .vrsq ty _ d a => isApx ty && grpOk d && grpOk a && grpW d == grpW a
  | .vrcpn ty _ d a b => isApx ty && grpOk d && grpOk a && grpOk b && grpW d == grpW a && grpW d == grpW b
  | .vrsqn ty _ d a b => isApx ty && grpOk d && grpOk a && grpOk b && grpW d == grpW a && grpW d == grpW b
  | .vexp2 ty _ d a => isApx ty && grpOk d && grpOk a && grpW d == grpW a
  | .vlog2 ty _ d a => isApx ty && grpOk d && grpOk a && grpW d == grpW a
  | .vredadd ty _ d a => (isInt ty || isFpa ty) && grpOk d && grpOk a && grpW d == 1
  | .vredmin ty _ d a => (isInt ty || isFpa ty) && grpOk d && grpOk a && grpW d == 1
  | .vredmax ty _ d a => (isInt ty || isFpa ty) && grpOk d && grpOk a && grpW d == 1
  | .vscan ty _ d a => (isInt ty || isFpa ty) && grpOk d && grpOk a && grpW d == grpW a
  | .vppopc ty _ d _ => (ty == 2 || ty == 4) && grpOk d && decide (grpW d * tyN ty ≤ 1024)
  | .vtopk ty _ d a b imm => (isInt ty || isApx ty) && grpOk d && grpOk a && grpOk b && grpW d == 1 && grpW b == 1 && decide (topkK imm ≤ tyN ty) && grpN d != grpN b
  | .vperm ty _ d a b => grpOk d && grpOk a && grpOk b && grpW d == 1 && grpW a == 1 && grpW b == (if tyBits ty = 4 then 4 else if tyBits ty = 8 then 2 else 1)
  | .vslide ty _ d a b imm => grpOk d && grpOk a && grpOk b && grpW d == 1 && grpW a == 1 && grpW b == 1 && decide (imm.toNat < tyN ty)
  | .vzip _ _ d a b => grpOk d && grpOk a && grpOk b && grpW d == 2 * grpW a && grpW a == grpW b
  | .vunzip _ _ d a => grpOk d && grpOk a && grpW a == 2 * grpW d
  | .vcompress _ d a _ => grpOk d && grpOk a && grpW d == 1 && grpW a == 1
  | .vexpand _ d a _ => grpOk d && grpOk a && grpW d == 1 && grpW a == 1
  | .vbcaste ty _ d a imm => grpOk d && grpOk a && grpW a == 1 && decide (imm.toNat < tyN ty)
  | .vcbdec ty _ d a imm => (ty == 0 || ty == 11) && grpOk d && grpOk a && grpW a == 1 && decide (imm.toNat ≤ 1) && decide (grpW d * tyN ty ≤ 2048)
  | .scacc ty _ d a tile imm => (ty == 11 || ty == 12 || ty == 13) && grpOk d && grpOk a && decide (tile.toNat < 80) && decide (imm.toNat < 32) && grpW d == (if ty == 13 then 2 else 1) && grpW a == grpW d
  | .pand _ _ _ _ _ => true
  | .por _ _ _ _ _ => true
  | .pxor _ _ _ _ _ => true
  | .pandn _ _ _ _ _ => true
  | .pnot _ _ _ _ => true
  | .pseti _ _ imm => decide (imm.toNat ≤ 1024)
  | .ppopc _ _ _ _ => true
  | .pfirst _ _ _ _ => true
  | .vpclr _ _ d => grpOk d
  | .vptest _ _ _ a => grpOk a && grpW a == 1
  | .mnop => true
  | .vld vr w _ _ => decide (vr.toNat % 2 ^ w.toNat = 0)
  | .vst vr w _ _ _ _ => decide (vr.toNat % 2 ^ w.toNat = 0)
  | .vgather _ _ _ _ => true
  | .vscatter _ _ _ _ => true
  | .vrmg _ va _ i imm sb => decide (va.toNat % 2 = 0) && (if i == 1 then sb == 0 else imm == 0)
  | .claim _ _ => true
  | .release _ => true
  | .mtc _ _ _ _ => true
  | .accrd vd tile row sel => decide (tile.toNat < 80) && (sel != 3 || row == 0) && (sel != 1 || decide (vd.toNat % 2 = 0))
  | .enq ring _ seg cnt rel sc => decide (ring.toNat ≤ 5) && decide (seg.toNat + cnt.toNat + 1 ≤ 8) && (rel == 1 || sc == 0) && decide (sc.toNat ≤ 4)
  | .tlwait _ _ sc rmt _ => (rmt == 1 || sc == 0)
  | .tladv tl _ => (tl == 0 || tl == 5 || tl == 6 || tl == 7)
  | .tagwaitAny _ => true
  | .tagwaitAll _ => true
  | .tagff _ _ => true
  | .tagclr _ => true
  | .rvinit rv _ _ => decide (rv.toNat < 24)
  | .arrive rv _ _ => decide (rv.toNat < 24)
  | .rvwait rv _ _ => decide (rv.toNat < 24)
  | .bufw _ _ => true
  | .bufp _ => true
  | .bufr _ _ _ => true
  | .bufx _ _ => true
  | .livemark i imm sa => (if i == 1 then sa == 0 && decide (imm.toNat ≤ 6144) else imm == 0)
  | .cnop ring c => decide (ring.toNat ≤ 5) && cmdOk (ring == 2) c
  | .opld c => cmdOk false c
  | .mmgo c => cmdOk false c
  | .mmsl c => cmdOk false c
  | .accz c => cmdOk false c
  | .accst c => cmdOk false c
  | .accld c => cmdOk false c
  | .mdqfill c => cmdOk false c
  | .skgo c => cmdOk false c
  | .skscore c => cmdOk false c
  | .cbtab c => cmdOk false c
  | .cpy c => cmdOk true c
  | .cpyg c => cmdOk true c
  | .cpys c => cmdOk true c
  | .cpyop c => cmdOk true c
  | .cpyfill c => cmdOk true c
  | .nput c => cmdOk false c
  | .nget c => cmdOk false c
  | .nsig c => cmdOk false c
  | .natom c => cmdOk false c
  | .ncoll c => cmdOk false c
  | .nxpert c => cmdOk false c
  | .nabort c => cmdOk false c
  | .btalloc c => cmdOk false c
  | .btfree c => cmdOk false c
  | .btshare c => cmdOk false c
  | .btcow c => cmdOk false c
  | .btwalk c => cmdOk false c
  | .btevict c => cmdOk false c
  | .sumupd c => cmdOk false c
  | .ezopen c => cmdOk false c
  | .eztree c => cmdOk false c
  | .ezcheck c => cmdOk false c
  | .ezpark c => cmdOk false c
  | .ezresume c => cmdOk false c
  | .ezclose c => cmdOk false c
  | .eznext c => cmdOk false c
  | .xrun c => cmdOk false c
  | .xstop c => cmdOk false c
  | .xnop _ _ => true
  | .xmov _ _ => true
  | .xmc _ _ => true
  | .xloop _ _ => true
  | .xwait _ _ => true
  | .xsig _ _ => true
  | .xphase _ _ => true
  | .xend _ _ => true
  | .exposedResultLanding => true
  | .scalarWriteComplete => true
  | .storeBufferDrain _ => true
  | .instructionFetch => true
  | .trapEntry _ _ _ _ => true
  | .asynchronousTrap => true
  | .rftReinstate => true
  | .engineEntryCompletion _ _ => true
  | .ringStop _ _ => true
  | .nestStep _ => true
  | .pairStep => true
  | .slotFillComplete _ => true
  | .tokenRefill _ => true
  | .tokenGrant _ => true
  | .laneSwapComplete => true
  | .mclogRead => true
  | .corectlResume _ => true
  | .corectlRetire _ => true
  | .corectlLmap _ _ => true
  | .mgmtRegisterWrite _ _ => true
  | .tlbinv _ => true
  | .tlbinvDone => true
  | .pageWalk _ _ => true
  | .keyLoad _ _ _ _ _ _ => true
  | .keyUnload _ => true
  | .bankAllocate _ _ _ _ => true
  | .bankFree _ => true
  | .scrubComplete _ => true
  | .bankIdleTimeout _ => true
  | .retainEntry _ => true
  | .deepEntry _ => true
  | .bankWake _ => true
  | .bankWakeComplete _ => true
  | .phaseLevelDue _ _ => true
  | .refresh _ => true
  | .temperatureSample _ _ => true
  | .reflossUpdate _ => true
  | .repairCommit _ => true
  | .repairCommitDone _ => true
  | .coldReset _ => true
  | .warmReset => true
  | .powerLimitAdjust _ _ => true
  | .thermalAlarm _ _ => true
  | .droopStretch _ => true
  | .droopRecover _ => true
  | .contextResident _ _ _ _ => true
  | .contextRemove _ => true
  | .launchRequest _ _ => true
  | .launch _ => true
  | .quantumExpiry _ => true
  | .gswctlWrite _ => true
  | .gangSwitchFire => true
  | .preemption _ => true
  | .preemptRequest _ => true
  | .contextSave _ => true
  | .contextRestore _ => true
  | .kill _ => true
  | .requantiseBlock _ _ => true
  | .epochFlip _ _ => true
  | .drainingFree _ _ => true
  | .flitReceive _ _ => true
  | .linkIdleTimeout _ => true
  | .linkRetrainDone _ _ => true
  | .readPacket _ => true
  | .writePacket _ => true
  | .atomicPacket _ => true
  | .signalPacket _ => true
  | .collectiveTransferPacket _ => true
  | .stopPacket _ => true
  | .abortPacket _ => true
  | .responsePacket _ => true
  | .retryPacket _ => true
  | .retryResend => true
  | .stopReplyTimeout => true
  | .loopWalkerTransfer => true
  | .datagramReceive _ _ _ _ _ => true
  | .datagramResend _ => true
  | .retainEntryComplete _ => true
  | .laneTransferComplete _ _ => true
  | .preemptAbandonDeadline _ => true
  | .tjFallsBelow110 _ _ => true
  | .gtimeAlignmentLoss _ => true
  | .ideEstablishment _ => true

end Sys2Proof
end

