-- ==== Sys2Proof/Decode.lean ====
section
/-! DEFINITION. Decoding: total on any bits, by the layouts and opcode maps of R12 to R43, with the fate R22 gives each
encoding that is not an instruction; then the encoder, written from the same tables. Words are natural numbers cut into
fields by `unpack` and put together by `pack`, the lowest field first. -/
namespace Sys2Proof

open Sys2Proof.Machine

/-- Why a syllable, an entry or a transfer instruction is not an instruction (R22, R36, R42). -/
inductive DecodeErr where
  /-- an opcode that the map marks reserved -/
  | reservedOpcode
  /-- a reserved field or bit, or an unused register field, is not zero -/
  | reservedBits
  /-- a sub-field value, a type code or a vector group that the instruction's description does not allow -/
  | subField
  /-- an opcode of a region EXT0 to EXT7 (R23) -/
  | extension
  /-- the frame of a command word is wrong (R36) -/
  | frame
deriving DecidableEq, Repr

/-- EMULATE rather than ILLEGAL (R22). -/
def DecodeErr.isEmulate (e : DecodeErr) : Bool := e == .extension

/-- The instruction, when every bit that its layout does not name has the value it must have. -/
def need (c : Bool) (i : Instr) : Except DecodeErr Instr := if c then .ok i else .error .reservedBits

/-- The instruction, when it is well formed. -/
def checked (r : Except DecodeErr Instr) : Except DecodeErr Instr :=
  match r with
  | .ok i => if i.wf then .ok i else .error .subField
  | .error e => .error e


/-- The register group, opcode 0x01 (R27): FUNC, Sb, Sa, Sd. -/
def parseSReg (i : BitVec 3) (f b a d : Nat) : Except DecodeErr Instr :=
  match f with
  | 0 => .ok (.add i (.ofNat 5 d) (.ofNat 5 a) (.ofNat 5 b))
  | 1 => .ok (.sub i (.ofNat 5 d) (.ofNat 5 a) (.ofNat 5 b))
  | 2 => .ok (.and i (.ofNat 5 d) (.ofNat 5 a) (.ofNat 5 b))
  | 3 => .ok (.or i (.ofNat 5 d) (.ofNat 5 a) (.ofNat 5 b))
  | 4 => .ok (.xor i (.ofNat 5 d) (.ofNat 5 a) (.ofNat 5 b))
  | 5 => .ok (.andn i (.ofNat 5 d) (.ofNat 5 a) (.ofNat 5 b))
  | 6 => .ok (.shl i (.ofNat 5 d) (.ofNat 5 a) (.ofNat 5 b))
  | 7 => .ok (.shr i (.ofNat 5 d) (.ofNat 5 a) (.ofNat 5 b))
  | 8 => .ok (.sra i (.ofNat 5 d) (.ofNat 5 a) (.ofNat 5 b))
  | 9 => .ok (.min i (.ofNat 5 d) (.ofNat 5 a) (.ofNat 5 b))
  | 10 => .ok (.max i (.ofNat 5 d) (.ofNat 5 a) (.ofNat 5 b))
  | 11 => .ok (.minu i (.ofNat 5 d) (.ofNat 5 a) (.ofNat 5 b))
  | 12 => .ok (.maxu i (.ofNat 5 d) (.ofNat 5 a) (.ofNat 5 b))
  | 16 => .ok (.seq i (.ofNat 5 d) (.ofNat 5 a) (.ofNat 5 b))
  | 17 => .ok (.sne i (.ofNat 5 d) (.ofNat 5 a) (.ofNat 5 b))
  | 18 => .ok (.slt i (.ofNat 5 d) (.ofNat 5 a) (.ofNat 5 b))
  | 19 => .ok (.sltu i (.ofNat 5 d) (.ofNat 5 a) (.ofNat 5 b))
  | 20 => .ok (.sle i (.ofNat 5 d) (.ofNat 5 a) (.ofNat 5 b))
  | 21 => .ok (.sleu i (.ofNat 5 d) (.ofNat 5 a) (.ofNat 5 b))
  | 32 => .ok (.mul i (.ofNat 5 d) (.ofNat 5 a) (.ofNat 5 b))
  | 33 => .ok (.mulh i (.ofNat 5 d) (.ofNat 5 a) (.ofNat 5 b))
  | 34 => .ok (.mulhu i (.ofNat 5 d) (.ofNat 5 a) (.ofNat 5 b))
  | 35 => .ok (.div i (.ofNat 5 d) (.ofNat 5 a) (.ofNat 5 b))
  | 36 => .ok (.divu i (.ofNat 5 d) (.ofNat 5 a) (.ofNat 5 b))
  | 37 => .ok (.rem i (.ofNat 5 d) (.ofNat 5 a) (.ofNat 5 b))
  | 38 => .ok (.remu i (.ofNat 5 d) (.ofNat 5 a) (.ofNat 5 b))
  | 48 => need (b == 0) (.clz i (.ofNat 5 d) (.ofNat 5 a))
  | 49 => need (b == 0) (.ctz i (.ofNat 5 d) (.ofNat 5 a))
  | 50 => need (b == 0) (.popc i (.ofNat 5 d) (.ofNat 5 a))
  | _ => .error .subField

/-- The S syllable with opcode `o`, idle count `i` and operand bits [22:0] `x` (R15, R26). -/
def parseSOp (i : BitVec 3) (o x : Nat) : Except DecodeErr Instr :=
  match o with
  | 0 => need (x == 0) (.nop i)
  | 1 => match unpack [8, 5, 5, 5] x with
    | [f, b, a, d] => parseSReg i f b a d
    | _ => .error .reservedBits
  | 2 => match unpack [13, 5, 5] x with
    | [imm, a, d] => .ok (.addi i (.ofNat 5 d) (.ofNat 5 a) (.ofNat 13 imm))
    | _ => .error .reservedBits
  | 3 => match unpack [13, 5, 5] x with
    | [imm, a, d] => .ok (.andi i (.ofNat 5 d) (.ofNat 5 a) (.ofNat 13 imm))
    | _ => .error .reservedBits
  | 4 => match unpack [13, 5, 5] x with
    | [imm, a, d] => .ok (.ori i (.ofNat 5 d) (.ofNat 5 a) (.ofNat 13 imm))
    | _ => .error .reservedBits
  | 5 => match unpack [13, 5, 5] x with
    | [imm, a, d] => .ok (.xori i (.ofNat 5 d) (.ofNat 5 a) (.ofNat 13 imm))
    | _ => .error .reservedBits
  | 6 => match unpack [6, 7, 5, 5] x with
    | [cnt, z0, a, d] => need (z0 == 0) (.shli i (.ofNat 5 d) (.ofNat 5 a) (.ofNat 6 cnt))
    | _ => .error .reservedBits
  | 7 => match unpack [6, 7, 5, 5] x with
    | [cnt, z0, a, d] => need (z0 == 0) (.shri i (.ofNat 5 d) (.ofNat 5 a) (.ofNat 6 cnt))
    | _ => .error .reservedBits
  | 8 => match unpack [6, 7, 5, 5] x with
    | [cnt, z0, a, d] => need (z0 == 0) (.srai i (.ofNat 5 d) (.ofNat 5 a) (.ofNat 6 cnt))
    | _ => .error .reservedBits
  | 9 => match unpack [13, 5, 5] x with
    | [imm, a, d] => .ok (.slti i (.ofNat 5 d) (.ofNat 5 a) (.ofNat 13 imm))
    | _ => .error .reservedBits
  | 10 => match unpack [13, 5, 5] x with
    | [imm, a, d] => .ok (.sltiu i (.ofNat 5 d) (.ofNat 5 a) (.ofNat 13 imm))
    | _ => .error .reservedBits
  | 11 => match unpack [13, 5, 5] x with
    | [imm, a, d] => .ok (.seqi i (.ofNat 5 d) (.ofNat 5 a) (.ofNat 13 imm))
    | _ => .error .reservedBits
  | 12 => match unpack [13, 5, 5] x with
    | [imm, a, d] => .ok (.muli i (.ofNat 5 d) (.ofNat 5 a) (.ofNat 13 imm))
    | _ => .error .reservedBits
  | 13 => match unpack [6, 6, 1, 5, 5] x with
    | [p, w, z0, a, d] => need (z0 == 0) (.extu i (.ofNat 5 d) (.ofNat 5 a) (.ofNat 6 w) (.ofNat 6 p))
    | _ => .error .reservedBits
  | 14 => match unpack [6, 6, 1, 5, 5] x with
    | [p, w, z0, a, d] => need (z0 == 0) (.exts i (.ofNat 5 d) (.ofNat 5 a) (.ofNat 6 w) (.ofNat 6 p))
    | _ => .error .reservedBits
  | 15 => match unpack [6, 6, 1, 5, 5] x with
    | [p, w, z0, a, d] => need (z0 == 0) (.ins i (.ofNat 5 d) (.ofNat 5 a) (.ofNat 6 w) (.ofNat 6 p))
    | _ => .error .reservedBits
  | 16 => match unpack [18, 5] x with
    | [imm, d] => .ok (.lih i (.ofNat 5 d) (.ofNat 18 imm))
    | _ => .error .reservedBits
  | 17 => match unpack [18, 5] x with
    | [imm, d] => .ok (.lipc i (.ofNat 5 d) (.ofNat 18 imm))
    | _ => .error .reservedBits
  | 18 => match unpack [18, 5] x with
    | [off, a] => .ok (.beqz i (.ofNat 5 a) (.ofNat 18 off))
    | _ => .error .reservedBits
  | 19 => match unpack [18, 5] x with
    | [off, a] => .ok (.bnez i (.ofNat 5 a) (.ofNat 18 off))
    | _ => .error .reservedBits
  | 20 => match unpack [18, 5] x with
    | [off, a] => .ok (.bltz i (.ofNat 5 a) (.ofNat 18 off))
    | _ => .error .reservedBits
  | 21 => match unpack [18, 5] x with
    | [off, a] => .ok (.bgez i (.ofNat 5 a) (.ofNat 18 off))
    | _ => .error .reservedBits
  | 22 => match unpack [18, 5] x with
    | [off, z0] => need (z0 == 0) (.br i (.ofNat 18 off))
    | _ => .error .reservedBits
  | 23 => match unpack [18, 5] x with
    | [off, z0] => need (z0 == 0) (.call i (.ofNat 18 off))
    | _ => .error .reservedBits
  | 24 => match unpack [13, 5, 5] x with
    | [z0, a, z1] => need (z0 == 0 && z1 == 0) (.jr i (.ofNat 5 a))
    | _ => .error .reservedBits
  | 25 => match unpack [13, 5, 5] x with
    | [z0, a, d] => need (z0 == 0) (.callr i (.ofNat 5 d) (.ofNat 5 a))
    | _ => .error .reservedBits
  | 26 => match unpack [18, 5] x with
    | [off, a] => .ok (.loop i (.ofNat 5 a) (.ofNat 18 off))
    | _ => .error .reservedBits
  | 28 => match unpack [13, 5, 5] x with
    | [imm, a, d] => .ok (.ldb i (.ofNat 5 d) (.ofNat 5 a) (.ofNat 13 imm))
    | _ => .error .reservedBits
  | 29 => match unpack [13, 5, 5] x with
    | [imm, a, d] => .ok (.ldbu i (.ofNat 5 d) (.ofNat 5 a) (.ofNat 13 imm))
    | _ => .error .reservedBits
  | 30 => match unpack [13, 5, 5] x with
    | [imm, a, d] => .ok (.ldh i (.ofNat 5 d) (.ofNat 5 a) (.ofNat 13 imm))
    | _ => .error .reservedBits
  | 31 => match unpack [13, 5, 5] x with
    | [imm, a, d] => .ok (.ldhu i (.ofNat 5 d) (.ofNat 5 a) (.ofNat 13 imm))
    | _ => .error .reservedBits
  | 32 => match unpack [13, 5, 5] x with
    | [imm, a, d] => .ok (.ldw i (.ofNat 5 d) (.ofNat 5 a) (.ofNat 13 imm))
    | _ => .error .reservedBits
  | 33 => match unpack [13, 5, 5] x with
    | [imm, a, d] => .ok (.ldwu i (.ofNat 5 d) (.ofNat 5 a) (.ofNat 13 imm))
    | _ => .error .reservedBits
  | 34 => match unpack [13, 5, 5] x with
    | [imm, a, d] => .ok (.ldd i (.ofNat 5 d) (.ofNat 5 a) (.ofNat 13 imm))
    | _ => .error .reservedBits
  | 35 => match unpack [13, 5, 5] x with
    | [imm, a, d] => .ok (.ldc i (.ofNat 5 d) (.ofNat 5 a) (.ofNat 13 imm))
    | _ => .error .reservedBits
  | 36 => match unpack [13, 5, 5] x with
    | [imm, a, d] => .ok (.stb i (.ofNat 5 d) (.ofNat 5 a) (.ofNat 13 imm))
    | _ => .error .reservedBits
  | 37 => match unpack [13, 5, 5] x with
    | [imm, a, d] => .ok (.sth i (.ofNat 5 d) (.ofNat 5 a) (.ofNat 13 imm))
    | _ => .error .reservedBits
  | 38 => match unpack [13, 5, 5] x with
    | [imm, a, d] => .ok (.stw i (.ofNat 5 d) (.ofNat 5 a) (.ofNat 13 imm))
    | _ => .error .reservedBits
  | 39 => match unpack [13, 5, 5] x with
    | [imm, a, d] => .ok (.std i (.ofNat 5 d) (.ofNat 5 a) (.ofNat 13 imm))
    | _ => .error .reservedBits
  | 40 => match unpack [3, 1, 1, 1, 2, 5, 5, 5] x with
    | [sc, z0, ord, u, sz, b, a, d] => need (z0 == 0) (.lda i (.ofNat 5 d) (.ofNat 5 a) (.ofNat 5 b) (.ofNat 2 sz) (.ofNat 1 u) (.ofNat 1 ord) (.ofNat 3 sc))
    | _ => .error .reservedBits
  | 41 => match unpack [3, 1, 1, 1, 2, 5, 5, 5] x with
    | [sc, z0, ord, z1, sz, b, a, d] => need (z0 == 0 && z1 == 0) (.sta i (.ofNat 5 d) (.ofNat 5 a) (.ofNat 5 b) (.ofNat 2 sz) (.ofNat 1 ord) (.ofNat 3 sc))
    | _ => .error .reservedBits
  | 42 => match unpack [3, 1, 4, 5, 5, 5] x with
    | [z0, sz, op, b, a, d] => need (z0 == 0) (.atom i (.ofNat 5 d) (.ofNat 5 a) (.ofNat 5 b) (.ofNat 4 op) (.ofNat 1 sz))
    | _ => .error .reservedBits
  | 43 => match unpack [3, 1, 4, 5, 5, 5] x with
    | [sc, sz, op, b, a, d] => .ok (.atomAcq i (.ofNat 5 d) (.ofNat 5 a) (.ofNat 5 b) (.ofNat 4 op) (.ofNat 1 sz) (.ofNat 3 sc))
    | _ => .error .reservedBits
  | 44 => match unpack [3, 1, 4, 5, 5, 5] x with
    | [sc, sz, op, b, a, d] => .ok (.atomRel i (.ofNat 5 d) (.ofNat 5 a) (.ofNat 5 b) (.ofNat 4 op) (.ofNat 1 sz) (.ofNat 3 sc))
    | _ => .error .reservedBits
  | 45 => match unpack [3, 1, 4, 5, 5, 5] x with
    | [sc, sz, op, b, a, d] => .ok (.atomAr i (.ofNat 5 d) (.ofNat 5 a) (.ofNat 5 b) (.ofNat 4 op) (.ofNat 1 sz) (.ofNat 3 sc))
    | _ => .error .reservedBits
  | 46 => match unpack [3, 1, 1, 18] x with
    | [sc, z0, u, z1] => if u = 0 then need (z0 == 0 && z1 == 0) (.fence i (.ofNat 3 sc)) else need (z0 == 0 && z1 == 0) (.fenceU i (.ofNat 3 sc))
    | _ => .error .reservedBits
  | 47 => need (x == 0) (.cinv i)
  | 48 => match unpack [13, 5, 5] x with
    | [n, z0, d] => need (z0 == 0) (.mfs i (.ofNat 5 d) (.ofNat 13 n))
    | _ => .error .reservedBits
  | 49 => match unpack [13, 5, 5] x with
    | [n, a, z0] => need (z0 == 0) (.mts i (.ofNat 5 a) (.ofNat 13 n))
    | _ => .error .reservedBits
  | 50 => match unpack [13, 10] x with
    | [code, z0] => need (z0 == 0) (.trap i (.ofNat 13 code))
    | _ => .error .reservedBits
  | 51 => need (x == 0) (.rft i)
  | 52 => need (x == 0) (.halt i)
  | 53 => match unpack [4, 19] x with
    | [w, z0] => need (z0 == 0) (.publish i (.ofNat 4 w))
    | _ => .error .reservedBits
  | 54 => match unpack [13, 5, 5] x with
    | [lead, a, z0] => need (z0 == 0) (.setphase i (.ofNat 5 a) (.ofNat 13 lead))
    | _ => .error .reservedBits
  | _ => if 0x38 ≤ o then .error .extension else .error .reservedOpcode

/-- The S syllable (R15, R26). -/
def parseS (w : Nat) : Except DecodeErr Instr :=
  match unpack [23, 6, 3] w with
  | [x, o, i] => parseSOp (.ofNat 3 i) o x
  | _ => .error .reservedBits

/-- The V syllable with opcode `o` and the 40 bits `x` below it (R17, R29). -/
def parseVOp (o x : Nat) : Except DecodeErr Instr :=
  match o with
  | 0 => need (x == 0) (.vnop)
  | 1 => match unpack [8, 8, 8, 8, 4, 4] x with
    | [z0, b, a, d, p, ty] => need (z0 == 0) (.vadd (.ofNat 4 ty) (.ofNat 4 p) (.ofNat 8 d) (.ofNat 8 a) (.ofNat 8 b))
    | _ => .error .reservedBits
  | 2 => match unpack [8, 8, 8, 8, 4, 4] x with
    | [z0, b, a, d, p, ty] => need (z0 == 0) (.vsub (.ofNat 4 ty) (.ofNat 4 p) (.ofNat 8 d) (.ofNat 8 a) (.ofNat 8 b))
    | _ => .error .reservedBits
  | 3 => match unpack [8, 8, 8, 8, 4, 4] x with
    | [z0, b, a, d, p, ty] => need (z0 == 0) (.vmul (.ofNat 4 ty) (.ofNat 4 p) (.ofNat 8 d) (.ofNat 8 a) (.ofNat 8 b))
    | _ => .error .reservedBits
  | 4 => match unpack [8, 8, 8, 8, 4, 4] x with
    | [z0, b, a, d, p, ty] => need (z0 == 0) (.vmulh (.ofNat 4 ty) (.ofNat 4 p) (.ofNat 8 d) (.ofNat 8 a) (.ofNat 8 b))
    | _ => .error .reservedBits
  | 5 => match unpack [8, 8, 8, 8, 4, 4] x with
    | [z0, b, a, d, p, ty] => need (z0 == 0) (.vadds (.ofNat 4 ty) (.ofNat 4 p) (.ofNat 8 d) (.ofNat 8 a) (.ofNat 8 b))
    | _ => .error .reservedBits
  | 6 => match unpack [8, 8, 8, 8, 4, 4] x with
    | [z0, b, a, d, p, ty] => need (z0 == 0) (.vsubs (.ofNat 4 ty) (.ofNat 4 p) (.ofNat 8 d) (.ofNat 8 a) (.ofNat 8 b))
    | _ => .error .reservedBits
  | 7 => match unpack [8, 8, 8, 8, 4, 4] x with
    | [z0, b, a, d, p, ty] => need (z0 == 0) (.vmin (.ofNat 4 ty) (.ofNat 4 p) (.ofNat 8 d) (.ofNat 8 a) (.ofNat 8 b))
    | _ => .error .reservedBits
  | 8 => match unpack [8, 8, 8, 8, 4, 4] x with
    | [z0, b, a, d, p, ty] => need (z0 == 0) (.vmax (.ofNat 4 ty) (.ofNat 4 p) (.ofNat 8 d) (.ofNat 8 a) (.ofNat 8 b))
    | _ => .error .reservedBits
  | 9 => match unpack [16, 8, 8, 4, 4] x with
    | [z0, a, d, p, ty] => need (z0 == 0) (.vabs (.ofNat 4 ty) (.ofNat 4 p) (.ofNat 8 d) (.ofNat 8 a))
    | _ => .error .reservedBits
  | 10 => match unpack [16, 8, 8, 4, 4] x with
    | [z0, a, d, p, ty] => need (z0 == 0) (.vneg (.ofNat 4 ty) (.ofNat 4 p) (.ofNat 8 d) (.ofNat 8 a))
    | _ => .error .reservedBits
  | 11 => match unpack [8, 8, 8, 8, 4, 4] x with
    | [z0, b, a, d, p, ty] => need (z0 == 0) (.vmulw (.ofNat 4 ty) (.ofNat 4 p) (.ofNat 8 d) (.ofNat 8 a) (.ofNat 8 b))
    | _ => .error .reservedBits
  | 12 => match unpack [8, 8, 8, 8, 4, 4] x with
    | [z0, b, a, d, p, ty] => need (z0 == 0) (.vaddw (.ofNat 4 ty) (.ofNat 4 p) (.ofNat 8 d) (.ofNat 8 a) (.ofNat 8 b))
    | _ => .error .reservedBits
  | 13 => match unpack [16, 8, 8, 4, 4] x with
    | [z0, a, d, p, ty] => need (z0 == 0) (.vnarrow (.ofNat 4 ty) (.ofNat 4 p) (.ofNat 8 d) (.ofNat 8 a))
    | _ => .error .reservedBits
  | 14 => match unpack [8, 8, 8, 8, 4, 4] x with
    | [imm, z0, a, d, p, ty] => need (z0 == 0) (.vaddi (.ofNat 4 ty) (.ofNat 4 p) (.ofNat 8 d) (.ofNat 8 a) (.ofNat 8 imm))
    | _ => .error .reservedBits
  | 15 => match unpack [8, 8, 8, 8, 4, 4] x with
    | [z0, b, a, d, p, ty] => need (z0 == 0) (.vmac (.ofNat 4 ty) (.ofNat 4 p) (.ofNat 8 d) (.ofNat 8 a) (.ofNat 8 b))
    | _ => .error .reservedBits
  | 16 => match unpack [8, 8, 8, 8, 4, 4] x with
    | [z0, b, a, d, p, ty] => need (z0 == 0) (.vand (.ofNat 4 ty) (.ofNat 4 p) (.ofNat 8 d) (.ofNat 8 a) (.ofNat 8 b))
    | _ => .error .reservedBits
  | 17 => match unpack [8, 8, 8, 8, 4, 4] x with
    | [z0, b, a, d, p, ty] => need (z0 == 0) (.vor (.ofNat 4 ty) (.ofNat 4 p) (.ofNat 8 d) (.ofNat 8 a) (.ofNat 8 b))
    | _ => .error .reservedBits
  | 18 => match unpack [8, 8, 8, 8, 4, 4] x with
    | [z0, b, a, d, p, ty] => need (z0 == 0) (.vxor (.ofNat 4 ty) (.ofNat 4 p) (.ofNat 8 d) (.ofNat 8 a) (.ofNat 8 b))
    | _ => .error .reservedBits
  | 19 => match unpack [8, 8, 8, 8, 4, 4] x with
    | [z0, b, a, d, p, ty] => need (z0 == 0) (.vandn (.ofNat 4 ty) (.ofNat 4 p) (.ofNat 8 d) (.ofNat 8 a) (.ofNat 8 b))
    | _ => .error .reservedBits
  | 20 => match unpack [16, 8, 8, 4, 4] x with
    | [z0, a, d, p, ty] => need (z0 == 0) (.vnot (.ofNat 4 ty) (.ofNat 4 p) (.ofNat 8 d) (.ofNat 8 a))
    | _ => .error .reservedBits
  | 21 => match unpack [8, 8, 8, 8, 4, 4] x with
    | [z0, b, a, d, p, ty] => need (z0 == 0) (.vshl (.ofNat 4 ty) (.ofNat 4 p) (.ofNat 8 d) (.ofNat 8 a) (.ofNat 8 b))
    | _ => .error .reservedBits
  | 22 => match unpack [8, 8, 8, 8, 4, 4] x with
    | [z0, b, a, d, p, ty] => need (z0 == 0) (.vshr (.ofNat 4 ty) (.ofNat 4 p) (.ofNat 8 d) (.ofNat 8 a) (.ofNat 8 b))
    | _ => .error .reservedBits
  | 23 => match unpack [8, 8, 8, 8, 4, 4] x with
    | [z0, b, a, d, p, ty] => need (z0 == 0) (.vsra (.ofNat 4 ty) (.ofNat 4 p) (.ofNat 8 d) (.ofNat 8 a) (.ofNat 8 b))
    | _ => .error .reservedBits
  | 24 => match unpack [8, 8, 8, 8, 4, 4] x with
    | [imm, z0, a, d, p, ty] => need (z0 == 0) (.vshli (.ofNat 4 ty) (.ofNat 4 p) (.ofNat 8 d) (.ofNat 8 a) (.ofNat 8 imm))
    | _ => .error .reservedBits
  | 25 => match unpack [8, 8, 8, 8, 4, 4] x with
    | [imm, z0, a, d, p, ty] => need (z0 == 0) (.vshri (.ofNat 4 ty) (.ofNat 4 p) (.ofNat 8 d) (.ofNat 8 a) (.ofNat 8 imm))
    | _ => .error .reservedBits
  | 26 => match unpack [8, 8, 8, 8, 4, 4] x with
    | [imm, z0, a, d, p, ty] => need (z0 == 0) (.vsrai (.ofNat 4 ty) (.ofNat 4 p) (.ofNat 8 d) (.ofNat 8 a) (.ofNat 8 imm))
    | _ => .error .reservedBits
  | 32 => match unpack [8, 8, 8, 4, 4, 4, 4] x with
    | [imm, b, a, d, z0, p, ty] => need (z0 == 0) (.vcmp (.ofNat 4 ty) (.ofNat 4 p) (.ofNat 4 d) (.ofNat 8 a) (.ofNat 8 b) (.ofNat 8 imm))
    | _ => .error .reservedBits
  | 33 => match unpack [4, 4, 8, 8, 8, 4, 4] x with
    | [c, z0, b, a, d, p, ty] => need (z0 == 0) (.vsel (.ofNat 4 ty) (.ofNat 4 p) (.ofNat 8 d) (.ofNat 8 a) (.ofNat 8 b) (.ofNat 4 c))
    | _ => .error .reservedBits
  | 34 => match unpack [16, 5, 3, 8, 4, 4] x with
    | [z0, a, z1, d, p, ty] => need (z0 == 0 && z1 == 0) (.vsplat (.ofNat 4 ty) (.ofNat 4 p) (.ofNat 8 d) (.ofNat 5 a))
    | _ => .error .reservedBits
  | 35 => match unpack [16, 8, 8, 4, 4] x with
    | [imm, z0, d, p, ty] => need (z0 == 0) (.vsplati (.ofNat 4 ty) (.ofNat 4 p) (.ofNat 8 d) (.ofNat 16 imm))
    | _ => .error .reservedBits
  | 36 => match unpack [8, 5, 3, 5, 3, 8, 4, 4] x with
    | [z0, b, z1, a, z2, d, p, ty] => need (z0 == 0 && z1 == 0 && z2 == 0) (.vins (.ofNat 4 ty) (.ofNat 4 p) (.ofNat 8 d) (.ofNat 5 a) (.ofNat 5 b))
    | _ => .error .reservedBits
  | 37 => match unpack [8, 5, 3, 8, 5, 7, 4] x with
    | [z0, b, z1, a, d, z2, ty] => need (z0 == 0 && z1 == 0 && z2 == 0) (.vext (.ofNat 4 ty) (.ofNat 5 d) (.ofNat 8 a) (.ofNat 5 b))
    | _ => .error .reservedBits
  | 38 => match unpack [16, 8, 8, 4, 4] x with
    | [z0, a, d, p, ty] => need (z0 == 0) (.vmov (.ofNat 4 ty) (.ofNat 4 p) (.ofNat 8 d) (.ofNat 8 a))
    | _ => .error .reservedBits
  | 48 => match unpack [8, 8, 8, 8, 4, 4] x with
    | [c, b, a, d, p, ty] => .ok (.vfma (.ofNat 4 ty) (.ofNat 4 p) (.ofNat 8 d) (.ofNat 8 a) (.ofNat 8 b) (.ofNat 8 c))
    | _ => .error .reservedBits
  | 49 => match unpack [8, 8, 8, 8, 4, 4] x with
    | [c, b, a, d, p, ty] => .ok (.vfms (.ofNat 4 ty) (.ofNat 4 p) (.ofNat 8 d) (.ofNat 8 a) (.ofNat 8 b) (.ofNat 8 c))
    | _ => .error .reservedBits
  | 50 => match unpack [8, 8, 8, 8, 4, 4] x with
    | [c, b, a, d, p, ty] => .ok (.vfnma (.ofNat 4 ty) (.ofNat 4 p) (.ofNat 8 d) (.ofNat 8 a) (.ofNat 8 b) (.ofNat 8 c))
    | _ => .error .reservedBits
  | 56 => match unpack [8, 8, 8, 8, 4, 4] x with
    | [imm, z0, a, d, p, ty] => need (z0 == 0) (.vcvt (.ofNat 4 ty) (.ofNat 4 p) (.ofNat 8 d) (.ofNat 8 a) (.ofNat 8 imm))
    | _ => .error .reservedBits
  | 57 => match unpack [8, 8, 8, 8, 4, 4] x with
    | [c, b, a, d, p, ty] => .ok (.vdot (.ofNat 4 ty) (.ofNat 4 p) (.ofNat 8 d) (.ofNat 8 a) (.ofNat 8 b) (.ofNat 8 c))
    | _ => .error .reservedBits
  | 58 => match unpack [16, 8, 8, 4, 4] x with
    | [z0, a, d, p, ty] => need (z0 == 0) (.vrcp (.ofNat 4 ty) (.ofNat 4 p) (.ofNat 8 d) (.ofNat 8 a))
    | _ => .error .reservedBits
  | 59 => match unpack [16, 8, 8, 4, 4] x with
    | [z0, a, d, p, ty] => need (z0 == 0) (.vrsq (.ofNat 4 ty) (.ofNat 4 p) (.ofNat 8 d) (.ofNat 8 a))
    | _ => .error .reservedBits
  | 60 => match unpack [8, 8, 8, 8, 4, 4] x with
    | [z0, b, a, d, p, ty] => need (z0 == 0) (.vrcpn (.ofNat 4 ty) (.ofNat 4 p) (.ofNat 8 d) (.ofNat 8 a) (.ofNat 8 b))
    | _ => .error .reservedBits
  | 61 => match unpack [8, 8, 8, 8, 4, 4] x with
    | [z0, b, a, d, p, ty] => need (z0 == 0) (.vrsqn (.ofNat 4 ty) (.ofNat 4 p) (.ofNat 8 d) (.ofNat 8 a) (.ofNat 8 b))
    | _ => .error .reservedBits
  | 62 => match unpack [16, 8, 8, 4, 4] x with
    | [z0, a, d, p, ty] => need (z0 == 0) (.vexp2 (.ofNat 4 ty) (.ofNat 4 p) (.ofNat 8 d) (.ofNat 8 a))
    | _ => .error .reservedBits
  | 63 => match unpack [16, 8, 8, 4, 4] x with
    | [z0, a, d, p, ty] => need (z0 == 0) (.vlog2 (.ofNat 4 ty) (.ofNat 4 p) (.ofNat 8 d) (.ofNat 8 a))
    | _ => .error .reservedBits
  | 64 => match unpack [16, 8, 8, 4, 4] x with
    | [z0, a, d, p, ty] => need (z0 == 0) (.vredadd (.ofNat 4 ty) (.ofNat 4 p) (.ofNat 8 d) (.ofNat 8 a))
    | _ => .error .reservedBits
  | 65 => match unpack [16, 8, 8, 4, 4] x with
    | [z0, a, d, p, ty] => need (z0 == 0) (.vredmin (.ofNat 4 ty) (.ofNat 4 p) (.ofNat 8 d) (.ofNat 8 a))
    | _ => .error .reservedBits
  | 66 => match unpack [16, 8, 8, 4, 4] x with
    | [z0, a, d, p, ty] => need (z0 == 0) (.vredmax (.ofNat 4 ty) (.ofNat 4 p) (.ofNat 8 d) (.ofNat 8 a))
    | _ => .error .reservedBits
  | 67 => match unpack [16, 8, 8, 4, 4] x with
    | [z0, a, d, p, ty] => need (z0 == 0) (.vscan (.ofNat 4 ty) (.ofNat 4 p) (.ofNat 8 d) (.ofNat 8 a))
    | _ => .error .reservedBits
  | 68 => match unpack [16, 4, 4, 8, 4, 4] x with
    | [z0, a, z1, d, p, ty] => need (z0 == 0 && z1 == 0) (.vppopc (.ofNat 4 ty) (.ofNat 4 p) (.ofNat 8 d) (.ofNat 4 a))
    | _ => .error .reservedBits
  | 69 => match unpack [8, 8, 8, 8, 4, 4] x with
    | [imm, b, a, d, p, ty] => .ok (.vtopk (.ofNat 4 ty) (.ofNat 4 p) (.ofNat 8 d) (.ofNat 8 a) (.ofNat 8 b) (.ofNat 8 imm))
    | _ => .error .reservedBits
  | 72 => match unpack [8, 8, 8, 8, 4, 4] x with
    | [z0, b, a, d, p, ty] => need (z0 == 0) (.vperm (.ofNat 4 ty) (.ofNat 4 p) (.ofNat 8 d) (.ofNat 8 a) (.ofNat 8 b))
    | _ => .error .reservedBits
  | 73 => match unpack [8, 8, 8, 8, 4, 4] x with
    | [imm, b, a, d, p, ty] => .ok (.vslide (.ofNat 4 ty) (.ofNat 4 p) (.ofNat 8 d) (.ofNat 8 a) (.ofNat 8 b) (.ofNat 8 imm))
    | _ => .error .reservedBits
  | 74 => match unpack [8, 8, 8, 8, 4, 4] x with
    | [z0, b, a, d, p, ty] => need (z0 == 0) (.vzip (.ofNat 4 ty) (.ofNat 4 p) (.ofNat 8 d) (.ofNat 8 a) (.ofNat 8 b))
    | _ => .error .reservedBits
  | 75 => match unpack [16, 8, 8, 4, 4] x with
    | [z0, a, d, p, ty] => need (z0 == 0) (.vunzip (.ofNat 4 ty) (.ofNat 4 p) (.ofNat 8 d) (.ofNat 8 a))
    | _ => .error .reservedBits
  | 76 => match unpack [4, 12, 8, 8, 4, 4] x with
    | [c, z0, a, d, z1, ty] => need (z0 == 0 && z1 == 0) (.vcompress (.ofNat 4 ty) (.ofNat 8 d) (.ofNat 8 a) (.ofNat 4 c))
    | _ => .error .reservedBits
  | 77 => match unpack [4, 12, 8, 8, 4, 4] x with
    | [c, z0, a, d, z1, ty] => need (z0 == 0 && z1 == 0) (.vexpand (.ofNat 4 ty) (.ofNat 8 d) (.ofNat 8 a) (.ofNat 4 c))
    | _ => .error .reservedBits
  | 78 => match unpack [8, 8, 8, 8, 4, 4] x with
    | [imm, z0, a, d, p, ty] => need (z0 == 0) (.vbcaste (.ofNat 4 ty) (.ofNat 4 p) (.ofNat 8 d) (.ofNat 8 a) (.ofNat 8 imm))
    | _ => .error .reservedBits
  | 80 => match unpack [8, 8, 8, 8, 4, 4] x with
    | [imm, z0, a, d, p, ty] => need (z0 == 0) (.vcbdec (.ofNat 4 ty) (.ofNat 4 p) (.ofNat 8 d) (.ofNat 8 a) (.ofNat 8 imm))
    | _ => .error .reservedBits
  | 88 => match unpack [8, 8, 8, 8, 4, 4] x with
    | [imm, tile, a, d, p, ty] => .ok (.scacc (.ofNat 4 ty) (.ofNat 4 p) (.ofNat 8 d) (.ofNat 8 a) (.ofNat 8 tile) (.ofNat 8 imm))
    | _ => .error .reservedBits
  | 96 => match unpack [8, 4, 4, 4, 4, 4, 4, 4, 4] x with
    | [z0, b, z1, a, z2, d, z3, p, ty] => need (z0 == 0 && z1 == 0 && z2 == 0 && z3 == 0) (.pand (.ofNat 4 ty) (.ofNat 4 p) (.ofNat 4 d) (.ofNat 4 a) (.ofNat 4 b))
    | _ => .error .reservedBits
  | 97 => match unpack [8, 4, 4, 4, 4, 4, 4, 4, 4] x with
    | [z0, b, z1, a, z2, d, z3, p, ty] => need (z0 == 0 && z1 == 0 && z2 == 0 && z3 == 0) (.por (.ofNat 4 ty) (.ofNat 4 p) (.ofNat 4 d) (.ofNat 4 a) (.ofNat 4 b))
    | _ => .error .reservedBits
  | 98 => match unpack [8, 4, 4, 4, 4, 4, 4, 4, 4] x with
    | [z0, b, z1, a, z2, d, z3, p, ty] => need (z0 == 0 && z1 == 0 && z2 == 0 && z3 == 0) (.pxor (.ofNat 4 ty) (.ofNat 4 p) (.ofNat 4 d) (.ofNat 4 a) (.ofNat 4 b))
    | _ => .error .reservedBits
  | 99 => match unpack [8, 4, 4, 4, 4, 4, 4, 4, 4] x with
    | [z0, b, z1, a, z2, d, z3, p, ty] => need (z0 == 0 && z1 == 0 && z2 == 0 && z3 == 0) (.pandn (.ofNat 4 ty) (.ofNat 4 p) (.ofNat 4 d) (.ofNat 4 a) (.ofNat 4 b))
    | _ => .error .reservedBits
  | 100 => match unpack [16, 4, 4, 4, 4, 4, 4] x with
    | [z0, a, z1, d, z2, p, ty] => need (z0 == 0 && z1 == 0 && z2 == 0) (.pnot (.ofNat 4 ty) (.ofNat 4 p) (.ofNat 4 d) (.ofNat 4 a))
    | _ => .error .reservedBits
  | 101 => match unpack [16, 8, 4, 8, 4] x with
    | [imm, z0, d, z1, ty] => need (z0 == 0 && z1 == 0) (.pseti (.ofNat 4 ty) (.ofNat 4 d) (.ofNat 16 imm))
    | _ => .error .reservedBits
  | 102 => match unpack [16, 4, 4, 5, 3, 4, 4] x with
    | [z0, a, z1, d, z2, p, ty] => need (z0 == 0 && z1 == 0 && z2 == 0) (.ppopc (.ofNat 4 ty) (.ofNat 4 p) (.ofNat 5 d) (.ofNat 4 a))
    | _ => .error .reservedBits
  | 103 => match unpack [16, 4, 4, 5, 3, 4, 4] x with
    | [z0, a, z1, d, z2, p, ty] => need (z0 == 0 && z1 == 0 && z2 == 0) (.pfirst (.ofNat 4 ty) (.ofNat 4 p) (.ofNat 5 d) (.ofNat 4 a))
    | _ => .error .reservedBits
  | 112 => match unpack [24, 8, 4, 4] x with
    | [z0, d, p, ty] => need (z0 == 0) (.vpclr (.ofNat 4 ty) (.ofNat 4 p) (.ofNat 8 d))
    | _ => .error .reservedBits
  | 113 => match unpack [16, 8, 4, 4, 4, 4] x with
    | [z0, a, d, z1, p, ty] => need (z0 == 0 && z1 == 0) (.vptest (.ofNat 4 ty) (.ofNat 4 p) (.ofNat 4 d) (.ofNat 8 a))
    | _ => .error .reservedBits
  | _ => if 0xE0 ≤ o then .error .extension else .error .reservedOpcode

/-- The V syllable (R17). -/
def parseV (w : Nat) : Except DecodeErr Instr :=
  match unpack [40, 8] w with
  | [x, o] => parseVOp o x
  | _ => .error .reservedBits

/-- The M syllable with opcode `o` and OPER `x` (R21, R30). -/
def parseMOp (o x : Nat) : Except DecodeErr Instr :=
  match o with
  | 0 => need (x == 0) (.mnop)
  | 1 => match unpack [13, 16, 5, 2, 6] x with
    | [z0, imm, sa, w, vr] => need (z0 == 0) (.vld (.ofNat 6 vr) (.ofNat 2 w) (.ofNat 5 sa) (.ofNat 16 imm))
    | _ => .error .reservedBits
  | 2 => match unpack [7, 2, 4, 16, 5, 2, 6] x with
    | [z0, gr, p, imm, sa, w, vr] => need (z0 == 0) (.vst (.ofNat 6 vr) (.ofNat 2 w) (.ofNat 5 sa) (.ofNat 16 imm) (.ofNat 4 p) (.ofNat 2 gr))
    | _ => .error .reservedBits
  | 3 => match unpack [19, 4, 6, 5, 2, 6] x with
    | [z0, p, vb, sa, z1, vr] => need (z0 == 0 && z1 == 0) (.vgather (.ofNat 6 vr) (.ofNat 5 sa) (.ofNat 6 vb) (.ofNat 4 p))
    | _ => .error .reservedBits
  | 4 => match unpack [19, 4, 6, 5, 2, 6] x with
    | [z0, p, vb, sa, z1, vr] => need (z0 == 0 && z1 == 0) (.vscatter (.ofNat 6 vr) (.ofNat 5 sa) (.ofNat 6 vb) (.ofNat 4 p))
    | _ => .error .reservedBits
  | 5 => match unpack [10, 5, 10, 1, 4, 6, 6] x with
    | [z0, sb, imm, i, p, va, vd] => need (z0 == 0) (.vrmg (.ofNat 6 vd) (.ofNat 6 va) (.ofNat 4 p) (.ofNat 1 i) (.ofNat 10 imm) (.ofNat 5 sb))
    | _ => .error .reservedBits
  | 8 => match unpack [36, 1, 5] x with
    | [z0, auto, slot] => need (z0 == 0) (.claim (.ofNat 5 slot) (.ofNat 1 auto))
    | _ => .error .reservedBits
  | 9 => match unpack [37, 5] x with
    | [z0, slot] => need (z0 == 0) (.release (.ofNat 5 slot))
    | _ => .error .reservedBits
  | 10 => match unpack [33, 1, 6, 1, 1] x with
    | [z0, ovr, vn, set, eng] => need (z0 == 0) (.mtc (.ofNat 1 eng) (.ofNat 1 set) (.ofNat 6 vn) (.ofNat 1 ovr))
    | _ => .error .reservedBits
  | 11 => match unpack [23, 2, 4, 7, 6] x with
    | [z0, sel, row, tile, vd] => need (z0 == 0) (.accrd (.ofNat 6 vd) (.ofNat 7 tile) (.ofNat 4 row) (.ofNat 2 sel))
    | _ => .error .reservedBits
  | 12 => match unpack [23, 3, 1, 3, 3, 6, 3] x with
    | [z0, sc, rel, cnt, seg, vn, ring] => need (z0 == 0) (.enq (.ofNat 3 ring) (.ofNat 6 vn) (.ofNat 3 seg) (.ofNat 3 cnt) (.ofNat 1 rel) (.ofNat 3 sc))
    | _ => .error .reservedBits
  | 16 => match unpack [12, 16, 1, 5, 5, 3] x with
    | [z0, imm, rmt, sc, sa, tl] => need (z0 == 0) (.tlwait (.ofNat 3 tl) (.ofNat 5 sa) (.ofNat 5 sc) (.ofNat 1 rmt) (.ofNat 16 imm))
    | _ => .error .reservedBits
  | 17 => match unpack [31, 8, 3] x with
    | [z0, cnt, tl] => need (z0 == 0) (.tladv (.ofNat 3 tl) (.ofNat 8 cnt))
    | _ => .error .reservedBits
  | 18 => match unpack [37, 5] x with
    | [z0, sa] => need (z0 == 0) (.tagwaitAny (.ofNat 5 sa))
    | _ => .error .reservedBits
  | 19 => match unpack [37, 5] x with
    | [z0, sa] => need (z0 == 0) (.tagwaitAll (.ofNat 5 sa))
    | _ => .error .reservedBits
  | 20 => match unpack [32, 5, 5] x with
    | [z0, sd, sa] => need (z0 == 0) (.tagff (.ofNat 5 sa) (.ofNat 5 sd))
    | _ => .error .reservedBits
  | 21 => match unpack [37, 5] x with
    | [z0, sa] => need (z0 == 0) (.tagclr (.ofNat 5 sa))
    | _ => .error .reservedBits
  | 24 => match unpack [30, 5, 2, 5] x with
    | [z0, reg, lev, rv] => need (z0 == 0) (.rvinit (.ofNat 5 rv) (.ofNat 2 lev) (.ofNat 5 reg))
    | _ => .error .reservedBits
  | 25 => match unpack [30, 5, 2, 5] x with
    | [z0, reg, lev, rv] => need (z0 == 0) (.arrive (.ofNat 5 rv) (.ofNat 2 lev) (.ofNat 5 reg))
    | _ => .error .reservedBits
  | 26 => match unpack [30, 5, 2, 5] x with
    | [z0, reg, lev, rv] => need (z0 == 0) (.rvwait (.ofNat 5 rv) (.ofNat 2 lev) (.ofNat 5 reg))
    | _ => .error .reservedBits
  | 32 => match unpack [29, 5, 8] x with
    | [z0, sd, buf] => need (z0 == 0) (.bufw (.ofNat 8 buf) (.ofNat 5 sd))
    | _ => .error .reservedBits
  | 33 => match unpack [34, 8] x with
    | [z0, buf] => need (z0 == 0) (.bufp (.ofNat 8 buf))
    | _ => .error .reservedBits
  | 34 => match unpack [24, 5, 5, 8] x with
    | [z0, sa, sd, buf] => need (z0 == 0) (.bufr (.ofNat 8 buf) (.ofNat 5 sd) (.ofNat 5 sa))
    | _ => .error .reservedBits
  | 35 => match unpack [24, 5, 5, 8] x with
    | [z0, sa, z1, buf] => need (z0 == 0 && z1 == 0) (.bufx (.ofNat 8 buf) (.ofNat 5 sa))
    | _ => .error .reservedBits
  | 40 => match unpack [23, 5, 13, 1] x with
    | [z0, sa, imm, i] => need (z0 == 0) (.livemark (.ofNat 1 i) (.ofNat 13 imm) (.ofNat 5 sa))
    | _ => .error .reservedBits
  | _ => if 0x38 ≤ o then .error .extension else .error .reservedOpcode

/-- The M syllable (R21). -/
def parseM (w : Nat) : Except DecodeErr Instr :=
  match unpack [42, 6] w with
  | [x, o] => parseMOp o x
  | _ => .error .reservedBits

/-- The command with number `n` of ring `ring` (R36). -/
def parseCmdNo (ring n : Nat) (c : Cmd) : Except DecodeErr Instr :=
  match n with
  | 0 => .ok (.cnop (.ofNat 3 ring) c)
  | n => match ring with
    | 0 => match n with
      | 1 => .ok (.opld c)
      | 2 => .ok (.mmgo c)
      | 3 => .ok (.mmsl c)
      | 4 => .ok (.accz c)
      | 5 => .ok (.accst c)
      | 6 => .ok (.accld c)
      | 7 => .ok (.mdqfill c)
      | _ => if 0x18 ≤ n then .error .extension else .error .reservedOpcode
    | 1 => match n with
      | 1 => .ok (.skgo c)
      | 2 => .ok (.skscore c)
      | 3 => .ok (.cbtab c)
      | _ => if 0x18 ≤ n then .error .extension else .error .reservedOpcode
    | 2 => match n with
      | 1 => .ok (.cpy c)
      | 2 => .ok (.cpyg c)
      | 3 => .ok (.cpys c)
      | 4 => .ok (.cpyop c)
      | 5 => .ok (.cpyfill c)
      | _ => if 0x18 ≤ n then .error .extension else .error .reservedOpcode
    | 3 => match n with
      | 1 => .ok (.nput c)
      | 2 => .ok (.nget c)
      | 3 => .ok (.nsig c)
      | 4 => .ok (.natom c)
      | 5 => .ok (.ncoll c)
      | 6 => .ok (.nxpert c)
      | 7 => .ok (.nabort c)
      | _ => if 0x18 ≤ n then .error .extension else .error .reservedOpcode
    | 4 => match n with
      | 1 => .ok (.btalloc c)
      | 2 => .ok (.btfree c)
      | 3 => .ok (.btshare c)
      | 4 => .ok (.btcow c)
      | 5 => .ok (.btwalk c)
      | 6 => .ok (.btevict c)
      | 7 => .ok (.sumupd c)
      | 8 => .ok (.ezopen c)
      | 9 => .ok (.eztree c)
      | 10 => .ok (.ezcheck c)
      | 11 => .ok (.ezpark c)
      | 12 => .ok (.ezresume c)
      | 13 => .ok (.ezclose c)
      | 14 => .ok (.eznext c)
      | _ => if 0x18 ≤ n then .error .extension else .error .reservedOpcode
    | 5 => match n with
      | 1 => .ok (.xrun c)
      | 2 => .ok (.xstop c)
      | _ => if 0x18 ≤ n then .error .extension else .error .reservedOpcode
    | _ => .error .frame

/-- The words that ENQ writes into an entry: CMDW, WAITV and PARAM0 to PARAM3 (R31), the lowest first. -/
def parseEntry (e : Nat) : Option (Nat × Nat × Bool × Cmd) :=
  match unpack [40, 2, 6, 2, 2, 4, 5, 3, 64, 64, 64, 64, 64] e with
  | [arg, z0, tag, z1, rtl, wtl, n, r, wv, p0, p1, p2, p3] =>
    some (r, n, z0 == 0 && z1 == 0,
      { wtl := .ofNat 4 wtl, rtl := .ofNat 2 rtl, tag := .ofNat 6 tag, arg := .ofNat 40 arg, waitv := .ofNat 64 wv,
        p0 := .ofNat 64 p0, p1 := .ofNat 64 p1, p2 := .ofNat 64 p2, p3 := .ofNat 64 p3 })
  | _ => none

/-- The command of a 48-byte entry at the head of ring `ring`: the frame first, then the number (R36). -/
def decodeEntry (ring e : Nat) : Except DecodeErr Instr :=
  match parseEntry e with
  | some (r, n, z, c) =>
    if r = ring ∧ r ≤ 5 ∧ z ∧ cmdOk (r == 2) c then parseCmdNo ring n c else .error .frame
  | none => .error .frame


/-- The transfer instruction with opcode `o` (R42). -/
def parseXOp (lane : BitVec 3) (o : Nat) (w : XWords) : Except DecodeErr Instr :=
  match o with
  | 0 => .ok (.xnop lane w)
  | 1 => .ok (.xmov lane w)
  | 2 => .ok (.xmc lane w)
  | 3 => .ok (.xloop lane w)
  | 4 => .ok (.xwait lane w)
  | 5 => .ok (.xsig lane w)
  | 6 => .ok (.xphase lane w)
  | 7 => .ok (.xend lane w)
  | _ => if 0x80 ≤ o then .error .extension else .error .reservedOpcode

/-- The scalar destination that a syllable names (R53). -/
def scalarDst : Instr → Option (BitVec 5)
  | .add _ d _ _ => some d
  | .sub _ d _ _ => some d
  | .and _ d _ _ => some d
  | .or _ d _ _ => some d
  | .xor _ d _ _ => some d
  | .andn _ d _ _ => some d
  | .shl _ d _ _ => some d
  | .shr _ d _ _ => some d
  | .sra _ d _ _ => some d
  | .min _ d _ _ => some d
  | .max _ d _ _ => some d
  | .minu _ d _ _ => some d
  | .maxu _ d _ _ => some d
  | .seq _ d _ _ => some d
  | .sne _ d _ _ => some d
  | .slt _ d _ _ => some d
  | .sltu _ d _ _ => some d
  | .sle _ d _ _ => some d
  | .sleu _ d _ _ => some d
  | .mul _ d _ _ => some d
  | .mulh _ d _ _ => some d
  | .mulhu _ d _ _ => some d
  | .div _ d _ _ => some d
  | .divu _ d _ _ => some d
  | .rem _ d _ _ => some d
  | .remu _ d _ _ => some d
  | .clz _ d _ => some d
  | .ctz _ d _ => some d
  | .popc _ d _ => some d
  | .addi _ d _ _ => some d
  | .andi _ d _ _ => some d
  | .ori _ d _ _ => some d
  | .xori _ d _ _ => some d
  | .shli _ d _ _ => some d
  | .shri _ d _ _ => some d
  | .srai _ d _ _ => some d
  | .slti _ d _ _ => some d
  | .sltiu _ d _ _ => some d
  | .seqi _ d _ _ => some d
  | .muli _ d _ _ => some d
  | .extu _ d _ _ _ => some d
  | .exts _ d _ _ _ => some d
  | .ins _ d _ _ _ => some d
  | .lih _ d _ => some d
  | .lipc _ d _ => some d
  | .call _ _ => some 31
  | .callr _ d _ => some d
  | .loop _ a _ => some a
  | .ldb _ d _ _ => some d
  | .ldbu _ d _ _ => some d
  | .ldh _ d _ _ => some d
  | .ldhu _ d _ _ => some d
  | .ldw _ d _ _ => some d
  | .ldwu _ d _ _ => some d
  | .ldd _ d _ _ => some d
  | .ldc _ d _ _ => some d
  | .lda _ d _ _ _ _ _ _ => some d
  | .atom _ d _ _ _ _ => some d
  | .atomAcq _ d _ _ _ _ _ => some d
  | .atomRel _ d _ _ _ _ _ => some d
  | .atomAr _ d _ _ _ _ _ => some d
  | .mfs _ d _ => some d
  | .vext _ d _ _ => some d
  | .ppopc _ _ d _ => some d
  | .pfirst _ _ d _ => some d
  | .tagff _ sd => some sd
  | .arrive _ _ reg => some reg
  | .bufw _ sd => some sd
  | .bufr _ sd _ => some sd
  | _ => none

/-- A transfer instruction of 32 bytes (R41, R42), run by lane `lane`. -/
def decodeX (lane : BitVec 3) (w : Nat) : Except DecodeErr Instr :=
  match unpack [48, 8, 8, 64, 64, 64] w with
  | [op, fl, o, x1, x2, x3] =>
    parseXOp lane o { flags := .ofNat 8 fl, op := .ofNat 48 op, x1 := .ofNat 64 x1, x2 := .ofNat 64 x2, x3 := .ofNat 64 x3 }
  | _ => .error .reservedBits

/-- An S syllable, decoded (R13, R15). -/
def decodeS (w : Nat) : Except DecodeErr Instr := checked (parseS w)
/-- A V syllable, decoded (R13, R17). -/
def decodeV (w : Nat) : Except DecodeErr Instr := checked (parseV w)
/-- An M syllable, decoded (R13, R21). -/
def decodeM (w : Nat) : Except DecodeErr Instr := checked (parseM w)

/-- The three instructions of a bundle. -/
structure BundleI where
  s : Instr
  v : Instr
  m : Instr
deriving DecidableEq, Repr

/-- Two syllables name the same scalar destination other than S0 (R53). -/
def clash (i j : Instr) : Bool :=
  match scalarDst i, scalarDst j with
  | some d, some e => d == e && d != 0
  | _, _ => false

/-- TRAP and RFT need zero V and M syllables (R74, R75). -/
def alone : Instr → Bool
  | .trap _ _ => true
  | .rft _ => true
  | _ => false

/-- The idle count of a bundle: S-syllable bits [31:29] (R14). -/
def idleOf (w : Nat) : Nat := bits w 31 29

/-- A bundle decoded whole (R12, R13): the first syllable that is not an instruction, in S, V, M order, names the slot
(1 S, 2 V, 3 M) of the fault. DEDUCED (log 10): of two syllables with one scalar destination the later is the faulting one. -/
def decodeBundle (w : Nat) : Except (Nat × DecodeErr) BundleI :=
  match unpack [32, 48, 48] w with
  | [ws, wv, wm] =>
    match decodeS ws with
    | .error e => .error (1, e)
    | .ok s =>
      if alone s && (wv != 0 || wm != 0) then .error (1, .reservedBits) else
      match decodeV wv with
      | .error e => .error (2, e)
      | .ok v =>
        if clash s v then .error (2, .subField) else
        match decodeM wm with
        | .error e => .error (3, e)
        | .ok m => if clash s m || clash v m then .error (3, .subField) else .ok { s := s, v := v, m := m }
  | _ => .error (1, .reservedBits)


/-- The 32 bits of an S syllable (R15, R26); 0 for what stands in no S slot. -/
def encodeS : Instr → Nat
  | .nop idle => pack [(23, pack [(23, 0)]), (6, 0), (3, idle.toNat)]
  | .add idle d a b => pack [(23, pack [(8, 0), (5, b.toNat), (5, a.toNat), (5, d.toNat)]), (6, 1), (3, idle.toNat)]
  | .sub idle d a b => pack [(23, pack [(8, 1), (5, b.toNat), (5, a.toNat), (5, d.toNat)]), (6, 1), (3, idle.toNat)]
  | .and idle d a b => pack [(23, pack [(8, 2), (5, b.toNat), (5, a.toNat), (5, d.toNat)]), (6, 1), (3, idle.toNat)]
  | .or idle d a b => pack [(23, pack [(8, 3), (5, b.toNat), (5, a.toNat), (5, d.toNat)]), (6, 1), (3, idle.toNat)]
  | .xor idle d a b => pack [(23, pack [(8, 4), (5, b.toNat), (5, a.toNat), (5, d.toNat)]), (6, 1), (3, idle.toNat)]
  | .andn idle d a b => pack [(23, pack [(8, 5), (5, b.toNat), (5, a.toNat), (5, d.toNat)]), (6, 1), (3, idle.toNat)]
  | .shl idle d a b => pack [(23, pack [(8, 6), (5, b.toNat), (5, a.toNat), (5, d.toNat)]), (6, 1), (3, idle.toNat)]
  | .shr idle d a b => pack [(23, pack [(8, 7), (5, b.toNat), (5, a.toNat), (5, d.toNat)]), (6, 1), (3, idle.toNat)]
  | .sra idle d a b => pack [(23, pack [(8, 8), (5, b.toNat), (5, a.toNat), (5, d.toNat)]), (6, 1), (3, idle.toNat)]
  | .min idle d a b => pack [(23, pack [(8, 9), (5, b.toNat), (5, a.toNat), (5, d.toNat)]), (6, 1), (3, idle.toNat)]
  | .max idle d a b => pack [(23, pack [(8, 10), (5, b.toNat), (5, a.toNat), (5, d.toNat)]), (6, 1), (3, idle.toNat)]
  | .minu idle d a b => pack [(23, pack [(8, 11), (5, b.toNat), (5, a.toNat), (5, d.toNat)]), (6, 1), (3, idle.toNat)]
  | .maxu idle d a b => pack [(23, pack [(8, 12), (5, b.toNat), (5, a.toNat), (5, d.toNat)]), (6, 1), (3, idle.toNat)]
  | .seq idle d a b => pack [(23, pack [(8, 16), (5, b.toNat), (5, a.toNat), (5, d.toNat)]), (6, 1), (3, idle.toNat)]
  | .sne idle d a b => pack [(23, pack [(8, 17), (5, b.toNat), (5, a.toNat), (5, d.toNat)]), (6, 1), (3, idle.toNat)]
  | .slt idle d a b => pack [(23, pack [(8, 18), (5, b.toNat), (5, a.toNat), (5, d.toNat)]), (6, 1), (3, idle.toNat)]
  | .sltu idle d a b => pack [(23, pack [(8, 19), (5, b.toNat), (5, a.toNat), (5, d.toNat)]), (6, 1), (3, idle.toNat)]
  | .sle idle d a b => pack [(23, pack [(8, 20), (5, b.toNat), (5, a.toNat), (5, d.toNat)]), (6, 1), (3, idle.toNat)]
  | .sleu idle d a b => pack [(23, pack [(8, 21), (5, b.toNat), (5, a.toNat), (5, d.toNat)]), (6, 1), (3, idle.toNat)]
  | .mul idle d a b => pack [(23, pack [(8, 32), (5, b.toNat), (5, a.toNat), (5, d.toNat)]), (6, 1), (3, idle.toNat)]
  | .mulh idle d a b => pack [(23, pack [(8, 33), (5, b.toNat), (5, a.toNat), (5, d.toNat)]), (6, 1), (3, idle.toNat)]
  | .mulhu idle d a b => pack [(23, pack [(8, 34), (5, b.toNat), (5, a.toNat), (5, d.toNat)]), (6, 1), (3, idle.toNat)]
  | .div idle d a b => pack [(23, pack [(8, 35), (5, b.toNat), (5, a.toNat), (5, d.toNat)]), (6, 1), (3, idle.toNat)]
  | .divu idle d a b => pack [(23, pack [(8, 36), (5, b.toNat), (5, a.toNat), (5, d.toNat)]), (6, 1), (3, idle.toNat)]
  | .rem idle d a b => pack [(23, pack [(8, 37), (5, b.toNat), (5, a.toNat), (5, d.toNat)]), (6, 1), (3, idle.toNat)]
  | .remu idle d a b => pack [(23, pack [(8, 38), (5, b.toNat), (5, a.toNat), (5, d.toNat)]), (6, 1), (3, idle.toNat)]
  | .clz idle d a => pack [(23, pack [(8, 48), (5, 0), (5, a.toNat), (5, d.toNat)]), (6, 1), (3, idle.toNat)]
  | .ctz idle d a => pack [(23, pack [(8, 49), (5, 0), (5, a.toNat), (5, d.toNat)]), (6, 1), (3, idle.toNat)]
  | .popc idle d a => pack [(23, pack [(8, 50), (5, 0), (5, a.toNat), (5, d.toNat)]), (6, 1), (3, idle.toNat)]
  | .addi idle d a imm => pack [(23, pack [(13, imm.toNat), (5, a.toNat), (5, d.toNat)]), (6, 2), (3, idle.toNat)]
  | .andi idle d a imm => pack [(23, pack [(13, imm.toNat), (5, a.toNat), (5, d.toNat)]), (6, 3), (3, idle.toNat)]
  | .ori idle d a imm => pack [(23, pack [(13, imm.toNat), (5, a.toNat), (5, d.toNat)]), (6, 4), (3, idle.toNat)]
  | .xori idle d a imm => pack [(23, pack [(13, imm.toNat), (5, a.toNat), (5, d.toNat)]), (6, 5), (3, idle.toNat)]
  | .shli idle d a cnt => pack [(23, pack [(6, cnt.toNat), (7, 0), (5, a.toNat), (5, d.toNat)]), (6, 6), (3, idle.toNat)]
  | .shri idle d a cnt => pack [(23, pack [(6, cnt.toNat), (7, 0), (5, a.toNat), (5, d.toNat)]), (6, 7), (3, idle.toNat)]
  | .srai idle d a cnt => pack [(23, pack [(6, cnt.toNat), (7, 0), (5, a.toNat), (5, d.toNat)]), (6, 8), (3, idle.toNat)]
  | .slti idle d a imm => pack [(23, pack [(13, imm.toNat), (5, a.toNat), (5, d.toNat)]), (6, 9), (3, idle.toNat)]
  | .sltiu idle d a imm => pack [(23, pack [(13, imm.toNat), (5, a.toNat), (5, d.toNat)]), (6, 10), (3, idle.toNat)]
  | .seqi idle d a imm => pack [(23, pack [(13, imm.toNat), (5, a.toNat), (5, d.toNat)]), (6, 11), (3, idle.toNat)]
  | .muli idle d a imm => pack [(23, pack [(13, imm.toNat), (5, a.toNat), (5, d.toNat)]), (6, 12), (3, idle.toNat)]
  | .extu idle d a w p => pack [(23, pack [(6, p.toNat), (6, w.toNat), (1, 0), (5, a.toNat), (5, d.toNat)]), (6, 13), (3, idle.toNat)]
  | .exts idle d a w p => pack [(23, pack [(6, p.toNat), (6, w.toNat), (1, 0), (5, a.toNat), (5, d.toNat)]), (6, 14), (3, idle.toNat)]
  | .ins idle d a w p => pack [(23, pack [(6, p.toNat), (6, w.toNat), (1, 0), (5, a.toNat), (5, d.toNat)]), (6, 15), (3, idle.toNat)]
  | .lih idle d imm => pack [(23, pack [(18, imm.toNat), (5, d.toNat)]), (6, 16), (3, idle.toNat)]
  | .lipc idle d imm => pack [(23, pack [(18, imm.toNat), (5, d.toNat)]), (6, 17), (3, idle.toNat)]
  | .beqz idle a off => pack [(23, pack [(18, off.toNat), (5, a.toNat)]), (6, 18), (3, idle.toNat)]
  | .bnez idle a off => pack [(23, pack [(18, off.toNat), (5, a.toNat)]), (6, 19), (3, idle.toNat)]
  | .bltz idle a off => pack [(23, pack [(18, off.toNat), (5, a.toNat)]), (6, 20), (3, idle.toNat)]
  | .bgez idle a off => pack [(23, pack [(18, off.toNat), (5, a.toNat)]), (6, 21), (3, idle.toNat)]
  | .br idle off => pack [(23, pack [(18, off.toNat), (5, 0)]), (6, 22), (3, idle.toNat)]
  | .call idle off => pack [(23, pack [(18, off.toNat), (5, 0)]), (6, 23), (3, idle.toNat)]
  | .jr idle a => pack [(23, pack [(13, 0), (5, a.toNat), (5, 0)]), (6, 24), (3, idle.toNat)]
  | .callr idle d a => pack [(23, pack [(13, 0), (5, a.toNat), (5, d.toNat)]), (6, 25), (3, idle.toNat)]
  | .loop idle a off => pack [(23, pack [(18, off.toNat), (5, a.toNat)]), (6, 26), (3, idle.toNat)]
  | .ldb idle d a imm => pack [(23, pack [(13, imm.toNat), (5, a.toNat), (5, d.toNat)]), (6, 28), (3, idle.toNat)]
  | .ldbu idle d a imm => pack [(23, pack [(13, imm.toNat), (5, a.toNat), (5, d.toNat)]), (6, 29), (3, idle.toNat)]
  | .ldh idle d a imm => pack [(23, pack [(13, imm.toNat), (5, a.toNat), (5, d.toNat)]), (6, 30), (3, idle.toNat)]
  | .ldhu idle d a imm => pack [(23, pack [(13, imm.toNat), (5, a.toNat), (5, d.toNat)]), (6, 31), (3, idle.toNat)]
  | .ldw idle d a imm => pack [(23, pack [(13, imm.toNat), (5, a.toNat), (5, d.toNat)]), (6, 32), (3, idle.toNat)]
  | .ldwu idle d a imm => pack [(23, pack [(13, imm.toNat), (5, a.toNat), (5, d.toNat)]), (6, 33), (3, idle.toNat)]
  | .ldd idle d a imm => pack [(23, pack [(13, imm.toNat), (5, a.toNat), (5, d.toNat)]), (6, 34), (3, idle.toNat)]
  | .ldc idle d a imm => pack [(23, pack [(13, imm.toNat), (5, a.toNat), (5, d.toNat)]), (6, 35), (3, idle.toNat)]
  | .stb idle d a imm => pack [(23, pack [(13, imm.toNat), (5, a.toNat), (5, d.toNat)]), (6, 36), (3, idle.toNat)]
  | .sth idle d a imm => pack [(23, pack [(13, imm.toNat), (5, a.toNat), (5, d.toNat)]), (6, 37), (3, idle.toNat)]
  | .stw idle d a imm => pack [(23, pack [(13, imm.toNat), (5, a.toNat), (5, d.toNat)]), (6, 38), (3, idle.toNat)]
  | .std idle d a imm => pack [(23, pack [(13, imm.toNat), (5, a.toNat), (5, d.toNat)]), (6, 39), (3, idle.toNat)]
  | .lda idle d a b sz u ord sc => pack [(23, pack [(3, sc.toNat), (1, 0), (1, ord.toNat), (1, u.toNat), (2, sz.toNat), (5, b.toNat), (5, a.toNat), (5, d.toNat)]), (6, 40), (3, idle.toNat)]
  | .sta idle d a b sz ord sc => pack [(23, pack [(3, sc.toNat), (1, 0), (1, ord.toNat), (1, 0), (2, sz.toNat), (5, b.toNat), (5, a.toNat), (5, d.toNat)]), (6, 41), (3, idle.toNat)]
  | .atom idle d a b op sz => pack [(23, pack [(3, 0), (1, sz.toNat), (4, op.toNat), (5, b.toNat), (5, a.toNat), (5, d.toNat)]), (6, 42), (3, idle.toNat)]
  | .atomAcq idle d a b op sz sc => pack [(23, pack [(3, sc.toNat), (1, sz.toNat), (4, op.toNat), (5, b.toNat), (5, a.toNat), (5, d.toNat)]), (6, 43), (3, idle.toNat)]
  | .atomRel idle d a b op sz sc => pack [(23, pack [(3, sc.toNat), (1, sz.toNat), (4, op.toNat), (5, b.toNat), (5, a.toNat), (5, d.toNat)]), (6, 44), (3, idle.toNat)]
  | .atomAr idle d a b op sz sc => pack [(23, pack [(3, sc.toNat), (1, sz.toNat), (4, op.toNat), (5, b.toNat), (5, a.toNat), (5, d.toNat)]), (6, 45), (3, idle.toNat)]
  | .fence idle sc => pack [(23, pack [(3, sc.toNat), (1, 0), (1, 0), (18, 0)]), (6, 46), (3, idle.toNat)]
  | .fenceU idle sc => pack [(23, pack [(3, sc.toNat), (1, 0), (1, 1), (18, 0)]), (6, 46), (3, idle.toNat)]
  | .cinv idle => pack [(23, pack [(23, 0)]), (6, 47), (3, idle.toNat)]
  | .mfs idle d n => pack [(23, pack [(13, n.toNat), (5, 0), (5, d.toNat)]), (6, 48), (3, idle.toNat)]
  | .mts idle a n => pack [(23, pack [(13, n.toNat), (5, a.toNat), (5, 0)]), (6, 49), (3, idle.toNat)]
  | .trap idle code => pack [(23, pack [(13, code.toNat), (10, 0)]), (6, 50), (3, idle.toNat)]
  | .rft idle => pack [(23, pack [(23, 0)]), (6, 51), (3, idle.toNat)]
  | .halt idle => pack [(23, pack [(23, 0)]), (6, 52), (3, idle.toNat)]
  | .publish idle w => pack [(23, pack [(4, w.toNat), (19, 0)]), (6, 53), (3, idle.toNat)]
  | .setphase idle a lead => pack [(23, pack [(13, lead.toNat), (5, a.toNat), (5, 0)]), (6, 54), (3, idle.toNat)]
  | _ => 0

/-- The 48 bits of a V syllable (R17, R29); 0 for what stands in no V slot. -/
def encodeV : Instr → Nat
  | .vnop => pack [(40, pack [(40, 0)]), (8, 0)]
  | .vadd ty p d a b => pack [(40, pack [(8, 0), (8, b.toNat), (8, a.toNat), (8, d.toNat), (4, p.toNat), (4, ty.toNat)]), (8, 1)]
  | .vsub ty p d a b => pack [(40, pack [(8, 0), (8, b.toNat), (8, a.toNat), (8, d.toNat), (4, p.toNat), (4, ty.toNat)]), (8, 2)]
  | .vmul ty p d a b => pack [(40, pack [(8, 0), (8, b.toNat), (8, a.toNat), (8, d.toNat), (4, p.toNat), (4, ty.toNat)]), (8, 3)]
  | .vmulh ty p d a b => pack [(40, pack [(8, 0), (8, b.toNat), (8, a.toNat), (8, d.toNat), (4, p.toNat), (4, ty.toNat)]), (8, 4)]
  | .vadds ty p d a b => pack [(40, pack [(8, 0), (8, b.toNat), (8, a.toNat), (8, d.toNat), (4, p.toNat), (4, ty.toNat)]), (8, 5)]
  | .vsubs ty p d a b => pack [(40, pack [(8, 0), (8, b.toNat), (8, a.toNat), (8, d.toNat), (4, p.toNat), (4, ty.toNat)]), (8, 6)]
  | .vmin ty p d a b => pack [(40, pack [(8, 0), (8, b.toNat), (8, a.toNat), (8, d.toNat), (4, p.toNat), (4, ty.toNat)]), (8, 7)]
  | .vmax ty p d a b => pack [(40, pack [(8, 0), (8, b.toNat), (8, a.toNat), (8, d.toNat), (4, p.toNat), (4, ty.toNat)]), (8, 8)]
  | .vabs ty p d a => pack [(40, pack [(16, 0), (8, a.toNat), (8, d.toNat), (4, p.toNat), (4, ty.toNat)]), (8, 9)]
  | .vneg ty p d a => pack [(40, pack [(16, 0), (8, a.toNat), (8, d.toNat), (4, p.toNat), (4, ty.toNat)]), (8, 10)]
  | .vmulw ty p d a b => pack [(40, pack [(8, 0), (8, b.toNat), (8, a.toNat), (8, d.toNat), (4, p.toNat), (4, ty.toNat)]), (8, 11)]
  | .vaddw ty p d a b => pack [(40, pack [(8, 0), (8, b.toNat), (8, a.toNat), (8, d.toNat), (4, p.toNat), (4, ty.toNat)]), (8, 12)]
  | .vnarrow ty p d a => pack [(40, pack [(16, 0), (8, a.toNat), (8, d.toNat), (4, p.toNat), (4, ty.toNat)]), (8, 13)]
  | .vaddi ty p d a imm => pack [(40, pack [(8, imm.toNat), (8, 0), (8, a.toNat), (8, d.toNat), (4, p.toNat), (4, ty.toNat)]), (8, 14)]
  | .vmac ty p d a b => pack [(40, pack [(8, 0), (8, b.toNat), (8, a.toNat), (8, d.toNat), (4, p.toNat), (4, ty.toNat)]), (8, 15)]
  | .vand ty p d a b => pack [(40, pack [(8, 0), (8, b.toNat), (8, a.toNat), (8, d.toNat), (4, p.toNat), (4, ty.toNat)]), (8, 16)]
  | .vor ty p d a b => pack [(40, pack [(8, 0), (8, b.toNat), (8, a.toNat), (8, d.toNat), (4, p.toNat), (4, ty.toNat)]), (8, 17)]
  | .vxor ty p d a b => pack [(40, pack [(8, 0), (8, b.toNat), (8, a.toNat), (8, d.toNat), (4, p.toNat), (4, ty.toNat)]), (8, 18)]
  | .vandn ty p d a b => pack [(40, pack [(8, 0), (8, b.toNat), (8, a.toNat), (8, d.toNat), (4, p.toNat), (4, ty.toNat)]), (8, 19)]
  | .vnot ty p d a => pack [(40, pack [(16, 0), (8, a.toNat), (8, d.toNat), (4, p.toNat), (4, ty.toNat)]), (8, 20)]
  | .vshl ty p d a b => pack [(40, pack [(8, 0), (8, b.toNat), (8, a.toNat), (8, d.toNat), (4, p.toNat), (4, ty.toNat)]), (8, 21)]
  | .vshr ty p d a b => pack [(40, pack [(8, 0), (8, b.toNat), (8, a.toNat), (8, d.toNat), (4, p.toNat), (4, ty.toNat)]), (8, 22)]
  | .vsra ty p d a b => pack [(40, pack [(8, 0), (8, b.toNat), (8, a.toNat), (8, d.toNat), (4, p.toNat), (4, ty.toNat)]), (8, 23)]
  | .vshli ty p d a imm => pack [(40, pack [(8, imm.toNat), (8, 0), (8, a.toNat), (8, d.toNat), (4, p.toNat), (4, ty.toNat)]), (8, 24)]
  | .vshri ty p d a imm => pack [(40, pack [(8, imm.toNat), (8, 0), (8, a.toNat), (8, d.toNat), (4, p.toNat), (4, ty.toNat)]), (8, 25)]
  | .vsrai ty p d a imm => pack [(40, pack [(8, imm.toNat), (8, 0), (8, a.toNat), (8, d.toNat), (4, p.toNat), (4, ty.toNat)]), (8, 26)]
  | .vcmp ty p d a b imm => pack [(40, pack [(8, imm.toNat), (8, b.toNat), (8, a.toNat), (4, d.toNat), (4, 0), (4, p.toNat), (4, ty.toNat)]), (8, 32)]
  | .vsel ty p d a b c => pack [(40, pack [(4, c.toNat), (4, 0), (8, b.toNat), (8, a.toNat), (8, d.toNat), (4, p.toNat), (4, ty.toNat)]), (8, 33)]
  | .vsplat ty p d a => pack [(40, pack [(16, 0), (5, a.toNat), (3, 0), (8, d.toNat), (4, p.toNat), (4, ty.toNat)]), (8, 34)]
  | .vsplati ty p d imm => pack [(40, pack [(16, imm.toNat), (8, 0), (8, d.toNat), (4, p.toNat), (4, ty.toNat)]), (8, 35)]
  | .vins ty p d a b => pack [(40, pack [(8, 0), (5, b.toNat), (3, 0), (5, a.toNat), (3, 0), (8, d.toNat), (4, p.toNat), (4, ty.toNat)]), (8, 36)]
  | .vext ty d a b => pack [(40, pack [(8, 0), (5, b.toNat), (3, 0), (8, a.toNat), (5, d.toNat), (7, 0), (4, ty.toNat)]), (8, 37)]
  | .vmov ty p d a => pack [(40, pack [(16, 0), (8, a.toNat), (8, d.toNat), (4, p.toNat), (4, ty.toNat)]), (8, 38)]
  | .vfma ty p d a b c => pack [(40, pack [(8, c.toNat), (8, b.toNat), (8, a.toNat), (8, d.toNat), (4, p.toNat), (4, ty.toNat)]), (8, 48)]
  | .vfms ty p d a b c => pack [(40, pack [(8, c.toNat), (8, b.toNat), (8, a.toNat), (8, d.toNat), (4, p.toNat), (4, ty.toNat)]), (8, 49)]
  | .vfnma ty p d a b c => pack [(40, pack [(8, c.toNat), (8, b.toNat), (8, a.toNat), (8, d.toNat), (4, p.toNat), (4, ty.toNat)]), (8, 50)]
  | .vcvt ty p d a imm => pack [(40, pack [(8, imm.toNat), (8, 0), (8, a.toNat), (8, d.toNat), (4, p.toNat), (4, ty.toNat)]), (8, 56)]
  | .vdot ty p d a b c => pack [(40, pack [(8, c.toNat), (8, b.toNat), (8, a.toNat), (8, d.toNat), (4, p.toNat), (4, ty.toNat)]), (8, 57)]
  | .vrcp ty p d a => pack [(40, pack [(16, 0), (8, a.toNat), (8, d.toNat), (4, p.toNat), (4, ty.toNat)]), (8, 58)]
  | .vrsq ty p d a => pack [(40, pack [(16, 0), (8, a.toNat), (8, d.toNat), (4, p.toNat), (4, ty.toNat)]), (8, 59)]
  | .vrcpn ty p d a b => pack [(40, pack [(8, 0), (8, b.toNat), (8, a.toNat), (8, d.toNat), (4, p.toNat), (4, ty.toNat)]), (8, 60)]
  | .vrsqn ty p d a b => pack [(40, pack [(8, 0), (8, b.toNat), (8, a.toNat), (8, d.toNat), (4, p.toNat), (4, ty.toNat)]), (8, 61)]
  | .vexp2 ty p d a => pack [(40, pack [(16, 0), (8, a.toNat), (8, d.toNat), (4, p.toNat), (4, ty.toNat)]), (8, 62)]
  | .vlog2 ty p d a => pack [(40, pack [(16, 0), (8, a.toNat), (8, d.toNat), (4, p.toNat), (4, ty.toNat)]), (8, 63)]
  | .vredadd ty p d a => pack [(40, pack [(16, 0), (8, a.toNat), (8, d.toNat), (4, p.toNat), (4, ty.toNat)]), (8, 64)]
  | .vredmin ty p d a => pack [(40, pack [(16, 0), (8, a.toNat), (8, d.toNat), (4, p.toNat), (4, ty.toNat)]), (8, 65)]
  | .vredmax ty p d a => pack [(40, pack [(16, 0), (8, a.toNat), (8, d.toNat), (4, p.toNat), (4, ty.toNat)]), (8, 66)]
  | .vscan ty p d a => pack [(40, pack [(16, 0), (8, a.toNat), (8, d.toNat), (4, p.toNat), (4, ty.toNat)]), (8, 67)]
  | .vppopc ty p d a => pack [(40, pack [(16, 0), (4, a.toNat), (4, 0), (8, d.toNat), (4, p.toNat), (4, ty.toNat)]), (8, 68)]
  | .vtopk ty p d a b imm => pack [(40, pack [(8, imm.toNat), (8, b.toNat), (8, a.toNat), (8, d.toNat), (4, p.toNat), (4, ty.toNat)]), (8, 69)]
  | .vperm ty p d a b => pack [(40, pack [(8, 0), (8, b.toNat), (8, a.toNat), (8, d.toNat), (4, p.toNat), (4, ty.toNat)]), (8, 72)]
  | .vslide ty p d a b imm => pack [(40, pack [(8, imm.toNat), (8, b.toNat), (8, a.toNat), (8, d.toNat), (4, p.toNat), (4, ty.toNat)]), (8, 73)]
  | .vzip ty p d a b => pack [(40, pack [(8, 0), (8, b.toNat), (8, a.toNat), (8, d.toNat), (4, p.toNat), (4, ty.toNat)]), (8, 74)]
  | .vunzip ty p d a => pack [(40, pack [(16, 0), (8, a.toNat), (8, d.toNat), (4, p.toNat), (4, ty.toNat)]), (8, 75)]
  | .vcompress ty d a c => pack [(40, pack [(4, c.toNat), (12, 0), (8, a.toNat), (8, d.toNat), (4, 0), (4, ty.toNat)]), (8, 76)]
  | .vexpand ty d a c => pack [(40, pack [(4, c.toNat), (12, 0), (8, a.toNat), (8, d.toNat), (4, 0), (4, ty.toNat)]), (8, 77)]
  | .vbcaste ty p d a imm => pack [(40, pack [(8, imm.toNat), (8, 0), (8, a.toNat), (8, d.toNat), (4, p.toNat), (4, ty.toNat)]), (8, 78)]
  | .vcbdec ty p d a imm => pack [(40, pack [(8, imm.toNat), (8, 0), (8, a.toNat), (8, d.toNat), (4, p.toNat), (4, ty.toNat)]), (8, 80)]
  | .scacc ty p d a tile imm => pack [(40, pack [(8, imm.toNat), (8, tile.toNat), (8, a.toNat), (8, d.toNat), (4, p.toNat), (4, ty.toNat)]), (8, 88)]
  | .pand ty p d a b => pack [(40, pack [(8, 0), (4, b.toNat), (4, 0), (4, a.toNat), (4, 0), (4, d.toNat), (4, 0), (4, p.toNat), (4, ty.toNat)]), (8, 96)]
  | .por ty p d a b => pack [(40, pack [(8, 0), (4, b.toNat), (4, 0), (4, a.toNat), (4, 0), (4, d.toNat), (4, 0), (4, p.toNat), (4, ty.toNat)]), (8, 97)]
  | .pxor ty p d a b => pack [(40, pack [(8, 0), (4, b.toNat), (4, 0), (4, a.toNat), (4, 0), (4, d.toNat), (4, 0), (4, p.toNat), (4, ty.toNat)]), (8, 98)]
  | .pandn ty p d a b => pack [(40, pack [(8, 0), (4, b.toNat), (4, 0), (4, a.toNat), (4, 0), (4, d.toNat), (4, 0), (4, p.toNat), (4, ty.toNat)]), (8, 99)]
  | .pnot ty p d a => pack [(40, pack [(16, 0), (4, a.toNat), (4, 0), (4, d.toNat), (4, 0), (4, p.toNat), (4, ty.toNat)]), (8, 100)]
  | .pseti ty d imm => pack [(40, pack [(16, imm.toNat), (8, 0), (4, d.toNat), (8, 0), (4, ty.toNat)]), (8, 101)]
  | .ppopc ty p d a => pack [(40, pack [(16, 0), (4, a.toNat), (4, 0), (5, d.toNat), (3, 0), (4, p.toNat), (4, ty.toNat)]), (8, 102)]
  | .pfirst ty p d a => pack [(40, pack [(16, 0), (4, a.toNat), (4, 0), (5, d.toNat), (3, 0), (4, p.toNat), (4, ty.toNat)]), (8, 103)]
  | .vpclr ty p d => pack [(40, pack [(24, 0), (8, d.toNat), (4, p.toNat), (4, ty.toNat)]), (8, 112)]
  | .vptest ty p d a => pack [(40, pack [(16, 0), (8, a.toNat), (4, d.toNat), (4, 0), (4, p.toNat), (4, ty.toNat)]), (8, 113)]
  | _ => 0

/-- The 48 bits of an M syllable (R21, R30); 0 for what stands in no M slot. -/
def encodeM : Instr → Nat
  | .mnop => pack [(42, pack [(42, 0)]), (6, 0)]
  | .vld vr w sa imm => pack [(42, pack [(13, 0), (16, imm.toNat), (5, sa.toNat), (2, w.toNat), (6, vr.toNat)]), (6, 1)]
  | .vst vr w sa imm p gr => pack [(42, pack [(7, 0), (2, gr.toNat), (4, p.toNat), (16, imm.toNat), (5, sa.toNat), (2, w.toNat), (6, vr.toNat)]), (6, 2)]
  | .vgather vr sa vb p => pack [(42, pack [(19, 0), (4, p.toNat), (6, vb.toNat), (5, sa.toNat), (2, 0), (6, vr.toNat)]), (6, 3)]
  | .vscatter vr sa vb p => pack [(42, pack [(19, 0), (4, p.toNat), (6, vb.toNat), (5, sa.toNat), (2, 0), (6, vr.toNat)]), (6, 4)]
  | .vrmg vd va p i imm sb => pack [(42, pack [(10, 0), (5, sb.toNat), (10, imm.toNat), (1, i.toNat), (4, p.toNat), (6, va.toNat), (6, vd.toNat)]), (6, 5)]
  | .claim slot auto => pack [(42, pack [(36, 0), (1, auto.toNat), (5, slot.toNat)]), (6, 8)]
  | .release slot => pack [(42, pack [(37, 0), (5, slot.toNat)]), (6, 9)]
  | .mtc eng set vn ovr => pack [(42, pack [(33, 0), (1, ovr.toNat), (6, vn.toNat), (1, set.toNat), (1, eng.toNat)]), (6, 10)]
  | .accrd vd tile row sel => pack [(42, pack [(23, 0), (2, sel.toNat), (4, row.toNat), (7, tile.toNat), (6, vd.toNat)]), (6, 11)]
  | .enq ring vn seg cnt rel sc => pack [(42, pack [(23, 0), (3, sc.toNat), (1, rel.toNat), (3, cnt.toNat), (3, seg.toNat), (6, vn.toNat), (3, ring.toNat)]), (6, 12)]
  | .tlwait tl sa sc rmt imm => pack [(42, pack [(12, 0), (16, imm.toNat), (1, rmt.toNat), (5, sc.toNat), (5, sa.toNat), (3, tl.toNat)]), (6, 16)]
  | .tladv tl cnt => pack [(42, pack [(31, 0), (8, cnt.toNat), (3, tl.toNat)]), (6, 17)]
  | .tagwaitAny sa => pack [(42, pack [(37, 0), (5, sa.toNat)]), (6, 18)]
  | .tagwaitAll sa => pack [(42, pack [(37, 0), (5, sa.toNat)]), (6, 19)]
  | .tagff sa sd => pack [(42, pack [(32, 0), (5, sd.toNat), (5, sa.toNat)]), (6, 20)]
  | .tagclr sa => pack [(42, pack [(37, 0), (5, sa.toNat)]), (6, 21)]
  | .rvinit rv lev reg => pack [(42, pack [(30, 0), (5, reg.toNat), (2, lev.toNat), (5, rv.toNat)]), (6, 24)]
  | .arrive rv lev reg => pack [(42, pack [(30, 0), (5, reg.toNat), (2, lev.toNat), (5, rv.toNat)]), (6, 25)]
  | .rvwait rv lev reg => pack [(42, pack [(30, 0), (5, reg.toNat), (2, lev.toNat), (5, rv.toNat)]), (6, 26)]
  | .bufw buf sd => pack [(42, pack [(29, 0), (5, sd.toNat), (8, buf.toNat)]), (6, 32)]
  | .bufp buf => pack [(42, pack [(34, 0), (8, buf.toNat)]), (6, 33)]
  | .bufr buf sd sa => pack [(42, pack [(24, 0), (5, sa.toNat), (5, sd.toNat), (8, buf.toNat)]), (6, 34)]
  | .bufx buf sa => pack [(42, pack [(24, 0), (5, sa.toNat), (5, 0), (8, buf.toNat)]), (6, 35)]
  | .livemark i imm sa => pack [(42, pack [(23, 0), (5, sa.toNat), (13, imm.toNat), (1, i.toNat)]), (6, 40)]
  | _ => 0

/-- The ring, the command number and the words of a command (R36). -/
def cmdParts : Instr → Option (Nat × Nat × Cmd)
  | .cnop ring c => some (ring.toNat, 0, c)
  | .opld c => some (0, 1, c)
  | .mmgo c => some (0, 2, c)
  | .mmsl c => some (0, 3, c)
  | .accz c => some (0, 4, c)
  | .accst c => some (0, 5, c)
  | .accld c => some (0, 6, c)
  | .mdqfill c => some (0, 7, c)
  | .skgo c => some (1, 1, c)
  | .skscore c => some (1, 2, c)
  | .cbtab c => some (1, 3, c)
  | .cpy c => some (2, 1, c)
  | .cpyg c => some (2, 2, c)
  | .cpys c => some (2, 3, c)
  | .cpyop c => some (2, 4, c)
  | .cpyfill c => some (2, 5, c)
  | .nput c => some (3, 1, c)
  | .nget c => some (3, 2, c)
  | .nsig c => some (3, 3, c)
  | .natom c => some (3, 4, c)
  | .ncoll c => some (3, 5, c)
  | .nxpert c => some (3, 6, c)
  | .nabort c => some (3, 7, c)
  | .btalloc c => some (4, 1, c)
  | .btfree c => some (4, 2, c)
  | .btshare c => some (4, 3, c)
  | .btcow c => some (4, 4, c)
  | .btwalk c => some (4, 5, c)
  | .btevict c => some (4, 6, c)
  | .sumupd c => some (4, 7, c)
  | .ezopen c => some (4, 8, c)
  | .eztree c => some (4, 9, c)
  | .ezcheck c => some (4, 10, c)
  | .ezpark c => some (4, 11, c)
  | .ezresume c => some (4, 12, c)
  | .ezclose c => some (4, 13, c)
  | .eznext c => some (4, 14, c)
  | .xrun c => some (5, 1, c)
  | .xstop c => some (5, 2, c)
  | _ => none

/-- The opcode, lane and words of a transfer instruction (R42). -/
def xferParts : Instr → Option (Nat × BitVec 3 × XWords)
  | .xnop lane w => some (0, lane, w)
  | .xmov lane w => some (1, lane, w)
  | .xmc lane w => some (2, lane, w)
  | .xloop lane w => some (3, lane, w)
  | .xwait lane w => some (4, lane, w)
  | .xsig lane w => some (5, lane, w)
  | .xphase lane w => some (6, lane, w)
  | .xend lane w => some (7, lane, w)
  | _ => none

/-- The 48 bytes of a ring entry that holds the command (R31, R32); 0 for what is no command. -/
def encodeEntry (i : Instr) : Nat :=
  match cmdParts i with
  | some (r, n, c) =>
    pack [(40, c.arg.toNat), (2, 0), (6, c.tag.toNat), (2, 0), (2, c.rtl.toNat), (4, c.wtl.toNat), (5, n), (3, r),
      (64, c.waitv.toNat), (64, c.p0.toNat), (64, c.p1.toNat), (64, c.p2.toNat), (64, c.p3.toNat)]
  | none => 0

/-- The 32 bytes of a transfer instruction (R41); 0 for what is none. -/
def encodeX (i : Instr) : Nat :=
  match xferParts i with
  | some (o, _, w) =>
    pack [(48, w.op.toNat), (8, w.flags.toNat), (8, o), (64, w.x1.toNat), (64, w.x2.toNat), (64, w.x3.toNat)]
  | none => 0

/-- The 128 bits of a bundle (R12). -/
def encodeBundle (b : BundleI) : Nat := pack [(32, encodeS b.s), (48, encodeV b.v), (48, encodeM b.m)]

/-- The instruction stands in the S slot. -/
def inS (i : Instr) : Bool := match i with | .nop _ => true | _ => encodeS i != 0
/-- The instruction stands in the V slot. -/
def inV (i : Instr) : Bool := match i with | .vnop => true | _ => encodeV i != 0
/-- The instruction stands in the M slot. -/
def inM (i : Instr) : Bool := match i with | .mnop => true | _ => encodeM i != 0

/-- The one instruction that a bundle of one syllable holds: the S, V or M instruction whose syllable is not zero, NOP
for a bundle of zero bytes. -/
def onlyInstr (w : Nat) (b : BundleI) : Instr :=
  if bits w 31 0 ≠ 0 then b.s else if bits w 79 32 ≠ 0 then b.v else if bits w 127 80 ≠ 0 then b.m else b.s

/-- The instruction that the decoder reads from a bundle whose low `nbits` bits are `w` and whose other bits are zero. -/
def decodeTableWord (nbits w : Nat) : Option Instr :=
  let x := w % 2 ^ (if nbits ≤ 128 then nbits else 128)
  match decodeBundle x with
  | .ok b => some (onlyInstr x b)
  | .error _ => none

end Sys2Proof
end

