-- ==== Sys2Proof/Machine/Num.lean ====
section
/-! DEFINITION. Number formats (R121 to R138): element encodings as exact values, the one rounding procedure round_to,
every conversion, and MXFP4 requantisation. Patterns are natural numbers; exact values are rationals scaled by a power
of two. -/
namespace Sys2Proof.Machine

/-- Rounding modes of R130. -/
inductive Rmode where
  | rne
  | rtz
  | rna
deriving DecidableEq, Repr

/-- Mode of a two-bit field; 3 never stands in VFLAGS (R142). -/
def rmodeOf (n : Nat) : Rmode := match n with | 1 => .rtz | 2 => .rna | _ => .rne

/-- A floating-point format (R123). -/
structure Fmt where
  e : Nat
  m : Nat
  bias : Nat
  /-- the top exponent holds ±Inf and NaN -/
  ieee : Bool
  /-- E4M3: the all-ones pattern is NaN -/
  e4 : Bool
deriving DecidableEq, Repr

/-- The floating-point conversion formats by number (R18, R123, R132). -/
def fmtOf (f : Nat) : Fmt :=
  match f with
  | 8 => { e := 4, m := 3, bias := 7, ieee := false, e4 := true }
  | 9 => { e := 5, m := 2, bias := 15, ieee := true, e4 := false }
  | 10 => { e := 5, m := 10, bias := 15, ieee := true, e4 := false }
  | 11 => { e := 8, m := 7, bias := 127, ieee := true, e4 := false }
  | 12 => { e := 8, m := 23, bias := 127, ieee := true, e4 := false }
  | 13 => { e := 11, m := 52, bias := 1023, ieee := true, e4 := false }
  | 14 => { e := 2, m := 1, bias := 1, ieee := false, e4 := false }
  | 15 => { e := 3, m := 2, bias := 3, ieee := false, e4 := false }
  | _ => { e := 2, m := 3, bias := 1, ieee := false, e4 := false }

/-- A decoded element: NaN with its sign and mantissa, infinity, or (−1)^neg · m · 2^e. -/
inductive FVal where
  | nan (neg : Bool) (man : Nat)
  | inf (neg : Bool)
  | fin (neg : Bool) (m : Nat) (e : Int)
deriving DecidableEq, Repr

/-- Value of a pattern (R123). -/
def fdec (F : Fmt) (x : Nat) : FVal :=
  let neg := x / 2 ^ (F.e + F.m) % 2 == 1
  let ex := x / 2 ^ F.m % 2 ^ F.e
  let man := x % 2 ^ F.m
  if F.ieee && ex == 2 ^ F.e - 1 then (if man = 0 then .inf neg else .nan neg man)
  else if F.e4 && ex == 15 && man == 7 then .nan neg man
  else if ex = 0 then .fin neg man (1 - (F.bias : Int) - F.m)
  else .fin neg (2 ^ F.m + man) ((ex : Int) - F.bias - F.m)

def FVal.isNan : FVal → Bool | .nan _ _ => true | _ => false
def FVal.isInf : FVal → Bool | .inf _ => true | _ => false
def FVal.isZero : FVal → Bool | .fin _ 0 _ => true | _ => false
def FVal.neg : FVal → Bool | .nan n _ => n | .inf n => n | .fin n _ _ => n

/-- Sign bit in place. -/
def signBit (F : Fmt) (neg : Bool) : Nat := if neg then 2 ^ (F.e + F.m) else 0

/-- Magnitude pattern of the largest finite value (R123). -/
def maxfin (F : Fmt) : Nat :=
  if F.ieee then (2 ^ F.e - 1) * 2 ^ F.m - 1 else if F.e4 then 2 ^ (F.e + F.m) - 2 else 2 ^ (F.e + F.m) - 1

/-- Pattern of an infinity of a format that has one. -/
def infPat (F : Fmt) (neg : Bool) : Nat := signBit F neg + (2 ^ F.e - 1) * 2 ^ F.m

/-- Default NaN (R124). -/
def dnan (F : Fmt) : Nat := if F.e4 then 0x7F else (2 ^ F.e - 1) * 2 ^ F.m + 2 ^ (F.m - 1)

/-- A NaN pattern with its quiet bit set (R124). -/
def quiet (F : Fmt) (x : Nat) : Nat :=
  if F.e4 then x else if x / 2 ^ (F.m - 1) % 2 = 1 then x else x + 2 ^ (F.m - 1)

/-- Flag bits of VFLAGS (R142). -/
def flIX : Nat := 1
def flUF : Nat := 2
def flOF : Nat := 4
def flDZ : Nat := 8
def flIV : Nat := 16

/-- num/den · 2^t as a fraction. -/
def scale (num den : Nat) (t : Int) : Nat × Nat :=
  if 0 ≤ t then (num * 2 ^ t.toNat, den) else (num, den * 2 ^ (-t).toNat)

/-- floor(log2(num/den · 2^e)) for a positive fraction. -/
def flog2 (num den : Nat) (e : Int) : Int :=
  let k : Int := (num.log2 : Int) - den.log2
  let s := scale num den (-k)
  if s.2 ≤ s.1 then k + e else k - 1 + e

/-- A fraction rounded to an integer (R130); whether it was exact. -/
def roundFrac (mode : Rmode) (num den : Nat) : Nat × Bool :=
  let q := num / den
  let r := num % den
  let up := match mode with
    | .rne => decide (den < 2 * r) || (decide (2 * r = den) && q % 2 == 1)
    | .rtz => false
    | .rna => decide (den ≤ 2 * r)
  (if up then q + 1 else q, r == 0)

/-- round_to of R130 for (−1)^neg · num/den · 2^e, with the flags of R131: pattern and flags. -/
def roundTo (F : Fmt) (mode : Rmode) (neg : Bool) (num den : Nat) (e : Int) : Nat × Nat :=
  if num = 0 then (signBit F neg, 0) else
    let emin : Int := 1 - (F.bias : Int)
    let fl := flog2 num den e
    let q := (if fl < emin then emin else fl) - F.m
    let s := scale num den (e - q)
    let r := roundFrac mode s.1 s.2
    let pat := if r.1 < 2 ^ F.m then r.1 else (q + F.m + F.bias).toNat * 2 ^ F.m + (r.1 - 2 ^ F.m)
    if maxfin F < pat then
      (if F.ieee && mode != .rtz then infPat F neg else signBit F neg + maxfin F, flOF + flIX)
    else
      (signBit F neg + pat, if r.2 then 0 else flIX + (if pat < 2 ^ F.m then flUF else 0))

/-- round_to of a signed dyadic value, zero taking the sign given. -/
def roundInt2 (F : Fmt) (mode : Rmode) (zneg : Bool) (v : Int) (e : Int) : Nat × Nat :=
  roundTo F mode (if v = 0 then zneg else decide (v < 0)) v.natAbs 1 e

/-- Range of an integer element type (R122): lo and hi. -/
def intLo (ty : Nat) : Int :=
  match ty with | 0 => -128 | 2 => -32768 | 4 => -2147483648 | 6 => -8 | _ => 0
def intHi (ty : Nat) : Int :=
  match ty with
  | 0 => 127 | 1 => 255 | 2 => 32767 | 3 => 65535 | 4 => 2147483647 | 5 => 4294967295 | 6 => 7 | _ => 15

/-- val(x) of R92 for an integer type. -/
def intVal (ty x : Nat) : Int :=
  let b := cvtBits ty
  if isSint (.ofNat 4 ty) then signed b x else ((x % 2 ^ b : Nat) : Int)

/-- A conversion format's element as an exact value (R123, R125, R134). -/
def cvtVal (f x : Nat) : FVal :=
  if f ≤ 7 then .fin (decide (intVal f x < 0)) (intVal f x).natAbs 0
  else if f = 17 then (if x % 256 = 255 then .nan false 0 else .fin false 1 ((x % 256 : Nat) - 127))
  else fdec (fmtOf f) x

/-- Payload of a NaN, its mantissa bits below the quiet bit, and how many they are (R133). -/
def nanPayload (f man : Nat) : Nat × Nat :=
  if f = 17 ∨ f = 8 then (0, 0) else (man % 2 ^ ((fmtOf f).m - 1), (fmtOf f).m - 1)

/-- A NaN of the destination with the source's sign and leading payload bits (R133). -/
def mapNan (f d : Nat) (neg : Bool) (man : Nat) : Nat :=
  let F := fmtOf d
  if F.e4 then signBit F neg + 0x7F else
    let p := nanPayload f man
    let w := F.m - 1
    signBit F neg + (2 ^ F.e - 1) * 2 ^ F.m + 2 ^ w + (if p.2 ≤ w then p.1 * 2 ^ (w - p.2) else p.1 / 2 ^ (p.2 - w))

/-- A signed dyadic value rounded to an integer (R130 round_int); whether it was exact. -/
def roundIntVal (mode : Rmode) (neg : Bool) (m : Nat) (e : Int) : Int × Bool :=
  let s := scale m 1 e
  let r := roundFrac mode s.1 s.2
  (if neg then -(r.1 : Int) else r.1, r.2)

/-- The conversion of one element (R133 to R137): pattern, whether it is poisoned, flags. To E8M0 a finite value that the
saturation of R137 changes sets OF and IX (R131; log 57). -/
def convert (f d : Nat) (mode : Rmode) (x : Nat) : Nat × Bool × Nat :=
  if f = 17 ∧ d = 17 then (x % 256, false, 0)
  else if f ≤ 7 ∧ d ≤ 7 then (wrapTo (cvtBits d) (sat (intVal f x) (intLo d) (intHi d)), false, 0)
  else if d = 17 then
    match cvtVal f x with
    | .nan _ _ => (255, false, 0)
    | .inf _ => (255, true, flIV)
    | .fin _ m e =>
      if m = 0 then (0, false, flIX) else
        let l := flog2 m 1 e
        let k := sat l (-127) 127
        ((k + 127).toNat, false,
          if k ≠ l then flOF + flIX
          else if (scale m 1 e).1 * (scale 1 1 k).2 = (scale 1 1 k).1 * (scale m 1 e).2 then 0 else flIX)
  else if d ≤ 7 then
    match cvtVal f x with
    | .nan _ _ => (0, true, flIV)
    | .inf neg => (wrapTo (cvtBits d) (if neg then intLo d else intHi d), false, flOF + flIX)
    | .fin neg m e =>
      let r := roundIntVal mode neg m e
      let v := sat r.1 (intLo d) (intHi d)
      (wrapTo (cvtBits d) v, false, (if v = r.1 then 0 else flOF) + (if r.2 ∧ v = r.1 then 0 else flIX))
  else
    let F := fmtOf d
    match cvtVal f x with
    | .nan neg man => if F.ieee || F.e4 then (mapNan f d neg man, false, 0) else (0, true, flIV)
    | .inf neg => if F.ieee then (infPat F neg, false, 0) else (signBit F neg + maxfin F, false, flOF + flIX)
    | .fin neg m e => let r := roundTo F mode neg m 1 e; (r.1, false, r.2)

/-- Source and target formats of a tolerant kind (R139). -/
def tolFmts (k : Nat) : Nat × Nat :=
  match k with | 1 => (12, 11) | 2 => (11, 8) | 3 => (10, 8) | _ => (12, 8)

/-- Bytes of a source element of a tolerant kind, and of a stored element. -/
def tolA (k : Nat) : Nat := cvtBits (tolFmts k).1 / 8
def tolD (k : Nat) : Nat := cvtBits (tolFmts k).2 / 8

/-- An element as a tolerant page stores it (R139). -/
def tolStore (k x : Nat) : Nat := (convert (tolFmts k).1 (tolFmts k).2 .rne x).1

/-- A stored element as a tolerant page reads it (R140): BF16 with 16 zero bits appended, so that a signalling NaN stays one
(R124), or the exact value of an E4M3. -/
def tolLoad (k x : Nat) : Nat := if k = 1 then x * 65536 else (convert (tolFmts k).2 (tolFmts k).1 .rne x).1

/-- E2M1 magnitudes compare by value of BF16 patterns: magnitude of a BF16 pattern. -/
def bf16Mag (x : Nat) : Nat := x % 32768

/-- mxfp4_block of R138 over BF16 patterns: scale and elements. -/
def mxfp4Block (xs : List Nat) : Nat × List Nat :=
  let F := fmtOf 11
  if xs.any (fun x => (fdec F x).isNan || (fdec F x).isInf) then (255, xs.map (fun _ => 0))
  else
    let mx := xs.foldl (fun a x => Nat.max a (bf16Mag x)) 0
    if mx = 0 then (0, xs.map (fun x => if (fdec F x).neg then 8 else 0))
    else
      match fdec F mx with
      | .fin _ m e =>
        let t := sat (flog2 m 1 e - 2) (-127) 127
        ((t + 127).toNat, xs.map (fun x =>
          match fdec F x with
          | .fin neg m e => (roundTo (fmtOf 14) .rne neg m 1 (e - t)).1
          | _ => 0))
      | _ => (255, xs.map (fun _ => 0))

end Sys2Proof.Machine
end

