-- ==== Sys2Proof/Config.lean ====
section
/-! DEFINITION. What the spec leaves to the implementation or leaves open: constants without a body, so that no proof sees
what they are. `freeValue` is applied to the state's counter `freeCtr`, a fresh value each time (log 6). -/
namespace Sys2Proof.Config

/-- A value that the spec leaves open, the n-th one drawn (log 6). -/
opaque freeValue : Nat → BitVec 64

/-- Cycles that an access spends beyond the least latency of R55, for the n-th free value drawn: R446 fixes no duration
(log 7). -/
opaque latency : Nat → Nat

/-- Whether the L2 holds the line of an access, for the n-th free value drawn: R290 lets nothing but time tell (log 51). -/
opaque inL2 : Nat → Bool

/-- The Ethernet port that carries the flow of a number, fixed by a hash of the two package identities (R374; log 17). -/
opaque ethPort : Nat → BitVec 2

/-- The 64-bit identity of a flow, outward when true (R375): the spec names it and does not lay it out (log 48). -/
opaque flowId : Nat → Bool → BitVec 64

end Sys2Proof.Config
end

