-- ==== Sys2Proof/Machine/Sparse.lean ====
section
/-! DEFINITION. Sparse tables in one canonical form: lists of (key, value) pairs with strictly rising keys and no entry
equal to the value that an unlisted key reads as. Memory, register files and row stores are such tables, so that equal
contents are equal data. -/
namespace Sys2Proof.Machine

/-- A table from keys to values; an unlisted key reads as the default its reader names. -/
abbrev Sparse (α : Type) := List (Nat × α)

/-- The value at a key, `d` when the key is not listed. -/
def Sparse.get {α : Type} (d : α) : Sparse α → Nat → α
  | [], _ => d
  | (k, v) :: r, i => if i = k then v else Sparse.get d r i

/-- The entry at a key, if the key is listed. -/
def Sparse.find {α : Type} : Sparse α → Nat → Option α
  | [], _ => none
  | (k, v) :: r, i => if i = k then some v else Sparse.find r i

/-- The table without a key. -/
def Sparse.erase {α : Type} : Sparse α → Nat → Sparse α
  | [], _ => []
  | (k, v) :: r, i => if i = k then Sparse.erase r i else (k, v) :: Sparse.erase r i

/-- The table with one more entry, before the first greater key. -/
def Sparse.insert {α : Type} : Sparse α → Nat → α → Sparse α
  | [], i, x => [(i, x)]
  | (k, v) :: r, i, x => if i < k then (i, x) :: (k, v) :: r else (k, v) :: Sparse.insert r i x

/-- The table whose entry at the key is the value given, unlisted when it is the default. -/
def Sparse.set {α : Type} [DecidableEq α] (d : α) (m : Sparse α) (i : Nat) (x : α) : Sparse α :=
  if x = d then Sparse.erase m i else Sparse.insert (Sparse.erase m i) i x

/-- Every key is above the bound given, keys rise strictly, and no value is the default. -/
def Sparse.wfFrom {α : Type} [DecidableEq α] (d : α) : Nat → Sparse α → Bool
  | _, [] => true
  | lo, (k, v) :: r => decide (lo ≤ k) && decide (v ≠ d) && Sparse.wfFrom d (k + 1) r

/-- The canonical form. -/
def Sparse.wf {α : Type} [DecidableEq α] (d : α) (m : Sparse α) : Bool := Sparse.wfFrom d 0 m

/-- The DRAM of the load-store domain: one byte per 46-bit physical address (R281). -/
abbrev Memory := Sparse Byte

/-- What an address that nothing has written reads as: banks are scrubbed to zero before they are granted (R266). -/
def Memory.blank : Byte := 0

/-- The canonical form of memory. -/
def Memory.wf (m : Memory) : Bool := Sparse.wf Memory.blank m

/-- One byte of memory. -/
def Memory.read (m : Memory) (a : Nat) : Byte := Sparse.get Memory.blank m a

/-- Memory after one byte is written. -/
def Memory.write (m : Memory) (a : Nat) (b : Byte) : Memory := Sparse.set Memory.blank m a b

/-- `n` consecutive bytes from `a`. -/
def Memory.readN (m : Memory) (a : Nat) : Nat → List Byte
  | 0 => []
  | n + 1 => Memory.read m a :: Memory.readN m (a + 1) n

/-- Memory after consecutive bytes are written from `a`. -/
def Memory.writeL (m : Memory) (a : Nat) : List Byte → Memory
  | [] => m
  | b :: r => Memory.writeL (Memory.write m a b) (a + 1) r

end Sys2Proof.Machine
end

