-- ==== Sys2Proof/Machine/State.lean ====
section
/-! DEFINITION. The state of one package of the Tuinval 2 as plain data, after INVENTORY.md: the core whose agents move
(`core`), the other cores, and what the package holds once. `State.reset` is the state after the cold reset of R405. -/
namespace Sys2Proof.Machine

/-- A vector register: 512 bytes and one poison bit per nibble (R78). A predicate uses the low 1,024 bits. -/
structure VReg where
  bits : Row
  pz : PredBits
deriving DecidableEq, Repr

def VReg.zero : VReg := { bits := 0, pz := 0 }

/-- What an exposed result writes (R58 KIND). -/
inductive ResKind where
  | vec
  | prd
deriving DecidableEq, Repr

/-- An exposed result in flight (R54, R56). -/
structure Inflight where
  /-- landing tick -/
  land : Nat
  kind : ResKind
  /-- physical register -/
  preg : Nat
  val : VReg
deriving DecidableEq, Repr

/-- A landing-buffer entry: value, poison and descriptor (R58). -/
structure LbEntry where
  val : VReg
  desc : Word
deriving DecidableEq, Repr

def LbEntry.empty : LbEntry := { val := VReg.zero, desc := 0 }

/-- A leaf of the page table as an access uses it (R284). -/
structure Leaf where
  /-- physical address of the page's first stored byte -/
  base : Nat
  /-- base-2 logarithm of the page size -/
  lg : Nat
  w : Bool
  x : Bool
  kind : Nat
  cls : Nat
  tol : Nat
  kh : Nat
  bset : Nat
deriving DecidableEq, Repr

/-- A TLB entry: resident slot, virtual page of its size, and leaf (R287). -/
structure TlbEntry where
  /-- the TLB that holds it: core k's L1 TLB is k, column c's shared TLB is 128 + c -/
  home : Nat
  slot : Nat
  page : Nat
  leaf : Leaf
deriving DecidableEq, Repr

/-- A buffered scalar store (R303). -/
structure StoreEntry where
  /-- virtual address -/
  va : Nat
  /-- physical address of nominal byte `va` (of its element on a tolerant page) -/
  pa : Nat
  size : Nat
  data : Nat
  kind : Nat
  tol : Nat
  /-- base-2 logarithm of the size of its page (R289) -/
  lg : Nat := 16
deriving DecidableEq, Repr

/-- State of an operand slot (R182). -/
inductive SlotSt where
  | free
  | claimed
  | full
deriving DecidableEq, Repr

/-- An operand slot with its data and scale lane (R182, R205). -/
structure Slot where
  st : SlotSt
  fill : Bool
  users : Nat
  auto : Bool
  data : BitVec 131072
  lane : BitVec 8192
deriving DecidableEq, Repr

def Slot.empty : Slot := { st := .free, fill := false, users := 0, auto := false, data := 0, lane := 0 }

/-- An accumulator tile: 2,048 mantissas of 48 bits, row-major, and the status word (R186). -/
structure Tile where
  m : BitVec 98304
  stat : Word
deriving DecidableEq, Repr

def Tile.zero : Tile := { m := 0, stat := 0 }

/-- A shadow set: nest image and state (R206). -/
structure Shadow where
  image : BitVec 1280
  loaded : Bool
deriving DecidableEq, Repr

def Shadow.empty : Shadow := { image := 0, loaded := false }

/-- What a begun ring entry has done, kept until it completes or stops (R33 to R35). -/
structure Result where
  /-- status code, R34 -/
  code : Nat
  detail : Nat
  statx : Word
  /-- tag to set, CP ring -/
  tag : Nat
  /-- timeline that RTL names, 0 for none -/
  rtl : Nat
  /-- slots that the entry fills and whose fills have not completed -/
  fills : List Nat
  /-- begun, and waiting for answers from other packages -/
  busy : Bool
  /-- steps 1 and 2 of R33 are done (CP and CM, R310) -/
  posted : Bool
  /-- an NPUT or NATOM, for which a later NSIG waits (R311, R362) -/
  puts : Bool := false
  /-- it appended metadata entries, and DETAIL is their count (R218, R419) -/
  mq : Bool := false
  /-- stopped or given up, it begins again, before what is not begun and whatever stands behind it (R35, R373) -/
  redo : Bool := false
  /-- record of an NCOLL that has begun and stopped: a kill aborts its group (R399) -/
  coll : Option Row := none
  /-- CM: its translations have not all been made, here or at other packages (R310) -/
  trans : Bool := false
  /-- CM: its wait is met, and it waits for what stands ahead of it before it acts (R310, R362) -/
  held : Bool := false
  /-- the 48 bytes that the engine has read, of an entry that has not acted (R40) -/
  bytes : Option Nat := none
deriving DecidableEq, Repr

/-- A ring (R172, R381). -/
structure Ring where
  wp : Nat
  rp : Nat
  occ : Nat
  rseq : Word
  /-- stopped at its head entry, R35 -/
  stopped : Bool
  /-- a trap record has shown the stop, R394 -/
  reported : Bool
  /-- ring class, R380 -/
  cls : Nat
  /-- entries begun, in ring order from the head -/
  results : List Result
  /-- metadata entries that the next entry to begin has appended so far (R218, R419) -/
  appended : Nat
  /-- while it waits for room: the leaves that it has translated its source through, each with its page's address (R218) -/
  pages : List (Nat × Leaf)
  /-- the 48 bytes of the next entry to begin, once its wait is met and the engine has read them (R40) -/
  taken : Option Nat
deriving DecidableEq, Repr

def Ring.empty : Ring :=
  { wp := 0, rp := 0, occ := 0, rseq := 0, stopped := false, reported := false, cls := 0, results := [],
    appended := 0, pages := [], taken := none }

/-- A loop nest that an engine runs (R209, R230): what it took at its start and where it stands. -/
structure Nest where
  image : BitVec 1280
  /-- the command that started it -/
  cmd : Cmd
  /-- MMSL rather than MMGO or SKGO -/
  sliced : Bool
  /-- palette copy, R212 -/
  pal : BitVec 6144
  /-- index tuple i0 to i5 of the next step -/
  idx : List Nat
  /-- next pair step within the tuple, MMSL -/
  pair : Nat
  /-- metadata entry held, R209 -/
  held : Option (BitVec 8192)
  /-- tuple for which the metadata was last taken, none before the first -/
  popped : Option (List Nat)
  detail : Nat
  /-- a pre-emption stops it at its next step: much is left of it, or it has waited since the pre-emption began (R223) -/
  stop : Bool := false
deriving DecidableEq, Repr

/-- Progress of a collective group on a core (R366, R370, R371): STEP, STOP received, the A of an ABORT, and whether the
thread has had its trap for the group. -/
structure Group where
  step : Nat
  frozen : Bool
  aborted : Option Nat
  trapped : Bool
deriving DecidableEq, Repr

def Group.fresh : Group := { step := 0, frozen := false, aborted := none, trapped := false }

/-- An NCOLL in progress (R365): the ring sequence number of its entry, its record, the next iteration to issue, the
packets sent and not yet answered with their iterations, and the least iteration that was refused (R370). -/
structure Walker where
  seq : Word
  record : Row
  next : Nat
  waiting : List (Nat × Packet)
  refused : Option Nat
deriving DecidableEq, Repr

/-- A CM command that waits for answers from other packages: its entry, the packets sent and not yet answered, each with
the local row that its answer fills, those to send after them, and what it completes with (R357, R361, R368). -/
structure CmWait where
  seq : Word
  /-- everything that it sends first, for a run from the start -/
  sent : List (Nat × Packet)
  waiting : List (Nat × Packet)
  /-- what goes out as answers come back: eight rows of NPUT and NGET are in flight at a time (R361) -/
  todo : List (Nat × Packet)
  after : List Packet
  detail : Nat
  /-- R373 may abandon it at a pre-emption -/
  repeatable : Bool
  /-- an NXPERT that has raised a timeline of this package, and so completes (R373) -/
  raised : Bool
deriving DecidableEq, Repr

/-- A partial or final result of a reduction that has reached a member, and which its walker has not yet used (R367). -/
structure ChainPart where
  /-- the group's result rather than a partial one -/
  result : Bool
  group : Nat
  step : Nat
  off : Nat
  data : List Byte
deriving DecidableEq, Repr

/-- One core (R2, R387). -/
structure Core where
  pc : Word
  sregs : Sparse Word
  /-- scalar writes pending: register and cycle at which a dependent bundle may issue (R52, R55) -/
  pend : List (Nat × Nat)
  vregs : Sparse VReg
  pregs : Sparse PredBits
  /-- register slices with wrong parity: 0 vector or 1 predicate, physical register, and lane, 32 for the spare lane (R91) -/
  parityBad : List (Nat × Nat × Nat)
  /-- slices of the lane out of use, the spare one or the one that it replaces: 128 bits and 32 poison bits of each vector
  register, and 32 bits of each predicate (R90, R91) -/
  spareV : Sparse (BitVec 128 × BitVec 32)
  spareP : Sparse (BitVec 32)
  inflight : List Inflight
  halted : Bool
  checkstop : Bool
  retired : Bool
  lb : Sparse LbEntry
  lbcnt : Nat
  vrb : BitVec 5
  prb : BitVec 3
  vflags : Word
  livemark : Nat
  lanemap : Word
  cycle : Nat
  ticks : Nat
  team : Word
  tvec : Word
  evec : Word
  epc : Word
  tcause : Word
  tval : Word
  tstat : Word
  tbund0 : Word
  tbund1 : Word
  tscr0 : Word
  tscr1 : Word
  cmem : Sparse Byte
  icache : Sparse (Option Bundle)
  cpath : Sparse (Option Word)
  sb : List StoreEntry
  rows : Sparse Row
  /-- uncorrectable words of the scratchpad: row and word (R181) -/
  badRows : List (Nat × Nat)
  slots : Sparse Slot
  /-- uncorrectable words of operand memory: area, slot and word (R198, R397) -/
  badSlots : List (Nat × Nat × Nat)
  mdq : List (BitVec 8192)
  tiles : Sparse Tile
  /-- uncorrectable words of the accumulator store: tile (127 for status words) and word (R198, R397) -/
  badTiles : List (Nat × Nat)
  resume0 : BitVec 16384
  resume1 : BitVec 16384
  /-- shadow sets MX0, MX1, SK0, SK1 at 0 to 3 -/
  shadows : Sparse Shadow
  pal0 : BitVec 6144
  pal1 : BitVec 6144
  rings : Sparse Ring
  tl : Sparse Word
  tags : Word
  nestMX : Option Nest
  nestSK : Option Nest
  /-- the slot on which a waiting SKSCORE counts itself (R214) -/
  skCounted : Option Nat
  /-- the owner of the program for whose end the XSTOP at the head of the XS ring waits (R247) -/
  xstop : Option (Nat × Word)
  /-- the heat tokens that the MX or the SK ring waited for are granted, R220 -/
  grantMX : Bool
  grantSK : Bool
  /-- cycles for which the running command of the ring has paused for tokens, R221 -/
  pausedMX : Nat
  pausedSK : Nat
  /-- TVAL of each pending ABORT trap (R371, R394) -/
  abortPend : List Word
  groups : Sparse Group
  walkers : List Walker
  cmwait : List CmWait
  chain : List ChainPart
  /-- cycles of a lane copy still to pass (R91) -/
  swapLeft : Nat
deriving DecidableEq, Repr

/-- A core with nothing placed on it: the state R381 and R405 leave, before a launch names an entry. -/
def Core.blank : Core :=
  { pc := 0, sregs := [], pend := [], vregs := [], pregs := [], parityBad := [], spareV := [], spareP := [], inflight := [], halted := true,
    checkstop := false, retired := false, lb := [], lbcnt := 0, vrb := 0, prb := 0, vflags := 0, livemark := 0,
    lanemap := 0, cycle := 0, ticks := 0, team := 0xFFFFFFFFFFFFFFFF, tvec := 0, evec := 0, epc := 0, tcause := 0,
    tval := 0, tstat := 0, tbund0 := 0, tbund1 := 0, tscr0 := 0, tscr1 := 0, cmem := [], icache := [], cpath := [],
    sb := [], rows := [], badRows := [], slots := [], badSlots := [], mdq := [], tiles := [], badTiles := [],
    resume0 := 0, resume1 := 0, shadows := [], pal0 := 0, pal1 := 0, rings := [], tl := [], tags := 0,
    nestMX := none, nestSK := none, skCounted := none, xstop := none, grantMX := false, grantSK := false, pausedMX := 0, pausedSK := 0,
    abortPend := [], groups := [], walkers := [], cmwait := [], chain := [],
    swapLeft := 0 }

/-- A rendezvous point (R315). -/
structure Rv where
  exp : Nat
  cnt : Nat
  ph : Nat
deriving DecidableEq, Repr

def Rv.zero : Rv := { exp := 0, cnt := 0, ph := 0 }

/-- A versioned buffer (R173). -/
structure Buf where
  pub : Nat
  who : Option Nat
  nxt : Nat
  cnt0 : Nat
  cnt1 : Nat
deriving DecidableEq, Repr

/-- A buffer at context creation (R173), which gives PUB, WHO and the counts; NEXT, which it leaves out, is 0 (log 61). -/
def Buf.zero : Buf := { pub := 0, who := none, nxt := 0, cnt0 := 0, cnt1 := 0 }

/-- A host window (R403): virtual base, length, version address, VER and the published image. -/
structure Window where
  base : Nat
  len : Nat
  vaddr : Word
  ver : Nat
  image : List Byte
deriving DecidableEq, Repr

/-- A block record (R320). -/
structure BlockRec where
  surv : Word
  addr : Nat
  fmt : Nat
  ref : Nat
  gen : Nat
deriving DecidableEq, Repr

/-- State of a sequence (R321). -/
inductive SeqSt where
  | none
  | live
  | parked
deriving DecidableEq, Repr

/-- A sequence descriptor (R321): table entries keyed by layer·MAXB + block, wet entries by layer, each a record id. -/
structure SeqDesc where
  len : Nat
  st : SeqSt
  tab : Sparse Nat
  wet : Sparse Nat
deriving DecidableEq, Repr

def SeqDesc.empty : SeqDesc := { len := 0, st := .none, tab := [], wet := [] }

/-- State of an easel (R330). -/
inductive EaselSt where
  | free
  | ready
  | draft
  | check
deriving DecidableEq, Repr

/-- A node of a token tree (R331). -/
structure TreeNode where
  token : Nat
  parent : Nat
  q : Nat
deriving DecidableEq, Repr

/-- An easel (R330). -/
structure Easel where
  st : EaselSt
  seq : Nat
  cls : Nat
  rule : Nat
  nodes : Nat
  root : Nat
  len : Nat
  theta : Nat
  rng : Word
  deficit : Nat
  tree : List TreeNode
deriving DecidableEq, Repr

def Easel.free : Easel :=
  { st := .free, seq := 0, cls := 0, rule := 0, nodes := 0, root := 0, len := 0, theta := 0, rng := 0, deficit := 0,
    tree := [] }

/-- The store record (R318). -/
structure StoreRec where
  poolbase : Nat
  nframe : Nat
  sumbase : Nat
  tabbase : Nat
  nseq : Nat
  nl : Nat
  maxb : Nat
  kvh : Nat
  dc : Nat
  ksh : Int
  req : Bool
deriving DecidableEq, Repr

/-- The block store of one context in one column, with its easels (R318 to R335). It stands beside memory: what a program writes at
TABBASE changes bytes of memory, and nothing here (log 91). -/
structure KvStore where
  cfg : Option StoreRec
  /-- used quarters of a frame, a 4-bit mask; 0 for a free frame -/
  used : Sparse Nat
  /-- free frames that belong to the spill reserve -/
  reserve : List Nat
  /-- block records by id -/
  recs : Sparse BlockRec
  /-- the next record id, the model's own name of a record -/
  nextRec : Nat
  seqs : Sparse SeqDesc
  /-- requantisation queue of record ids, and what the engine noted of the block at its head: GEN, and the number
  4f + q of the quarter that it allocated (R325) -/
  queue : List Nat
  enc : Option (Nat × Nat)
  epoch : Bool
  h0 : Nat
  h1 : Nat
  /-- retired frames not yet draining, and draining -/
  pending : List Nat
  draining : List Nat
  /-- holds by core·8 + HS: the epoch recorded -/
  holds : Sparse Bool
  easels : Sparse Easel
  /-- EZNEXT pointers of classes 1 to 3 -/
  ptr1 : Nat
  ptr2 : Nat
  ptr3 : Nat
  /-- READY easels in order of entry -/
  ready : List Nat
deriving DecidableEq, Repr

def KvStore.empty : KvStore :=
  { cfg := none, used := [], reserve := [], recs := [], nextRec := 1, seqs := [], queue := [], enc := none, epoch := false,
    h0 := 0, h1 := 0, pending := [], draining := [], holds := [], easels := [], ptr1 := 0, ptr2 := 0, ptr3 := 0,
    ready := [] }

/-- A pending phase level and its due time in ns of GTIME (R270). -/
structure PhasePend where
  level : Nat
  due : Nat
  /-- device's time at which it was declared, or from which its context runs again (R271, R274) -/
  since : Nat
  /-- the wake that it began 1.2 µs before it was due is noted in `wakeFrom` (R271) -/
  opened : Bool := false
deriving DecidableEq, Repr

/-- State of a lane (R245). -/
inductive LaneSt where
  | idle
  | running
  | suspended
deriving DecidableEq, Repr

/-- A member of a transfer, its descriptor decoded (R249). -/
structure Member where
  core : Nat
  slot : Option Nat
  /-- first byte, in the scratchpad or the slot -/
  base : Nat
deriving DecidableEq, Repr

/-- A transfer that has issued and has not begun its fills (R250, R251): what it copies, the pages that it has translated, and
where the lane stood when it issued, to which a pre-emption or a stop takes the lane back (R257, R258). -/
structure XferPend where
  pc : Word
  x0 : BitVec 32
  x1 : BitVec 32
  x2 : BitVec 32
  x3 : BitVec 32
  exec : Nat
  kh : Nat
  ns : Nat
  nr : Nat
  pitch : Nat
  src : Nat
  members : List Member
  pages : List (Nat × Leaf)
deriving DecidableEq, Repr

/-- A transfer in flight (R250, R251): the slot members (core, slot) whose fills it holds, or will hold once it begins them. -/
structure XferFly where
  fills : List (Nat × Nat)
  pend : Option XferPend := none
deriving DecidableEq, Repr

/-- A lane of the memory sequencer (R245). -/
structure Lane where
  st : LaneSt
  pc : Word
  x0 : BitVec 32
  x1 : BitVec 32
  x2 : BitVec 32
  x3 : BitVec 32
  /-- the XS entry that started the program: core and ring sequence number -/
  owner : Nat × Word
  exec : Nat
  fly : List XferFly
  /-- context slot whose program runs -/
  slot : Nat
  /-- an XSTOP waits for its transfers to end (R247) -/
  halt : Bool
deriving DecidableEq, Repr

def Lane.idle : Lane :=
  { st := .idle, pc := 0, x0 := 0, x1 := 0, x2 := 0, x3 := 0, owner := (0, 0), exec := 0, fly := [], slot := 0, halt := false }

/-- A resident context (R379). -/
structure Ctx where
  job : Nat
  cls : Nat
  width : Nat
  ptroot : Nat
  savebase : Nat
  trbase : Nat
  quantum : Nat
  dbell : Nat
  /-- ENC, SWKEY, ISRCAP (R367) -/
  transport : BitVec 3
  /-- the job's key for sealed datagrams (R375) -/
  jobKey : BitVec 256
  /-- partition of R445 -/
  part : Nat
  /-- running on its partition -/
  running : Bool
  /-- it has been launched and its saved state may run again (R382) -/
  launched : Bool
  /-- saved state by position, and lanes by column of the partition (R258, R387) -/
  saved : Sparse Core
  lanes : Sparse Lane
  /-- pending launch request (R381) -/
  launch : Option Word
  /-- rendezvous points by (level·65536 + team)·32 + point (R315) -/
  rv : Sparse Rv
  bufs : Sparse Buf
  /-- levels in force, as PHASE reads them (R268) -/
  phase : Nat
  phasePend : Sparse PhasePend
  /-- by set, device's times at which R271 has let the set's RETAIN banks begin to wake, but for the level that is pending -/
  wakeFrom : Sparse (List Nat)
  phasemiss : Word
  wins : Sparse Window
  /-- block stores by column -/
  kv : Sparse KvStore
  /-- endpoint and function to which host software has attached it: function 0 is the PF, the others the VFs (R400) -/
  host : Option (Nat × Nat)
deriving DecidableEq, Repr

/-- Phases of a switch (R386). -/
inductive PartPhase where
  | running
  | stopping
  | saving
deriving DecidableEq, Repr

/-- A partition (R378, R386): the context that runs or is being switched, and the phase of a switch. -/
structure Part where
  slot : Option Nat
  phase : PartPhase
  /-- context to run after the switch, when a gang switch names one (R392) -/
  next : Option Nat
  /-- the class-0 context that a gang switch stopped, which goes on unless the switch names another (R383) -/
  keep : Option Nat
  /-- kill rather than save (R399) -/
  kill : Bool
  /-- device's time at which the quantum ends, none without one (R383) -/
  quantum : Option Nat
  /-- the 36,000 cycles of a pre-emption have passed (R386) -/
  late : Bool
  /-- contexts whose readiness its scheduler has decided on: they were ready when the running one was chosen (R383) -/
  seen : List Nat
deriving DecidableEq, Repr

def Part.idle : Part :=
  { slot := none, phase := .running, next := none, keep := none, kill := false, quantum := none, late := false, seen := [] }

/-- A key-table entry (R291). -/
structure KeyEntry where
  key1 : BitVec 256
  key2 : BitVec 256
  lid : Nat
  base : Nat
  holders : Nat
deriving DecidableEq, Repr

/-- Times of a bank (R264): end of the last access, when it became free, when it last began to enter RETAIN, end of a running
entry, wake or scrub. -/
structure BankTime where
  access : Nat
  freed : Nat
  retained : Nat
  entering : Option Nat
  waking : Option Nat
  /-- contexts an access of which has waited for the running wake (R273) -/
  missed : List Nat
  /-- end of a running scrub (R266, R267) -/
  scrub : Option Nat
deriving DecidableEq, Repr

def BankTime.zero : BankTime := { access := 0, freed := 0, retained := 0, entering := none, waking := none, missed := [], scrub := none }

/-- A request for banks that is granted and not complete (R266): context, set, its banks, and those that do not hold zeros yet. -/
structure BankReq where
  ctx : Nat
  set : Nat
  banks : List Nat
  left : List Nat
deriving DecidableEq, Repr

/-- Repair registers of a stack (R278). -/
structure Stack where
  entries : Sparse Word
  unrepaired : Bool
  committing : Bool
deriving DecidableEq, Repr

def Stack.fresh : Stack := { entries := [], unrepaired := false, committing := false }

/-- Token request that waits in a column (R220): core, SK rather than MX, tokens, and the cycle at which it was made. -/
structure TokReq where
  core : Nat
  sk : Bool
  tokens : Nat
  since : Nat
deriving DecidableEq, Repr

/-- What a column holds (R219, R276, R290, R334, R409). -/
structure Column where
  pool : Nat
  tokq : List TokReq
  /-- microseconds of the device's time whose refills are done -/
  refilled : Nat
  cap : Nat
  limit : Nat
  refill : Nat
  /-- LIMIT and REFILL in force: those that TOKCTL held at the last refill (R409) -/
  limitOn : Nat
  refillOn : Nat
  applied : Nat
  /-- APPLIED is on its way down, until the power falls below LIMIT -/
  lowering : Bool
  /-- the power has exceeded LIMIT, and APPLIED has not risen to REFILL since -/
  limited : Bool
  power : Nat
  /-- the last ten readings of 100 µs, newest first -/
  samples : List Nat
  tj : Int
  droop : Nat
  stretched : Bool
  throttled : Bool
  quota : Sparse Nat
  refloss : Nat
  c0max : Nat
  q1 : Nat
  q2 : Nat
  q3 : Nat
  failed : Bool
deriving DecidableEq, Repr

def Column.fresh : Column :=
  { pool := 129600, tokq := [], refilled := 0, cap := 129600, limit := 270, refill := 64800, limitOn := 270, refillOn := 64800, applied := 64800, lowering := false, limited := false, power := 0, samples := [], tj := 0,
    droop := 0, stretched := false, throttled := false, quota := [], refloss := 0, c0max := 0, q1 := 32, q2 := 16,
    q3 := 8, failed := false }

/-- State of a link (R349, R352). -/
inductive LinkSt where
  | untrained
  | up
  | retraining
  | down
deriving DecidableEq, Repr

/-- A data flit that waits to be sent: 2·CLS + VC, SOP and 240 bytes of payload (R350). -/
structure FlitOut where
  vc : Nat
  sop : Bool
  data : List Byte
deriving DecidableEq, Repr

/-- A link port (R350 to R354). `wire` is what it has sent, in order, control flits and replays too. -/
structure Link where
  st : LinkSt
  /-- SEQ of the next data flit to send, and of the next one to accept -/
  txSeq : Nat
  rxSeq : Nat
  /-- flits that wait for credit -/
  outq : List FlitOut
  /-- data flits sent and not acknowledged, oldest first -/
  unacked : List (BitVec 2048)
  /-- for each 2·CLS + VC, what is acknowledged of a packet whose flits are not all -/
  held : Sparse (List Byte)
  wire : List (BitVec 2048)
  /-- NAK to send -/
  nak : Bool
  /-- failures in a row of one flit -/
  fails : Nat
  /-- flit credits held, and to return, for each 2·CLS + VC -/
  credits : Sparse Nat
  owed : Sparse Nat
  /-- payload of a packet not yet whole, for each 2·CLS + VC -/
  inbuf : Sparse (List Byte)
deriving DecidableEq, Repr

def Link.fresh : Link :=
  { st := .untrained, txSeq := 0, rxSeq := 0, outq := [], unacked := [], held := [], wire := [], nak := false, fails := 0, credits := [], owed := [],
    inbuf := [] }

/-- A datagram sent and not acknowledged (R374, R375): its packet, its payload as it travels with its tag, the device's time at which
it was last sent, and how often it was resent. -/
structure Datagram where
  seq : Nat
  pkt : Packet
  body : List Byte
  tag : BitVec 128
  sent : Nat
  resends : Nat
deriving DecidableEq, Repr

/-- An Ethernet flow (R374): the traffic of one class with one package of another domain, and its datagrams not acknowledged,
oldest first. -/
structure Flow where
  txSeq : Nat
  rxSeq : Nat
  unacked : List Datagram
deriving DecidableEq, Repr

def Flow.fresh : Flow := { txSeq := 0, rxSeq := 0, unacked := [] }

/-- An abort that a core of this package runs as initiator (R370): group, core, JOB, the members by peer id, those whose
reply is awaited, the least STEP so far, and the NABORT entry that waits for it, none for a kill. -/
structure AbortRound where
  group : Nat
  core : Nat
  job : Nat
  members : List Nat
  awaiting : List Nat
  least : Nat
  seq : Option Word
deriving DecidableEq, Repr

/-- A STOP that a member of this package answers once its transfers of the group have ended (R370). -/
structure StopDue where
  core : Nat
  pkt : Packet
deriving DecidableEq, Repr

/-- A context of another package of the domain (R355): package, slot and JOB, and its launch doorbell. -/
structure RemoteCtx where
  pkg : Nat
  slot : Nat
  job : Nat
  /-- physical address of its launch doorbell, none without one (R381) -/
  door : Option Nat
deriving DecidableEq, Repr

/-- Messages to host software (R276, R352, R381, R390, R394, R397, R404, R409). -/
inductive HostMsg where
  /-- the machine-check log has become non-empty, with an entry of this context (R397) -/
  | mclog (slot : Nat)
  | ringStop (core ring : Nat)
  | launchDiscarded (slot : Nat)
  | residencyRefused
  | bankRefused
  | bankGranted (ctx set : Nat) (banks : List Nat)
  | columnFailed (col : Nat)
  | windowRefused (slot w : Nat)
  | unsupported (ep off : Nat)
  | registerData (ep off : Nat) (v : Word)
  | windowData (ep : Nat) (data : List Byte)
  | keyRefused
  | thermalAlarm (col : Nat)
  | linkDown (port : Nat)
  | repairFailed (stack : Nat)
  | alignmentLoss (ieee : Bool)
  | authFailed (flow : Nat)
  | window (slot w : Nat) (vaddr : Word) (ver : Nat)
deriving DecidableEq, Repr

/-- Who moves next, or what the outside does next. The list of them is the model's own: it names, as data, an order of
the agents of R294 and of host software that the spec leaves open. -/
inductive Turn where
  /-- core `c` becomes the focus and its thread moves -/
  | thread (c : Nat)
  /-- ring `q` of core `c` moves: begins an entry, runs a step of its nest, or completes an entry -/
  | ring (c q : Nat)
  /-- lane `l` performs its next transfer instruction -/
  | lane (l : Nat)
  /-- core `c` becomes the focus and the device takes a step of its own -/
  | event (c : Nat) (i : Instr)
  /-- a cycle passes on core `c` -/
  | cycle (c : Nat)
  /-- host software, or an agent outside the package, writes memory bytes at a physical address -/
  | memWrite (pa : Nat) (l : List Byte)
  /-- host software maps window `w` of the context in slot `slot` (R403) -/
  | mapWindow (slot w base len : Nat) (vaddr : Word)
  /-- host software sets GTIME (R390) -/
  | setGtime (ns : Nat)
  /-- GTIME is corrected by slewing (R390) -/
  | slewGtime (ppm : Int)
  /-- the host of endpoint `ep` reads or writes the management window (R401) -/
  | hostRead (ep off : Nat)
  | hostWrite (ep off : Nat) (v : Word)
  /-- the host of endpoint `ep` reads a host window, or writes it (R403) -/
  | windowRead (ep slot w off n : Nat)
  | windowWrite (ep slot w off : Nat) (l : List Byte)
  /-- host software attaches the context in slot `slot` to a function of an endpoint (R400) -/
  | attach (slot ep fn : Nat)
  /-- a memory word of the core goes bad: 0 scratchpad, 1 operand memory, 2 accumulators, 3 register slice -/
  | badCore (c what a b e : Nat)
  /-- a 64-byte sector of DRAM goes bad (R396) -/
  | badMem (sector : Nat)
  /-- the copy of a sector in the L2 line at WHERE goes bad (R396, R397) -/
  | badL2 (sector place : Nat)
  /-- a single-bit error is corrected (R396): the MCLOG entry -/
  | corrected (e : Word)
  /-- a link trains (R405 step 5) -/
  | linkUp (port : Nat)
  /-- a bank record of another package, as its controller holds it -/
  | remoteBank (bank : Nat) (v : BitVec 32)
  /-- the contexts of another package -/
  | remoteCtxs (l : List RemoteCtx)
  /-- entry `h` of the key table of package `pkg` changes, on that package (R291) -/
  | remoteKey (pkg h : Nat) (k : Option KeyEntry)
  /-- a TLBINV of another package with DOM = 1 takes effect here (R289) -/
  | remoteTlbinv (v : Word)
  /-- a core of another package performs RVINIT with a count, or ARRIVE, on the domain or system point with key `k`, for the
  context of job `job` here (R315, R316) -/
  | remoteRv (job k : Nat) (init : Option Nat)
  /-- the host security path loads the key of the job in slot `slot` (R375) -/
  | jobKey (slot : Nat) (key : BitVec 256)
  /-- a link of another package goes down, or comes up again (R352) -/
  | remoteLink (pkg port : Nat) (down : Bool)
  /-- a column's rails fail, and it stays off (R408) -/
  | columnOff (col : Nat)
deriving DecidableEq, Repr

/-- The package (R2). -/
structure State where
  /-- the core in focus -/
  core : Core
  coreNo : Nat
  others : Sparse Core
  /-- column whose lane or easel unit translates, none while a core does (R287) -/
  unit : Option Nat
  /-- core and context slot for which an arriving packet or an outside agent writes, none while the focused core does (R397) -/
  behalf : Option (Nat × Nat)
  domNo : BitVec 14
  pkgNo : BitVec 6
  ident : Word
  /-- the board's identity and repair records, none when they were not read (R402, R405) -/
  board : Option BoardRecord
  /-- host software has set GTIME; then GTIME when `clock` was `gclk`, and its slewing in parts per million (R390, R405) -/
  gset : Bool
  gbase : Nat
  gclk : Nat
  gppm : Int
  /-- cycles that the package has passed since cold reset (1.8 GHz, R390) -/
  clock : Nat
  mem : Memory
  /-- 64-byte sectors of DRAM that are uncorrectable (R396) -/
  badMem : List Nat
  /-- 64-byte sectors whose copy in the L2 is uncorrectable, each with the WHERE of its line (R396, R397) -/
  badL2 : List (Nat × Nat)
  ctxs : Sparse (Option Ctx)
  /-- launch requests of host software for slots in which no context is resident yet (R381) -/
  launchq : Sparse (Option Word)
  parts : Sparse Part
  /-- contexts in the order in which they last ran, least recent first (R383) -/
  recency : List Nat
  partcfg : Nat
  gsw : Word
  gswctl : Word
  tlbinv : Word
  /-- commands that TLBINV has started and that still run, the register's own not among them (R289) -/
  tlbinvq : List Word
  wrst : Word
  mclog : List Word
  mcLost : Bool
  keys : Sparse (Option KeyEntry)
  tlb : List TlbEntry
  lanes : Sparse Lane
  banks : Sparse (BitVec 32)
  bankT : Sparse BankTime
  bankReqs : List BankReq
  dramStacks : Sparse Stack
  cols : Sparse Column
  links : Sparse Link
  flows : Sparse Flow
  retryq : List Packet
  aborts : List AbortRound
  stopsDue : List StopDue
  remotes : List RemoteCtx
  /-- links of other packages of the domain that carry no traffic: package and port (R349, R352) -/
  deadLinks : List (Nat × Nat)
  /-- links on which IDE is established (R400) -/
  ide : List Nat
  hostLog : List HostMsg
  /-- the model's own: the next movers -/
  agenda : List Turn
  /-- the model's own: counter of free values drawn -/
  freeCtr : Nat
deriving DecidableEq, Repr

/-- A bank record at cold reset: free and DEEP (R263, R405). -/
def bankReset : BitVec 32 := 0x3C300000

/-- A board record that gives zero for every identity word, and no repair (logs 2, 3). -/
def BoardRecord.plain : BoardRecord :=
  { domain := 0, pkg := 0, ident := 0, lanemaps := [], stacksRead := 0xFF, repairs := [], split := 0, ideNeeds := 0, owner := 0 }

/-- The package right after the cold reset of R405, before host software has done anything, with a board record that gives
zero for each identity word and no repair (logs 2, 3). -/
def State.reset : State :=
  { core := Core.blank, coreNo := 0, others := [], unit := none, behalf := none, domNo := 0, pkgNo := 0, ident := 0, board := some BoardRecord.plain, gset := false, gbase := 0, gclk := 0, gppm := 0,
    clock := 0, mem := [], badMem := [], badL2 := [], ctxs := [], launchq := [], parts := [], recency := [], partcfg := 0, gsw := 0, gswctl := 0,
    tlbinv := 0, tlbinvq := [], wrst := 0, mclog := [], mcLost := false, keys := [], tlb := [], lanes := [], banks := [], bankT := [], bankReqs := [],
    dramStacks := [], cols := [], links := [], flows := [], retryq := [], aborts := [], stopsDue := [], remotes := [], deadLinks := [],
    ide := [], hostLog := [], agenda := [], freeCtr := 0 }

/-- Why the machine stops with a fault. The spec leaves no instruction without an effect (R22), and every exception it
names is taken as a next state, so no step of this model raises a fault: the type is closed and its constructor is raised
by nothing. -/
inductive Fault where
  /-- raised by nothing: safe -/
  | unused
deriving DecidableEq, Repr

/-- Why the model has no meaning for an instruction. -/
inductive Refusal where
  /-- raised by the arm of an instruction that has no meaning yet: safe, the model says nothing of it -/
  | notModelled (mnemonic : String)
deriving DecidableEq, Repr

end Sys2Proof.Machine
end

