-- ==== Sys2Proof/Machine/Regs.lean ====
section
/-! DEFINITION. One operation per register file: scalar registers with S0 (R16), vector registers and predicates through
the rotating map (R81), landing of exposed results (R54), pending scalar writes (R53), the clocks, and which context a
core runs (R378, R445). Every meaning reads and writes registers through these. -/
namespace Sys2Proof.Machine

/-- A scalar register; S0 reads zero (R16). -/
def rdS (c : Core) (r : BitVec 5) : Word := if r = 0 then 0 else Sparse.get 0 c.sregs r.toNat

/-- A scalar register written; S0 discards (R16). -/
def wrS (c : Core) (r : BitVec 5) (v : Word) : Core :=
  { c with sregs := if r = 0 then c.sregs else Sparse.set 0 c.sregs r.toNat v }

/-- A scalar register written, with the cycles until a dependent bundle may issue (R55): one cycle needs no entry, since
no bundle issues earlier. -/
def wrSL (c : Core) (lat : Nat) (r : BitVec 5) (v : Word) : Core :=
  { c with sregs := if r = 0 then c.sregs else Sparse.set 0 c.sregs r.toNat v,
           pend := if r = 0 ∨ lat ≤ 1 then c.pend else c.pend ++ [(r.toNat, c.cycle + lat)] }

/-- A bundle that uses the register must wait: an earlier write is pending (R52). -/
def pending (c : Core) (r : BitVec 5) : Bool := c.pend.any (fun e => e.1 == r.toNat && decide (c.cycle < e.2))

/-- Physical vector register of a logical number (R81). -/
def physV (c : Core) (n : Nat) : Nat := if n < 32 then n else 32 + (n - 32 + c.vrb.toNat) % 32

/-- Physical predicate of a logical number (R81). -/
def physP (c : Core) (n : Nat) : Nat := if n < 8 then n else 8 + (n - 8 + c.prb.toNat) % 8

/-- A vector register by logical number. -/
def rdV (c : Core) (n : Nat) : VReg := Sparse.get VReg.zero c.vregs (physV c n)

/-- A predicate by logical number; P0 reads all ones (R16). -/
def rdP (c : Core) (n : BitVec 4) : PredBits :=
  if n = 0 then BitVec.allOnes 1024 else Sparse.get 0 c.pregs (physP c n.toNat)

/-- Bit `j` of a predicate. -/
def pbit (p : PredBits) (j : Nat) : Bool := p.toNat.testBit j

/-- The registers of a group, from logical number `n`. -/
def rdGroup (c : Core) (n w : Nat) : List VReg := (List.range w).map (fun k => rdV c (n + k))

/-- Results that a slot puts in flight: logical registers from `n` take the values, landing at the tick given (R54). The
physical registers are those of the bases of `c0`, the core at issue (R56). -/
def launchV (c0 c : Core) (lat n : Nat) (vals : List VReg) : Core :=
  { c with inflight := c.inflight ++
      (vals.zipIdx.map fun p => { land := c0.ticks + lat, kind := .vec, preg := physV c0 (n + p.2), val := p.1 }) }

/-- A predicate result put in flight; P0 discards (R84). -/
def launchP (c0 c : Core) (lat : Nat) (n : BitVec 4) (v : PredBits) : Core :=
  { c with inflight :=
      if n = 0 then c.inflight else
        c.inflight ++ [{ land := c0.ticks + lat, kind := .prd, preg := physP c0 n.toNat,
                         val := { bits := v.setWidth 4096, pz := 0 } }] }

/-- Results in order of landing tick, those of one tick in issue order (R54). -/
def insLand (f : Inflight) : List Inflight → List Inflight
  | [] => [f]
  | g :: r => if f.land < g.land then f :: g :: r else g :: insLand f r

/-- Results sorted by landing tick, later-issued after earlier-issued within a tick (R54). -/
def sortLand (l : List Inflight) : List Inflight := l.foldl (fun acc f => insLand f acc) []

/-- LANEMAP.EN and LANEMAP.LANE (R90). -/
def laneEn (w : Word) : Bool := w.getLsbD 8
def laneOf (w : Word) : Nat := w.toNat % 32

/-- The lane, 0 to 31 or 32 for the spare one, carries a slice of the registers that instructions see: while a lane copy runs there
is no steering (R90, R91). -/
def laneUsed (c : Core) (l : Nat) : Bool :=
  if laneEn c.lanemap && c.swapLeft == 0 then l != laneOf c.lanemap else decide (l < 32)

/-- A number whose `w` bits from `lo` are those of `v`. -/
def putBits (n lo w v : Nat) : Nat := n % 2 ^ lo + 2 ^ lo * (v % 2 ^ w) + 2 ^ (lo + w) * (n / 2 ^ (lo + w))

/-- The slices of lane `l` and those of the lane out of use change places (R90, R91). -/
def exchangeLane (l : Nat) (c : Core) : Core :=
  let vs := (List.range 64).foldl (fun (m : Sparse VReg × Sparse (BitVec 128 × BitVec 32)) r =>
    let v := Sparse.get VReg.zero m.1 r
    let x := Sparse.get (0, 0) m.2 r
    (Sparse.set VReg.zero m.1 r
      { bits := .ofNat 4096 (putBits v.bits.toNat (128 * l) 128 x.1.toNat),
        pz := .ofNat 1024 (putBits v.pz.toNat (32 * l) 32 x.2.toNat) },
     Sparse.set (0, 0) m.2 r (.ofNat 128 (v.bits.toNat / 2 ^ (128 * l)), .ofNat 32 (v.pz.toNat / 2 ^ (32 * l))))) (c.vregs, c.spareV)
  let ps := (List.range 16).foldl (fun (m : Sparse PredBits × Sparse (BitVec 32)) r =>
    let v := Sparse.get 0 m.1 r
    let x := Sparse.get 0 m.2 r
    (Sparse.set 0 m.1 r (.ofNat 1024 (putBits v.toNat (32 * l) 32 x.toNat)),
     Sparse.set 0 m.2 r (.ofNat 32 (v.toNat / 2 ^ (32 * l))))) (c.pregs, c.spareP)
  { c with vregs := vs.1, spareV := vs.2, pregs := ps.1, spareP := ps.2 }

/-- Steering as LANEMAP has it is undone, or takes effect (R90). -/
def steer (w : Word) (c : Core) : Core := if laneEn w then exchangeLane (laneOf w) c else c

/-- Lane `l`'s slices are copied into the spare lane's, each with its parity as it is (R91; log 59): steering is off. -/
def copyLane (l : Nat) (c : Core) : Core :=
  let d := exchangeLane l c
  { d with vregs := c.vregs, pregs := c.pregs,
           parityBad := (c.parityBad.filter fun e => e.2.2 != 32) ++
             (c.parityBad.filter fun e => e.2.2 == l).map fun e => (e.1, e.2.1, 32) }

/-- One result written to its physical register: every slice in use is written whole, with its parity (R91). -/
def landOne (c : Core) (f : Inflight) : Core :=
  { c with vregs := if f.kind = .vec then Sparse.set VReg.zero c.vregs f.preg f.val else c.vregs,
           pregs := if f.kind = .prd then Sparse.set 0 c.pregs f.preg (f.val.bits.setWidth 1024) else c.pregs,
           parityBad := c.parityBad.filter fun e =>
             !(e.1 == (if f.kind = .vec then 0 else 1) && e.2.1 == f.preg && laneUsed c e.2.2) }

/-- Every result due at tick `t` or earlier lands (R54). -/
def landTo (t : Nat) (c : Core) : Core :=
  let d := (sortLand (c.inflight.filter (fun f => decide (f.land ≤ t)))).foldl landOne c
  { d with inflight := c.inflight.filter (fun f => decide (t < f.land)) }

/-- Time that has passed since cold reset in ns, 5/9 of one for each cycle at 1.8 GHz (log 8): what the device's own timers
count. -/
def devNs (s : State) : Nat := s.clock * 5 / 9

/-- Ns that GTIME has run since `gclk`, with the slewing in force (R390). -/
def gtimeRun (s : State) : Nat := (s.clock - s.gclk) * 5 * (1000000 + s.gppm).toNat / 9000000

/-- GTIME in ns, modulo 2^64: 0 until host software sets it (R390, R405; log 8). -/
def gtimeOf (s : State) : Nat := if s.gset then (s.gbase + gtimeRun s) % 2 ^ 64 else 0

/-- GTIME as a register. -/
def gtime (s : State) : Word := .ofNat 64 (gtimeOf s)

/-- `n` cycles pass on the focused core; the package's clock follows the core that is furthest (log 8). -/
def passCycles (n : Nat) (s : State) : State :=
  { s with core := { s.core with cycle := s.core.cycle + n }, clock := Nat.max s.clock (s.core.cycle + n) }

/-- The state with another core in focus's place. -/
def withCore (s : State) (c : Core) : State := { s with core := c }

/-- A core by number. -/
def getCore (s : State) (k : Nat) : Core := if k = s.coreNo then s.core else Sparse.get Core.blank s.others k

/-- A core replaced. -/
def setCore (s : State) (k : Nat) (c : Core) : State :=
  if k = s.coreNo then { s with core := c } else { s with others := Sparse.set Core.blank s.others k c }

/-- Core `k` comes into focus. -/
def focus (k : Nat) (s : State) : State :=
  if k = s.coreNo then s else
    { s with core := Sparse.get Core.blank s.others k, coreNo := k,
             others := Sparse.erase (Sparse.set Core.blank s.others s.coreNo s.core) k }

/-- Field `n` of two bits replaced in a PHASE image (R268). -/
def setLevel (ph n v : Nat) : Nat := ph % 4 ^ n + 4 ^ n * v + 4 ^ (n + 1) * (ph / 4 ^ (n + 1))

/-- Levels in force at a time: each pending level that is due has come into force (R270). -/
def phaseNow (now : Nat) (c : Ctx) : Nat :=
  c.phasePend.foldl (fun ph e => if e.2.due ≤ now then setLevel ph e.1 e.2.level else ph) c.phase

/-- Device's time at which GTIME reaches `g` as it is set and slewed now; for a time reached before that, when it was so set
(R390). -/
def devAt (s : State) (g : Nat) : Nat :=
  let rate := 5 * (1000000 + s.gppm).toNat
  (s.gclk + ((g - s.gbase) * 9000000 + rate - 1) / rate) * 5 / 9

/-- Times at which a pending level lets the RETAIN banks of its set begin to wake, of those reached (R271): for FULL, 1.2 µs before
it is due or when it was declared, and when it comes into force. -/
def pendWakes (s : State) (p : PhasePend) : List Nat :=
  if p.level ≠ 2 then [] else
    (if !p.opened && decide (p.due ≤ gtimeOf s + 1200) then [Nat.max p.since (devAt s (p.due - 1200))] else []) ++
      (if p.due ≤ gtimeOf s then [Nat.max p.since (devAt s p.due)] else [])

/-- Times at which the RETAIN banks of a set have been let begin to wake (R271): nothing cancels a wake, and the pending level of
a context that does not run wakes nothing (R265, R274). -/
def setWakes (s : State) (c : Ctx) (n : Nat) : List Nat :=
  Sparse.get [] c.wakeFrom n ++
    (if c.running then (match Sparse.find c.phasePend n with | some p => pendWakes s p | none => []) else [])

/-- A context whose due levels are in force, with the wakes that have begun noted (R270, R271, R274). -/
def phaseCommit (s : State) (c : Ctx) : Ctx :=
  let now := gtimeOf s
  { c with
    phase := phaseNow now c
    phasePend := (c.phasePend.filter fun e => decide (now < e.2.due)).map fun e =>
      (e.1, { e.2 with opened := e.2.opened || (c.running && decide (e.2.due ≤ now + 1200)) })
    wakeFrom := (List.range 16).foldl (fun m n => Sparse.set [] m n (setWakes s c n)) c.wakeFrom }

/-- One set of a declaration (R270): a level that is not in force is pending until it is due. -/
def declSet (s : State) (img due : Nat) (c : Ctx) (n : Nat) : Ctx :=
  { c with phasePend :=
      if img / 4 ^ n % 4 = c.phase / 4 ^ n % 4 then Sparse.erase c.phasePend n
      else Sparse.insert (Sparse.erase c.phasePend n) n { level := img / 4 ^ n % 4, due := due, since := devNs s } }

/-- A declaration applied to the sixteen sets (R270). -/
def declare (s : State) (img due : Nat) (c : Ctx) : Ctx := (List.range 16).foldl (declSet s img due) (phaseCommit s c)

/-- The sets of a context that runs again (R274): due levels come into force, FULL sets wake at once, and pending ones as if
declared now. -/
def phaseResume (s : State) (c : Ctx) : Ctx :=
  let d := phaseCommit s { c with running := false }
  { d with
    phasePend := d.phasePend.map fun e => (e.1, { e.2 with since := devNs s, opened := false })
    wakeFrom := (List.range 16).foldl (fun m n =>
      if d.phase / 4 ^ n % 4 = 2 then Sparse.set [] m n (Sparse.get [] m n ++ [devNs s]) else m) d.wakeFrom }

/-- A PHASE image names no level 3 and has no bit above its sets (R268, R269). -/
def phaseImageOk (v : Nat) : Bool := decide (v < 2 ^ 32) && (List.range 16).all (fun n => v / 4 ^ n % 4 != 3)

/-- Columns of a partition (R378). -/
def partWidth (s : State) : Nat := 8 / 2 ^ s.partcfg

/-- The partition of a core (R378). -/
def partOf (s : State) (k : Nat) : Nat := k / (16 * partWidth s)

/-- The position of a core in its partition (R378). -/
def posOf (s : State) (k : Nat) : Nat := k % (16 * partWidth s)

def getPart (s : State) (p : Nat) : Part := Sparse.get Part.idle s.parts p

/-- A resident context. -/
def getCtx (s : State) (slot : Nat) : Option Ctx := Sparse.get none s.ctxs slot

def setCtx (s : State) (slot : Nat) (c : Option Ctx) : State := { s with ctxs := Sparse.set none s.ctxs slot c }

/-- A change of a resident context, nothing when the slot is empty. -/
def modCtx (s : State) (slot : Nat) (f : Ctx → Ctx) : State :=
  match getCtx s slot with
  | some c => setCtx s slot (some (f c))
  | none => s

/-- A warm reset has begun and not ended: every agent stands (R406). -/
def resetting (s : State) : Bool := s.wrst.getLsbD 0

/-- Slot of the context that runs on a partition, none while it is idle, being switched or reset (R378, R386, R406). -/
def partSlot (s : State) (p : Nat) : Option Nat :=
  if (getPart s p).phase = .running ∧ !resetting s then (getPart s p).slot else none

/-- Slot of the context that runs on a core: none on a retired one (R378, R386, R398). -/
def slotOf (s : State) (k : Nat) : Option Nat := if (getCore s k).retired then none else partSlot s (partOf s k)

/-- Slot of the focused core's context. -/
def curSlot (s : State) : Option Nat := slotOf s s.coreNo

/-- Slot of the context whose engines may go on with what they have begun: while it runs, and while a pre-emption waits for
them (R386). -/
def engPartSlot (s : State) (p : Nat) : Option Nat :=
  if (getPart s p).phase = .saving ∨ resetting s then none else (getPart s p).slot

/-- The same of a core. -/
def engSlotOf (s : State) (k : Nat) : Option Nat := if (getCore s k).retired then none else engPartSlot s (partOf s k)

/-- Slot of the focused core's context, for its engines. -/
def engSlot (s : State) : Option Nat := engSlotOf s s.coreNo

/-- The focused core's context. -/
def curCtx (s : State) : Option Ctx := (curSlot s).bind (getCtx s)

/-- A package core number names a core of the partition of context `c` (R445). -/
def inPart (c : Ctx) (k : Nat) : Bool := decide (k < 128) && k / (16 * 2 ^ c.width) == c.part

/-- The column of a core (R63). -/
def colOf (k : Nat) : Nat := k / 16

def getCol (s : State) (c : Nat) : Column := Sparse.get Column.fresh s.cols c
def setCol (s : State) (c : Nat) (v : Column) : State := { s with cols := Sparse.set Column.fresh s.cols c v }

def getRing (c : Core) (q : Nat) : Ring := Sparse.get Ring.empty c.rings q
def setRing (c : Core) (q : Nat) (r : Ring) : Core := { c with rings := Sparse.set Ring.empty c.rings q r }

def getSlot (c : Core) (x : Nat) : Slot := Sparse.get Slot.empty c.slots x
def setSlot (c : Core) (x : Nat) (v : Slot) : Core := { c with slots := Sparse.set Slot.empty c.slots x v }

def getTile (c : Core) (k : Nat) : Tile := Sparse.get Tile.zero c.tiles k
def setTile (c : Core) (k : Nat) (v : Tile) : Core := { c with tiles := Sparse.set Tile.zero c.tiles k v }

def getRow (c : Core) (r : Nat) : Row := Sparse.get 0 c.rows r
def setRow (c : Core) (r : Nat) (v : Row) : Core := { c with rows := Sparse.set 0 c.rows r v }

def getTl (c : Core) (t : Nat) : Word := Sparse.get 0 c.tl t

/-- A timeline raised by a count, modulo 2^64 (R307). -/
def raiseTl (c : Core) (t n : Nat) : Core := { c with tl := Sparse.set 0 c.tl t (getTl c t + .ofNat 64 n) }

/-- The threads of the focused core may issue: a context runs on its partition, and the core is not halted,
checkstopped, retired or copying a lane (R76, R91, R396, R398). -/
def running (s : State) : Bool :=
  !s.core.halted && !s.core.checkstop && !s.core.retired && s.core.swapLeft == 0 && (curCtx s).isSome

/-- The next free value, and the state in which it is drawn (log 6). -/
def draw (s : State) : Word × State := (Config.freeValue s.freeCtr, { s with freeCtr := s.freeCtr + 1 })

/-- The context's cores stand in the package's cores, rather than in its saved state. -/
def liveCtx (s : State) (slot : Nat) (c : Ctx) : Bool := (getPart s c.part).slot == some slot

/-- Cores of a partition, by package core number (R378). -/
def partCores (s : State) (p : Nat) : List Nat := (List.range (16 * partWidth s)).map (· + 16 * partWidth s * p)

/-- A core has something to run: it is not halted, or a ring holds an entry (R382, R383). -/
def coreBusy (c : Core) : Bool := !c.retired && (!c.halted || (List.range 6).any fun q => (getRing c q).occ != 0)

/-- A saved core has something to run, or a store that waits for a destination context to be performed (R357, R382; log 90). -/
def savedBusy (c : Core) : Bool := coreBusy c || !c.sb.isEmpty

/-- Every core of a partition is halted and every ring empty (R381, R383). -/
def allQuiet (s : State) (p : Nat) : Bool := (partCores s p).all fun k => !coreBusy (getCore s k)

/-- A resident context is ready (R382). -/
def ready (s : State) (slot : Nat) : Bool :=
  match getCtx s slot with
  | none => false
  | some c => c.launch.isSome || (c.launched &&
      (if liveCtx s slot c then !allQuiet s c.part else c.saved.any fun e => savedBusy e.2))

/-- The context in a slot becomes ready, which the schedulers of the partitions decide on anew; one that was ready stays so (R382,
R383). -/
def becomesReady (slot : Nat) (s : State) : State :=
  if ready s slot then s
  else { s with parts := s.parts.map fun e => (e.1, { e.2 with seen := e.2.seen.filter (· != slot) }) }

/-- A launch of a resident context is requested; a later request replaces an earlier one (R381). -/
def askLaunch (slot : Nat) (a : Word) (s : State) : State :=
  modCtx (becomesReady slot s) slot fun c => { c with launch := some a }

/-- Reserved bits of a status word read as zero (R186). -/
def statMask : Word := 0xE000FFFF0000FFFF

/-- A row seen as bytes, from byte `lo`. -/
def rowBytes (r : Row) (lo n : Nat) : Nat := r.toNat / 2 ^ (8 * lo) % 2 ^ (8 * n)

/-- A row with the bytes of `mask` (one bit per byte) replaced (R164). -/
def maskRow (old new : Row) (mask : List Bool) : Row :=
  .ofNat 4096 (joinEls 8 (List.zipWith (fun (p : Nat × Nat) b => if b then p.2 else p.1)
    ((splitEls 8 512 old.toNat).zip (splitEls 8 512 new.toNat)) mask))

/-- Bytes `lo` to `lo + n − 1` of a `w`-bit value replaced. -/
def spliceBytes (w : Nat) (old : BitVec w) (lo n v : Nat) : BitVec w :=
  .ofNat w (old.toNat % 2 ^ (8 * lo) + 2 ^ (8 * lo) * (v % 2 ^ (8 * n)) +
    2 ^ (8 * (lo + n)) * (old.toNat / 2 ^ (8 * (lo + n))))

/-- A message to host software. -/
def tellHost (s : State) (m : HostMsg) : State := { s with hostLog := s.hostLog ++ [m] }

/-- Endpoint `ep` exists: each port has one, and a second when it is split (R400; log 69 for their numbers). -/
def endpointIs (s : State) (ep : Nat) : Bool :=
  decide (ep < 4) && (ep % 2 == 0 || s.board.elim false (·.split.getLsbD (ep / 2)))

/-- The link of an endpoint carries transactions: without IDE where the board record requires it, none (R400). -/
def linkOpen (s : State) (ep : Nat) : Bool :=
  endpointIs s ep && (!(s.board.elim false (·.ideNeeds.getLsbD ep)) || s.ide.contains ep)

/-- A message to the host of the context in slot `slot`, over the link of the function to which it is attached: lost without one,
or while that link carries no transactions (R400). -/
def tellCtx (s : State) (slot : Nat) (m : HostMsg) : State :=
  match (getCtx s slot).bind (·.host) with
  | some (ep, _) => if linkOpen s ep then tellHost s m else s
  | none => s

/-- A message of the package to its owner host (R401, R409), over a link that carries transactions. -/
def tellOwner (s : State) (m : HostMsg) : State :=
  if s.board.elim false (fun b => linkOpen s b.owner.toNat) then tellHost s m else s

/-- An MCLOG entry appended (R397): LOST when the queue is full, an MSI to the host of the entry's context when it becomes
non-empty. -/
def logMc (s : State) (e : Word) : State :=
  if 64 ≤ s.mclog.length then { s with mcLost := true }
  else
    let t := { s with mclog := s.mclog ++ [e] }
    if s.mclog = [] then tellCtx t (e.toNat / 2 ^ 30 % 8) (.mclog (e.toNat / 2 ^ 30 % 8)) else t

/-- An MCLOG entry (R397). -/
def mcEntry (kind unit core ctx place : Nat) : Word :=
  .ofNat 64 (pack [(30, place), (3, ctx), (7, core), (8, unit), (8, kind), (8, 0x80)])

/-- The bits of WHERE that the table of R397 names for a UNIT. -/
def whereMask (unit : Nat) : Nat :=
  match unit with
  | 0 => 0x7F3F | 1 => 0x1FFF003F | 2 => 0x7FFFFF | 3 => 0x7F1FFF | 4 => 0x3FFFFFFF | 5 => 0x380FFFFF | 6 => 0xF | _ => 0

/-- The entry of a corrected error: UNIT, CORE, CTX and WHERE of `e`, in the layout of R397. -/
def correctedEntry (e : Word) : Word :=
  let unit := e.toNat / 2 ^ 40 % 8
  mcEntry 1 unit (e.toNat / 2 ^ 33 % 128) (e.toNat / 2 ^ 30 % 8) (Nat.land (e.toNat % 2 ^ 30) (whereMask unit))

/-- The core stops, and the event is logged with a KIND, for the context that its partition holds (R396, R397). -/
def stopScalar (kind unit place : Nat) (s : State) : State :=
  logMc { s with core := { s.core with checkstop := true } } (mcEntry kind unit s.coreNo ((engSlot s).getD 0) place)

/-- The core stops at a machine check (R396): the bundle takes no effect and the trap registers are unchanged. -/
def checkstop (unit place : Nat) (s : State) : State := stopScalar 3 unit place s

end Sys2Proof.Machine
end

