-- ==== Sys2Proof/Machine/Flags.lean ====
section
/-! DEFINITION. Floating-point arithmetic on patterns with its flags and invalid cases (R142 to R162): every operation
answers the result pattern, whether the element is invalid (and so poisoned), and the VFLAGS bits it raises. -/
namespace Sys2Proof.Machine

/-- A result element: pattern, invalid, flags (R145, R146). -/
abbrev FRes := Nat × Bool × Nat

/-- VFLAGS bits raised at issue (R143). -/
def orFlags (c : Core) (fl : Nat) : Core := { c with vflags := c.vflags ||| .ofNat 64 fl }

/-- Rounding mode of VFLAGS.RM (R142). -/
def rmOf (c : Core) : Rmode := rmodeOf (bits c.vflags.toNat 9 8)

/-- An invalid result: the default NaN, poisoned, IV (R146). -/
def invalid (F : Fmt) : FRes := (dnan F, true, flIV)

/-- nanprop of R145 over patterns of one format. -/
def nanprop (F : Fmt) : List Nat → Option Nat
  | [] => none
  | x :: r => if (fdec F x).isNan then some (quiet F x) else nanprop F r

/-- A finite term of an exact sum: sign, mantissa, exponent. -/
abbrev Term := Bool × Nat × Int

/-- Least exponent of the terms. -/
def minExp : List Term → Int
  | [] => 0
  | [t] => t.2.2
  | t :: r => let m := minExp r; if t.2.2 < m then t.2.2 else m

/-- Exact sum of terms as a mantissa over 2^e. -/
def sumTerms (l : List Term) : Int × Int :=
  let e := minExp l
  (l.foldl (fun acc t => let v : Int := t.2.1 * 2 ^ (t.2.2 - e).toNat; if t.1 then acc - v else acc + v) 0, e)

/-- An exact sum rounded once; a zero sum is +0 unless every term is −0 (R145). -/
def roundSum (F : Fmt) (mode : Rmode) (l : List Term) : Nat × Nat :=
  let s := sumTerms l
  roundInt2 F mode (l.all (fun t => t.1 && t.2.1 == 0) && !l.isEmpty) s.1 s.2

def FVal.flip : FVal → FVal
  | .nan n m => .nan (!n) m
  | .inf n => .inf (!n)
  | .fin n m e => .fin (!n) m e

/-- Sign of an infinite product or addend, none when it is finite. -/
def infSign : FVal → Option Bool | .inf n => some n | _ => none

/-- Exact product of two non-NaN values; an infinity times a non-zero value is an infinity. -/
def mulVal : FVal → FVal → FVal
  | .fin n m e, .fin n' m' e' => .fin (n != n') (m * m') (e + e')
  | a, b => .inf (a.neg != b.neg)

/-- ±0 × ±Inf. -/
def badProd (p : FVal × FVal) : Bool := (p.1.isZero && p.2.isInf) || (p.1.isInf && p.2.isZero)

def termOf : FVal → List Term | .fin n m e => [(n, m, e)] | _ => []

/-- One rounding of the exact sum of products and addends, none of them NaN (R146, R148, R149, R156). -/
def fusedSum (F : Fmt) (mode : Rmode) (prods : List (FVal × FVal)) (adds : List FVal) : FRes :=
  if prods.any badProd then invalid F else
    let vs := prods.map (fun p => mulVal p.1 p.2) ++ adds
    let inf := vs.filterMap infSign
    if inf.contains true && inf.contains false then invalid F
    else match inf with
      | n :: _ => (infPat F n, false, 0)
      | [] => let r := roundSum F mode (vs.flatMap termOf); (r.1, false, r.2)

/-- VADD and VSUB (R148). -/
def fAdd (F : Fmt) (mode : Rmode) (sub : Bool) (x y : Nat) : FRes :=
  match nanprop F [x, y] with
  | some n => (n, false, 0)
  | none => fusedSum F mode [] [fdec F x, if sub then (fdec F y).flip else fdec F y]

/-- VMUL (R148). -/
def fMul (F : Fmt) (mode : Rmode) (x y : Nat) : FRes :=
  match nanprop F [x, y] with
  | some n => (n, false, 0)
  | none => fusedSum F mode [(fdec F x, fdec F y)] []

/-- VFMA, VFMS, VFNMA (R149): the product and the addend, each negated on request. -/
def fFma (F : Fmt) (mode : Rmode) (negP negC : Bool) (a b c : Nat) : FRes :=
  match nanprop F [a, b, c] with
  | some n => (n, false, 0)
  | none =>
    fusedSum F mode [(if negP then (fdec F a).flip else fdec F a, fdec F b)] [if negC then (fdec F c).flip else fdec F c]

/-- Magnitude pattern. -/
def fmag (F : Fmt) (x : Nat) : Nat := x % 2 ^ (F.e + F.m)

/-- Order of R150: numeric, with −0 below +0. -/
def fkey (F : Fmt) (x : Nat) : Int := if (fdec F x).neg then -(fmag F x : Int) - 1 else fmag F x

/-- Numeric order with −0 equal to +0 (R124). -/
def fnum (F : Fmt) (x : Nat) : Int := if (fdec F x).neg then -(fmag F x : Int) else fmag F x

/-- VMIN and VMAX (R150). -/
def fMinMax (F : Fmt) (mx : Bool) (x y : Nat) : Nat :=
  match (fdec F x).isNan, (fdec F y).isNan with
  | true, true => quiet F x
  | true, false => y
  | false, true => x
  | false, false => if mx then (if fkey F x < fkey F y then y else x) else (if fkey F y < fkey F x then y else x)

/-- VCMP conditions on floating-point types (R152). -/
def fCmp (F : Fmt) (cond x y : Nat) : Bool :=
  let un := (fdec F x).isNan || (fdec F y).isNan
  let a := fnum F x
  let b := fnum F y
  match cond with
  | 0 => !un && a == b
  | 1 => un || a != b
  | 2 => !un && decide (a < b)
  | 3 => !un && decide (a ≤ b)
  | 4 => !un && decide (b < a)
  | 5 => !un && decide (b ≤ a)
  | 6 => un
  | _ => !un

/-- VREDADD over the active elements in order (R153). -/
def fRedAdd (F : Fmt) (mode : Rmode) (l : List Nat) : FRes :=
  if l.isEmpty then (0, false, 0) else
    match nanprop F l with
    | some n => (n, false, 0)
    | none => fusedSum F mode [] (l.map (fdec F))

/-- VREDMIN and VREDMAX over the active elements in order (R154). -/
def fRedMinMax (F : Fmt) (mx : Bool) (l : List Nat) : Nat :=
  match l.filter (fun x => !(fdec F x).isNan) with
  | [] => match nanprop F l with
    | some n => n
    | none => infPat F mx
  | x :: r => r.foldl (fun a y => fMinMax F mx a y) x

/-- One VDOT element on floating-point types (R156): products of T, an FP32 addend, one rounding. The first NaN keeps its
sign and leading payload in FP32 (DEDUCED from R133, log 13). -/
def fDot (t : Nat) (mode : Rmode) (as bs : List Nat) (c : Nat) : FRes :=
  let F := fmtOf 12
  let S := fmtOf t
  match (as ++ bs).find? (fun x => (fdec S x).isNan) with
  | some x => (mapNan t 12 (fdec S x).neg (x % 2 ^ S.m), false, 0)
  | none =>
    match nanprop F [c] with
    | some n => (n, false, 0)
    | none => fusedSum F mode ((as.map (fdec S)).zip (bs.map (fdec S))) [fdec F c]

/-- ftz of R145. -/
def ftz (F : Fmt) (x : Nat) : Nat :=
  if x / 2 ^ F.m % 2 ^ F.e = 0 then signBit F (fdec F x).neg else x

/-- A result below the smallest normal written as ±0 with UF and IX (R147). -/
def flush (F : Fmt) (neg : Bool) (r : Nat × Nat) : FRes :=
  if fmag F r.1 < 2 ^ F.m then (signBit F neg, false, flUF + flIX) else (r.1, false, r.2)

/-- A fraction rounded to 12 significant bits by RNE (rnd12 of R160): mantissa, exponent, exactness. -/
def rnd12 (num den : Nat) (e : Int) : Nat × Int × Bool :=
  let q := flog2 num den e - 11
  let s := scale num den (e - q)
  let r := roundFrac .rne s.1 s.2
  (r.1, q, r.2)

/-- Integer square root of a number below 4^n, from the highest bit down. -/
def isqrt : Nat → Nat → Nat → Nat
  | 0, r, _ => r
  | n + 1, r, v => let t := r + 2 ^ n; isqrt n (if t * t ≤ v then t else r) v

/-- 1/√(m·2^e) rounded to 12 significant bits by RNE: mantissa, exponent, exactness. -/
def rsq12 (m : Nat) (e : Int) : Nat × Int × Bool :=
  let k := (flog2 1 m (-e)) / 2
  let q := k - 11
  -- (v / 2^q)^2 = 2^(−e − 2q) / m
  let s := scale 1 m (-e - 2 * q)
  let n := isqrt 13 0 (s.1 / s.2)
  let c := (2 * n + 1) * (2 * n + 1) * s.2
  let up := decide (c < 4 * s.1) || (decide (c = 4 * s.1) && n % 2 == 1)
  (if up then n + 1 else n, q, n * n * s.2 == s.1)

/-- A rounded approximation as a result: flushed, and inexact when the 12 bits or the rounding were (R160). -/
def apxOut (F : Fmt) (neg : Bool) (r : Nat × Int × Bool) : FRes :=
  let o := roundTo F .rne neg r.1 1 r.2.1
  let f := flush F neg o
  (f.1, f.2.1, f.2.2 ||| (if r.2.2 then 0 else flIX))

/-- VRCP (R160). -/
def fRcp (F : Fmt) (x0 : Nat) : FRes :=
  let x := ftz F x0
  match fdec F x with
  | .nan _ _ => (quiet F x, false, 0)
  | .inf n => (signBit F n, false, 0)
  | .fin n m e => if m = 0 then (infPat F n, false, flDZ) else apxOut F n (rnd12 1 m (-e))

/-- VRSQ (R160). -/
def fRsq (F : Fmt) (x0 : Nat) : FRes :=
  let x := ftz F x0
  match fdec F x with
  | .nan _ _ => (quiet F x, false, 0)
  | .inf n => if n then invalid F else (0, false, 0)
  | .fin n m e =>
    if m = 0 then (infPat F n, false, flDZ) else if n then invalid F else apxOut F false (rsq12 m e)

/-- Signed mantissa of a finite value. -/
def sman (n : Bool) (m : Nat) : Int := if n then -(m : Int) else m

/-- VRCPN and VRSQN (R161): approximation y and original x. -/
def fNewton (F : Fmt) (rsq : Bool) (y x : Nat) : FRes :=
  match nanprop F [y, x] with
  | some n => (n, false, 0)
  | none =>
    match fdec F x, fdec F y with
    | .fin nx mx ex, .fin ny my ey =>
      if mx = 0 ∨ my = 0 ∨ x / 2 ^ F.m % 2 ^ F.e = 0 then (y, false, 0)
      else
        -- 2y − x·y², or (3y − x·y³)/2
        let t : List Term :=
          if rsq then [(ny, 3 * my, ey - 1), (!(nx != ny), mx * my * my * my, ex + 3 * ey - 1)]
          else [(ny, 2 * my, ey), (!nx, mx * my * my, ex + 2 * ey)]
        let s := sumTerms t
        let r := roundInt2 F .rne false s.1 s.2
        (r.1, false, r.2)
    | _, _ => (y, false, 0)

/-- Fixed-point precision of the elementary functions. -/
def fixP : Nat := 320

/-- Σ z^(2k+1)/(2k+1) for z = num/den in fixed point: atanh z. -/
def atanhSum : Nat → Nat → Nat → Nat → Nat → Nat
  | 0, _, _, _, _ => 0
  | n + 1, k, pw, z2n, z2d => pw / (2 * k + 1) + atanhSum n (k + 1) (pw * z2n / z2d) z2n z2d

/-- ln((den + num)/(den − num)) in fixed point, for num/den at most 1/3. -/
def lnFix (num den : Nat) : Nat := 2 * atanhSum 110 0 (num * 2 ^ fixP / den) (num * num) (den * den)

/-- ln 2 in fixed point. -/
def ln2Fix : Nat := lnFix 1 3

/-- Σ t^k/k! in fixed point. -/
def expSum : Nat → Nat → Nat → Nat → Nat
  | 0, _, _, _ => 0
  | n + 1, k, pw, t => pw + expSum n (k + 1) (pw * t / 2 ^ fixP / (k + 1)) t

/-- VEXP2 (R162). The exact power is irrational unless x is an integer; it is rounded from 320 fixed-point bits, which
decides every rounding of these formats (DEDUCED, log 14). -/
def fExp2 (F : Fmt) (x0 : Nat) : FRes :=
  let x := ftz F x0
  match fdec F x with
  | .nan _ _ => (quiet F x, false, 0)
  | .inf n => if n then (0, false, 0) else (infPat F false, false, 0)
  | .fin n m e =>
    if m = 0 then (F.bias * 2 ^ F.m, false, 0)
    else if 12 ≤ flog2 m 1 e then (if n then (0, false, flUF + flIX) else (infPat F false, false, flOF + flIX))
    else
      -- x = i + f with f a fraction of 2^fixP
      let v : Int := sman n (if 0 ≤ e then m * 2 ^ (fixP + e.toNat) else m * 2 ^ fixP / 2 ^ (-e).toNat)
      let i := v / (2 ^ fixP : Nat)
      let f := (v % (2 ^ fixP : Nat)).toNat
      if f = 0 then flush F false (roundTo F .rne false 1 1 i)
      else
        let y := expSum 80 0 (2 ^ fixP) (f * ln2Fix / 2 ^ fixP)
        let o := flush F false (roundTo F .rne false y 1 (i - fixP))
        (o.1, false, o.2.2 ||| flIX)

/-- VLOG2 (R162), rounded from 320 fixed-point bits. -/
def fLog2 (F : Fmt) (x0 : Nat) : FRes :=
  let x := ftz F x0
  match fdec F x with
  | .nan _ _ => (quiet F x, false, 0)
  | .inf n => if n then invalid F else (infPat F false, false, 0)
  | .fin n m e =>
    if m = 0 then (infPat F true, false, flDZ)
    else if n then invalid F
    else
      let k := flog2 m 1 e
      let d := 2 ^ m.log2
      if m = d then
        let r := roundInt2 F .rne false k 0
        (r.1, false, r.2)
      else
        -- g = m/d in [1, 2), log2 g = ln g / ln 2
        let l := lnFix (m - d) (m + d) * 2 ^ fixP / ln2Fix
        let v : Int := k * (2 ^ fixP : Nat) + l
        let o := flush F (decide (v < 0)) (roundTo F .rne (decide (v < 0)) v.natAbs 1 (-(fixP : Int)))
        (o.1, false, o.2.2 ||| flIX)

end Sys2Proof.Machine
end

