-- ==== Sys2Proof/Machine/Aes.lean ====
section
/-! DEFINITION. AES-256-XTS over 64-byte sectors (R292). PRESUMED (log 9): the spec names the cipher, and its rounds,
S-box and tweak multiplication are those of the public standards FIPS 197 and IEEE 1619. Blocks are lists of 16 bytes. -/
namespace Sys2Proof.Machine

/-- The S-box. -/
def aesSbox : List Nat :=
  [99, 124, 119, 123, 242, 107, 111, 197, 48, 1, 103, 43, 254, 215, 171, 118, 202, 130, 201, 125, 250, 89, 71, 240, 173, 212, 162, 175, 156, 164, 114, 192] ++
  [183, 253, 147, 38, 54, 63, 247, 204, 52, 165, 229, 241, 113, 216, 49, 21, 4, 199, 35, 195, 24, 150, 5, 154, 7, 18, 128, 226, 235, 39, 178, 117] ++
  [9, 131, 44, 26, 27, 110, 90, 160, 82, 59, 214, 179, 41, 227, 47, 132, 83, 209, 0, 237, 32, 252, 177, 91, 106, 203, 190, 57, 74, 76, 88, 207] ++
  [208, 239, 170, 251, 67, 77, 51, 133, 69, 249, 2, 127, 80, 60, 159, 168, 81, 163, 64, 143, 146, 157, 56, 245, 188, 182, 218, 33, 16, 255, 243, 210] ++
  [205, 12, 19, 236, 95, 151, 68, 23, 196, 167, 126, 61, 100, 93, 25, 115, 96, 129, 79, 220, 34, 42, 144, 136, 70, 238, 184, 20, 222, 94, 11, 219] ++
  [224, 50, 58, 10, 73, 6, 36, 92, 194, 211, 172, 98, 145, 149, 228, 121, 231, 200, 55, 109, 141, 213, 78, 169, 108, 86, 244, 234, 101, 122, 174, 8] ++
  [186, 120, 37, 46, 28, 166, 180, 198, 232, 221, 116, 31, 75, 189, 139, 138, 112, 62, 181, 102, 72, 3, 246, 14, 97, 53, 87, 185, 134, 193, 29, 158] ++
  [225, 248, 152, 17, 105, 217, 142, 148, 155, 30, 135, 233, 206, 85, 40, 223, 140, 161, 137, 13, 191, 230, 66, 104, 65, 153, 45, 15, 176, 84, 187, 22]

/-- The inverse S-box. -/
def aesInvSbox : List Nat :=
  [82, 9, 106, 213, 48, 54, 165, 56, 191, 64, 163, 158, 129, 243, 215, 251, 124, 227, 57, 130, 155, 47, 255, 135, 52, 142, 67, 68, 196, 222, 233, 203] ++
  [84, 123, 148, 50, 166, 194, 35, 61, 238, 76, 149, 11, 66, 250, 195, 78, 8, 46, 161, 102, 40, 217, 36, 178, 118, 91, 162, 73, 109, 139, 209, 37] ++
  [114, 248, 246, 100, 134, 104, 152, 22, 212, 164, 92, 204, 93, 101, 182, 146, 108, 112, 72, 80, 253, 237, 185, 218, 94, 21, 70, 87, 167, 141, 157, 132] ++
  [144, 216, 171, 0, 140, 188, 211, 10, 247, 228, 88, 5, 184, 179, 69, 6, 208, 44, 30, 143, 202, 63, 15, 2, 193, 175, 189, 3, 1, 19, 138, 107] ++
  [58, 145, 17, 65, 79, 103, 220, 234, 151, 242, 207, 206, 240, 180, 230, 115, 150, 172, 116, 34, 231, 173, 53, 133, 226, 249, 55, 232, 28, 117, 223, 110] ++
  [71, 241, 26, 113, 29, 41, 197, 137, 111, 183, 98, 14, 170, 24, 190, 27, 252, 86, 62, 75, 198, 210, 121, 32, 154, 219, 192, 254, 120, 205, 90, 244] ++
  [31, 221, 168, 51, 136, 7, 199, 49, 177, 18, 16, 89, 39, 128, 236, 95, 96, 81, 127, 169, 25, 181, 74, 13, 45, 229, 122, 159, 147, 201, 156, 239] ++
  [160, 224, 59, 77, 174, 42, 245, 176, 200, 235, 187, 60, 131, 83, 153, 97, 23, 43, 4, 126, 186, 119, 214, 38, 225, 105, 20, 99, 85, 33, 12, 125]

def aesSub (x : Nat) : Nat := aesSbox.getD x 0
def aesInvSub (x : Nat) : Nat := aesInvSbox.getD x 0

/-- Doubling in GF(2^8). -/
def xtime (x : Nat) : Nat := if x < 128 then 2 * x else Nat.xor (2 * x - 256) 0x1B

/-- Product in GF(2^8) by a constant below 16. -/
def gfMul (x c : Nat) : Nat :=
  let x2 := xtime x
  let x4 := xtime x2
  let x8 := xtime x4
  Nat.xor (Nat.xor (if c.testBit 0 then x else 0) (if c.testBit 1 then x2 else 0))
    (Nat.xor (if c.testBit 2 then x4 else 0) (if c.testBit 3 then x8 else 0))

def xorL (a b : List Nat) : List Nat := List.zipWith Nat.xor a b

/-- Key expansion: the words (4 bytes each) of 15 round keys, from the last eight words. -/
def aesExpand : Nat → Nat → List (List Nat) → List (List Nat)
  | 0, _, ws => ws
  | n + 1, rcon, ws =>
    let k := ws.length
    let prev := ws.getD (k - 1) []
    let t :=
      if k % 8 = 0 then
        xorL ([prev.getD 1 0, prev.getD 2 0, prev.getD 3 0, prev.getD 0 0].map aesSub) [rcon, 0, 0, 0]
      else if k % 8 = 4 then prev.map aesSub else prev
    aesExpand n (if k % 8 = 0 then xtime rcon else rcon) (ws ++ [xorL (ws.getD (k - 8) []) t])

/-- Round key `r`, 16 bytes. -/
def aesRoundKey (ws : List (List Nat)) (r : Nat) : List Nat :=
  ws.getD (4 * r) [] ++ ws.getD (4 * r + 1) [] ++ ws.getD (4 * r + 2) [] ++ ws.getD (4 * r + 3) []

/-- The 60 words of a 32-byte key. -/
def aesKey (key : List Nat) : List (List Nat) :=
  aesExpand 52 1 ((List.range 8).map fun i => [key.getD (4 * i) 0, key.getD (4 * i + 1) 0, key.getD (4 * i + 2) 0, key.getD (4 * i + 3) 0])

def shiftRows (s : List Nat) : List Nat :=
  [0, 5, 10, 15, 4, 9, 14, 3, 8, 13, 2, 7, 12, 1, 6, 11].map fun i => s.getD i 0
def invShiftRows (s : List Nat) : List Nat :=
  [0, 13, 10, 7, 4, 1, 14, 11, 8, 5, 2, 15, 12, 9, 6, 3].map fun i => s.getD i 0

/-- A column mixed by the circulant of the constants given. -/
def mixCol (c0 c1 c2 c3 : Nat) (s : List Nat) : List Nat :=
  let f := fun i => Nat.xor (Nat.xor (gfMul (s.getD i 0) c0) (gfMul (s.getD ((i + 1) % 4) 0) c1))
    (Nat.xor (gfMul (s.getD ((i + 2) % 4) 0) c2) (gfMul (s.getD ((i + 3) % 4) 0) c3))
  [f 0, f 1, f 2, f 3]

def mixCols (c0 c1 c2 c3 : Nat) (s : List Nat) : List Nat :=
  mixCol c0 c1 c2 c3 (s.take 4) ++ mixCol c0 c1 c2 c3 ((s.drop 4).take 4) ++
    mixCol c0 c1 c2 c3 ((s.drop 8).take 4) ++ mixCol c0 c1 c2 c3 ((s.drop 12).take 4)

/-- One block encrypted. -/
def aesEnc (ws : List (List Nat)) (b : List Nat) : List Nat :=
  let s := (List.range 13).foldl
    (fun s i => xorL (mixCols 2 3 1 1 (shiftRows (s.map aesSub))) (aesRoundKey ws (i + 1))) (xorL b (aesRoundKey ws 0))
  xorL (shiftRows (s.map aesSub)) (aesRoundKey ws 14)

/-- One block decrypted. -/
def aesDec (ws : List (List Nat)) (b : List Nat) : List Nat :=
  let s := (List.range 13).foldl
    (fun s i => mixCols 14 11 13 9 (xorL ((invShiftRows s).map aesInvSub) (aesRoundKey ws (13 - i))))
    (xorL b (aesRoundKey ws 14))
  xorL ((invShiftRows s).map aesInvSub) (aesRoundKey ws 0)

/-- The tweak times α (IEEE 1619), on the little-endian 128-bit number. -/
def xtsNext (t : Nat) : Nat := if t < 2 ^ 127 then 2 * t else Nat.xor (2 * t - 2 ^ 128) 0x87

/-- The four blocks of a sector under a cipher `f` and the tweaks from `t` on. -/
def xtsBlocks (f : List Nat → List Nat) : Nat → Nat → List Nat → List Nat
  | 0, _, _ => []
  | n + 1, t, l =>
    let tw := splitEls 8 16 t
    xorL (f (xorL (l.take 16) tw)) tw ++ xtsBlocks f n (xtsNext t) (l.drop 16)

/-- One 64-byte sector under AES-256-XTS (R292): `dec` decrypts; keys are 256-bit numbers whose byte 0 is the lowest. -/
def xtsSector (dec : Bool) (key1 key2 : Nat) (tweak : Nat) (l : List Nat) : List Nat :=
  let w1 := aesKey (splitEls 8 32 key1)
  let t := joinEls 8 (aesEnc (aesKey (splitEls 8 32 key2)) (splitEls 8 16 tweak))
  xtsBlocks (if dec then aesDec w1 else aesEnc w1) 4 t l

/-- Product in GF(2^128) as GCM has it (NIST SP 800-38D), blocks as big-endian numbers. -/
def gcmMul (x y : Nat) : Nat :=
  ((List.range 128).foldl (fun (a : Nat × Nat) i =>
    (if x.testBit (127 - i) then Nat.xor a.1 a.2 else a.1,
     if a.2.testBit 0 then Nat.xor (a.2 / 2) (0xE1 * 2 ^ 120) else a.2 / 2)) (0, y)).1

/-- Bytes as a big-endian number. -/
def beNum (l : List Nat) : Nat := l.foldl (fun a b => 256 * a + b) 0

/-- GHASH of `n` blocks from the hash so far; a short block is filled with zeros. -/
def gHash (h : Nat) : Nat → List Nat → Nat → Nat
  | 0, _, y => y
  | n + 1, l, y => gHash h n (l.drop 16) (gcmMul (Nat.xor y (beNum ((l ++ List.replicate 16 0).take 16))) h)

/-- A list xored with the blocks of the counter from `i` on, after a 12-byte nonce. -/
def gcmCtr (ws : List (List Nat)) (nonce : List Nat) : Nat → Nat → List Nat → List Nat
  | 0, _, _ => []
  | n + 1, i, l => xorL (l.take 16) (aesEnc ws (nonce ++ (splitEls 8 4 i).reverse)) ++ gcmCtr ws nonce n (i + 1) (l.drop 16)

/-- The 16-byte tag of sealed bytes, with no further authenticated data (log 48). -/
def gcmTag (ws : List (List Nat)) (nonce l : List Nat) : BitVec 128 :=
  let h := beNum (aesEnc ws (List.replicate 16 0))
  .ofNat 128 (Nat.xor (gcmMul (Nat.xor (gHash h ((l.length + 15) / 16) l 0) (8 * l.length)) h) (beNum (aesEnc ws (nonce ++ [0, 0, 0, 1]))))

/-- AES-256-GCM (R375): bytes sealed or opened under a key, as a 256-bit number whose byte 0 is the lowest. -/
def gcmCrypt (key : Nat) (nonce l : List Nat) : List Nat := gcmCtr (aesKey (splitEls 8 32 key)) nonce ((l.length + 15) / 16) 2 l

end Sys2Proof.Machine
end

