-- ==== Sys2Proof/Machine/Xlat.lean ====
section
/-! DEFINITION. Translation and memory (R280 to R293, R139 to R141, R263 to R273, R396): page walks with the bank checks,
TLB hits, remote packages, tolerant and keyed pages, and bytes of DRAM. A fault is the status code of R34 that it carries;
`codeRetry` stands for a request that the destination package answers with RETRY (R357), a wait and no fault. -/
namespace Sys2Proof.Machine

def codeNotPresent : Nat := 0x03
def codeProt : Nat := 0x04
def codeKey : Nat := 0x05
def codeVbus : Nat := 0x08
def codeBank : Nat := 0x09
def codeCheck : Nat := 0x0C
def codeRetry : Nat := 0x100

/-- Package of a physical address (R281). -/
def paPkg (pa : Nat) : Nat := bits pa 45 40

/-- Bank of the domain that holds a physical address: package, stack and bank (R281). -/
def paBank (pa : Nat) : Nat := pa / 2 ^ 24

/-- Number in `banks` of a bank of this package (R262). -/
def ownBank (s : State) (b : BitVec 15) : Nat := s.pkgNo.toNat * 65536 + b.toNat

/-- Bits [lo + w − 1 : lo] of a bank record. -/
def bfield (r : BitVec 32) (lo w : Nat) : Nat := r.toNat / 2 ^ lo % 2 ^ w

/-- A field of a bank record replaced. -/
def bset (r : BitVec 32) (lo w v : Nat) : BitVec 32 :=
  .ofNat 32 (r.toNat % 2 ^ lo + 2 ^ lo * (v % 2 ^ w) + 2 ^ (lo + w) * (r.toNat / 2 ^ (lo + w)))

def getStack (s : State) (n : Nat) : Stack := Sparse.get Stack.fresh s.dramStacks n
def setStack (s : State) (n : Nat) (v : Stack) : State := { s with dramStacks := Sparse.set Stack.fresh s.dramStacks n v }

def bankTime (s : State) (b : Nat) : BankTime := Sparse.get BankTime.zero s.bankT b

/-- A scrub of 0.7 ms that ends at `due` runs; before that the bank leaves DEEP (R266). -/
def scrubbing (s : State) (t : BankTime) : Bool := t.scrub.elim false fun due => decide (due ≤ devNs s + 700000)

/-- Bank record of a bank of the domain; for one of this package UNREP is its stack's (R279), and SCRUB, with which a DEEP bank
has become IDLE, shows whether its scrub runs (R263, R266). -/
def bankRec (s : State) (b : Nat) : BitVec 32 :=
  let r := Sparse.get bankReset s.banks b
  if b / 65536 ≠ s.pkgNo.toNat then r
  else
    let u := if (getStack s (b / 4096 % 16)).unrepaired then bset r 31 1 1 else r
    if scrubbing s (bankTime s b) then bset (if bfield u 20 2 = 3 then bset u 20 2 1 else u) 30 1 1 else bset u 30 1 0

def setBank (s : State) (b : Nat) (r : BitVec 32) : State := { s with banks := Sparse.set bankReset s.banks b r }
def setBankTime (s : State) (b : Nat) (t : BankTime) : State := { s with bankT := Sparse.set BankTime.zero s.bankT b t }

/-- First port of the route from one package to another (R353): dimension order, the shorter way, positive at distance two. -/
def firstPort (src dst : Nat) : Option Nat :=
  let f := fun (sh : Nat) (p : Nat) =>
    match (dst / sh % 4 + 4 - src / sh % 4) % 4 with
    | 0 => none | 3 => some (p + 1) | _ => some p
  match f 1 0 with
  | some p => some p
  | none => match f 4 2 with
    | some p => some p
    | none => f 16 4

def getLink (s : State) (p : Nat) : Link := Sparse.get Link.fresh s.links p
def setLink (s : State) (p : Nat) (l : Link) : State := { s with links := Sparse.set Link.fresh s.links p l }

/-- The package at the other end of a port (R349): ports 0 to 5 lead one place up or down the three dimensions. -/
def nextPkg (pkg p : Nat) : Nat :=
  let sh := 4 ^ (p / 2)
  let d := pkg / sh % 4
  pkg - sh * d + sh * ((d + if p % 2 = 0 then 1 else 3) % 4)

/-- A link of a package of the domain carries traffic (R349, R352): its own ports by their state, those of the others as the
outside says. -/
def linkCarries (s : State) (pkg p : Nat) : Bool :=
  if pkg = s.pkgNo.toNat then (getLink s p).st == .up || (getLink s p).st == .retraining
  else !s.deadLinks.contains (pkg, p)

/-- The first link of the route from one package to another, of at most `n` links, that carries no traffic (R353). -/
def deadHop (s : State) : Nat → Nat → Nat → Option (Nat × Nat)
  | 0, _, _ => none
  | n + 1, src, dst =>
    match firstPort src dst with
    | none => none
    | some p => if linkCarries s src p then deadHop s n (nextPkg src p) dst else some (src, p)

/-- Every link of the route to a package of the domain carries traffic: at most six (R349, R352, R353). -/
def reachable (s : State) (pkg : Nat) : Bool := (deadHop s 6 s.pkgNo.toNat pkg).isNone

/-- Slot on the package `pkg` of the context that issues from slot `slot` (R355): the destination context. -/
def destSlot (s : State) (slot pkg : Nat) : Option Nat :=
  if pkg = s.pkgNo.toNat then some slot else
    match getCtx s slot with
    | none => none
    | some c => (s.remotes.find? (fun r => r.pkg == pkg && r.job == c.job)).map (·.slot)

/-- A 64-byte sector holds some of the bytes. -/
def inSectors (pa n b : Nat) : Bool := decide (pa / 64 ≤ b) && decide (b ≤ (pa + n - 1) / 64)

/-- The 64-byte sectors of the bytes are correctable, in DRAM and in the L2 (R396). -/
def sectorsOk (s : State) (pa n : Nat) : Bool := !s.badMem.any (inSectors pa n) && !s.badL2.any (fun e => inSectors pa n e.1)

/-- Place in MCLOG of a DRAM address (R397). -/
def dramPlace (pa : Nat) : Nat := paBank pa % 32768 * 2 ^ 15 + pa % 2 ^ 24 / 512

/-- UNIT and WHERE of the check that the bytes fail (R397): the L2 line's, or DRAM's. -/
def failPlace (s : State) (pa n : Nat) : Nat × Nat :=
  match s.badL2.find? (fun e => inSectors pa n e.1) with
  | some e => (5, e.2)
  | none => match s.badMem.find? (inSectors pa n) with
    | some b => (4, dramPlace (64 * b))
    | none => (4, dramPlace pa)

/-- Little-endian number in memory. -/
def memNum (s : State) (pa n : Nat) : Nat := ofBytes (Memory.readN s.mem pa n)

/-- Shift of the virtual bits that a level indexes (R282). -/
def lvlShift (l : Nat) : Nat := match l with | 3 => 39 | 2 => 30 | 1 => 21 | _ => 16
/-- Index of an address at a level (R282). -/
def lvlIndex (l va : Nat) : Nat :=
  match l with | 3 => bits va 56 39 | 2 => bits va 38 30 | 1 => bits va 29 21 | _ => bits va 20 16

/-- Bytes of storage of a page of 2^lg bytes under a tolerant kind (R284). -/
def storedSize (lg tol : Nat) : Nat := if tol = 0 then 2 ^ lg else 2 ^ lg / tolA tol * tolD tol

/-- A leaf entry at a level, none when it is malformed (R284). -/
def leafOf (l e : Nat) : Option Leaf :=
  let lf : Leaf :=
    { base := bits e 31 0 * 2 ^ 14, lg := lvlShift l, w := bits e 62 62 == 1, x := bits e 61 61 == 1,
      kind := bits e 60 59, cls := bits e 58 57, tol := bits e 56 54, kh := bits e 53 44, bset := bits e 43 40 }
  if l = 3 ∨ lf.kind = 3 ∨ 5 ≤ lf.tol ∨ bits e 38 32 ≠ 0 ∨ (lf.tol ≠ 0 ∧ lf.kh ≠ 0) ∨
      lf.base % storedSize lf.lg lf.tol ≠ 0 ∨ lf.base.testBit 39 then none
  else some lf

/-- The stack of a table node is repaired (R279). -/
def nodeStack (s : State) (pa : Nat) : Except Nat Unit := if bfield (bankRec s (paBank pa)) 31 1 = 1 then .error codeVbus else .ok ()

/-- The bank of a table node is the context's, and its stack repaired (R267, R279, R282). -/
def nodeBank (s : State) (slot pa : Nat) : Except Nat Unit :=
  let r := bankRec s (paBank pa)
  if bfield r 31 1 = 1 then .error codeVbus else if bfield r 26 4 ≠ slot then .error codeBank else .ok ()

/-- The walk of R285 without the checks of the leaf's banks, from the node at `node` of level `l`; `n` levels remain, and `chk` tests
the banks of the nodes. -/
def walkFrom (s : State) (chk : Nat → Except Nat Unit) (va : Nat) : Nat → Nat → Nat → Except Nat Leaf
  | 0, _, _ => .error codeProt
  | n + 1, l, node =>
    let pa := node + 8 * lvlIndex l va
    match chk pa with
    | .error e => .error e
    | .ok _ =>
      if !sectorsOk s pa 8 then .error codeCheck else
        let e := memNum s pa 8
        if bits e 63 63 = 0 then .error codeNotPresent
        else if bits e 39 39 = 1 then
          match leafOf l e with
          | some lf => .ok lf
          | none => .error codeProt
        else if l = 0 ∨ bits e 62 40 ≠ 0 ∨ bits e 38 38 ≠ 0 ∨ (2 ≤ l ∧ bits e 3 0 ≠ 0) then .error codeProt
        else walkFrom s chk va n (l - 1) (bits e 37 0 * 256)

/-- The table entries that a walk reads, from the node at `node` of level `l` on (R285). -/
def walkReads (s : State) (chk : Nat → Except Nat Unit) (va : Nat) : Nat → Nat → Nat → List Nat
  | 0, _, _ => []
  | n + 1, l, node =>
    let pa := node + 8 * lvlIndex l va
    match chk pa with
    | .error _ => []
    | .ok _ =>
      let e := memNum s pa 8
      if !sectorsOk s pa 8 ∨ bits e 63 63 = 0 ∨ bits e 39 39 = 1 ∨ l = 0 then [pa]
      else pa :: walkReads s chk va n (l - 1) (bits e 37 0 * 256)

/-- The walk of a context's tree, without the checks of the leaf's banks. -/
def rawWalk (s : State) (slot : Nat) (c : Ctx) (va : Nat) : Except Nat Leaf := walkFrom s (nodeBank s slot) va 4 3 c.ptroot

/-- Physical address of a resident context's launch doorbell, none without one (R379, R381). -/
def doorAt (s : State) (slot : Nat) (c : Ctx) : Option Nat :=
  if c.dbell = 0 then none else
    match rawWalk s slot c c.dbell with
    | .ok lf => some (lf.base + c.dbell % 2 ^ lf.lg)
    | .error _ => none

/-- The launch doorbells of the domain's contexts (R381): this package's, and those of other packages. -/
def doors (s : State) : List Nat :=
  (s.ctxs.filterMap fun p => p.2.bind (doorAt s p.1)) ++ s.remotes.filterMap fun r => r.door

/-- Physical frames of 64 KiB that hold a launch doorbell (R381). -/
def doorFrames (s : State) : List Nat := (doors s).map fun d => d / 65536 * 65536

/-- The banks that `n` bytes from a physical address touch. -/
def spanBanks (base n : Nat) : List Nat :=
  (List.range ((base + n - 1) / 2 ^ 24 - base / 2 ^ 24 + 1)).map (· + base / 2 ^ 24)

/-- The banks that the stored bytes of a page touch. -/
def leafBanks (lf : Leaf) : List Nat := spanBanks lf.base (storedSize lf.lg lf.tol)

/-- First failing bank check of R285. -/
def banksOk (s : State) (slot bset : Nat) : List Nat → Except Nat Unit
  | [] => .ok ()
  | b :: r =>
    let rec_ := bankRec s b
    if bfield rec_ 31 1 = 1 then .error codeVbus
    else if bfield rec_ 26 4 ≠ slot ∨ bfield rec_ 22 4 ≠ bset then .error codeBank
    else banksOk s slot bset r

/-- The page is one of a launch doorbell, mapped S (R381): every context of the domain may reach it. -/
def doorPage (s : State) (lf : Leaf) : Bool := lf.kind == 0 && lf.lg == 16 && (doorFrames s).contains lf.base

/-- The first link of the route to a package of the domain retrains: traffic waits (R352). -/
def retrains (s : State) (pkg : Nat) : Bool :=
  match firstPort s.pkgNo.toNat pkg with
  | some p => (getLink s p).st == .retraining
  | none => false

/-- The package that holds the page can be reached, and has the context there (R352, R355, R357). -/
def pageReach (s : State) (slot : Nat) (lf : Leaf) : Except Nat Leaf :=
  if !reachable s (paPkg lf.base) then .error codeCheck
  else if retrains s (paPkg lf.base) then .error codeRetry
  else if (destSlot s slot (paPkg lf.base)).isNone && !doorPage s lf then .error codeRetry
  else .ok lf

/-- No access reaches a stack that awaits its repair, a page that stands in a TLB or holds a launch doorbell included (R279). -/
def repaired (s : State) (lf : Leaf) : Except Nat Leaf :=
  if bfield (bankRec s (paBank lf.base)) 31 1 = 1 then .error codeVbus else .ok lf

/-- The walk of R285 with its bank checks, and the doorbell's exception (R381). -/
def walk (s : State) (slot va : Nat) : Except Nat Leaf :=
  match getCtx s slot with
  | none => .error codeNotPresent
  | some c =>
    match rawWalk s slot c va with
    | .error e => .error e
    | .ok lf =>
      match pageReach s slot lf with
      | .error e => .error e
      | .ok _ =>
        if doorPage s lf then repaired s lf else
          match banksOk s ((destSlot s slot (paPkg lf.base)).getD 0) lf.bset (leafBanks lf) with
          | .ok _ => .ok lf
          | .error e => .error e

/-- The entry lies in a TLB that the access looks in: the focused core's own and its column's, or, for a lane or an easel unit, that
of the column it serves (R287); none for what stands in no column (`noColumn`). -/
def tlbNear (s : State) (t : TlbEntry) : Bool :=
  match s.unit with
  | some k => t.home == 128 + k
  | none => t.home == s.coreNo || t.home == 128 + colOf s.coreNo

/-- The unit of an access that no core and no column makes, a link agent's or the scheduler's: it walks each time (log 89). -/
def noColumn : Nat := 8

/-- A step of a lane or of an easel unit, which translates through the TLB of column `k` (R287). -/
def asUnit (k : Nat) (f : State → State) (s : State) : State := { f { s with unit := some k } with unit := s.unit }

/-- A TLB entry that covers the address (R287). -/
def tlbHit (s : State) (slot va : Nat) : Option Leaf :=
  (s.tlb.find? (fun t => tlbNear s t && t.slot == slot && t.page == va / 2 ^ t.leaf.lg)).map (·.leaf)

/-- An access through a page that was translated before can still be made: the package that holds the page is reached, and its stack
is repaired (R279, R352, R357). -/
def stillReach (s : State) (slot : Nat) (lf : Leaf) : Except Nat Leaf := (pageReach s slot lf).bind (repaired s)

/-- Translation of an address through the TLBs or a walk (R285 to R288). -/
def lookup (s : State) (slot va : Nat) : Except Nat Leaf :=
  if bits va 63 57 ≠ 0 then .error codeProt else
    match tlbHit s slot va with
    | some lf => stillReach s slot lf
    | none => walk s slot va

/-- The same without a TLB, as what stands in no column translates. -/
def walkOf (s : State) (slot va : Nat) : Except Nat Leaf := lookup { s with unit := some noColumn } slot va

/-- How an access uses a page (R286). -/
inductive Use where
  | read
  | write
  | fetch
  | atomic
deriving DecidableEq, Repr

/-- The access checks of R286 up to the third. -/
def translate (s : State) (slot va : Nat) (u : Use) : Except Nat Leaf :=
  match lookup s slot va with
  | .error e => .error e
  | .ok lf =>
    match u with
    | .read => .ok lf
    | .write => if lf.w then .ok lf else .error codeProt
    | .fetch => if lf.x then .ok lf else .error codeProt
    | .atomic => if lf.w && lf.tol == 0 then .ok lf else .error codeProt

/-- Physical address of a nominal address: of its element on a tolerant page (R284). -/
def physOf (lf : Leaf) (va : Nat) : Nat :=
  let o := va % 2 ^ lf.lg
  if lf.tol = 0 then lf.base + o else lf.base + o / tolA lf.tol * tolD lf.tol

/-- `n` stored elements of a tolerant page from `pa`, expanded (R140). -/
def tolRead (s : State) (k : Nat) : Nat → Nat → List Nat
  | 0, _ => []
  | n + 1, pa => tolLoad k (memNum s pa (tolD k)) :: tolRead s k n (pa + tolD k)

/-- The nominal bytes of a page as the number they spell: plain bytes, or expanded elements (R140). `pa` is that of the
first byte's element. -/
def loadNum (s : State) (tol va pa n : Nat) : Nat :=
  if tol = 0 then memNum s pa n else
    let a := tolA tol
    joinEls (8 * a) (tolRead s tol ((va % a + n + a - 1) / a) pa) / 2 ^ (8 * (va % a)) % 2 ^ (8 * n)

/-- Memory after elements are stored from `pa`, each rounded to the target (R139). -/
def tolWrite (m : Memory) (k : Nat) : Nat → List Nat → Memory
  | _, [] => m
  | pa, x :: r => tolWrite (Memory.writeL m pa (toBytes (tolD k) (tolStore k x))) k (pa + tolD k) r

/-- A write covers the whole of a 64-byte sector. -/
def coversSector (pa n b : Nat) : Bool := decide (pa ≤ 64 * b) && decide (64 * b + 64 ≤ pa + n)

/-- Uncorrectable sectors that a write covers only in part, each with its UNIT and WHERE (R396, R397). -/
def partialBad (s : State) (pa n : Nat) : List (Nat × Nat) :=
  ((s.badMem.filter fun b => inSectors pa n b && !coversSector pa n b).map fun b => (4, dramPlace (64 * b))) ++
    (s.badL2.filter fun e => inSectors pa n e.1 && !coversSector pa n e.1).map fun e => (5, e.2)

/-- A write that covers only part of an uncorrectable sector of this package is logged for each such sector, with the core and the
context that write (R396, R397). -/
def logPartial (s : State) (pa n : Nat) : State :=
  if paPkg pa ≠ s.pkgNo.toNat then s else
    let who := s.behalf.getD (s.coreNo, (engSlot s).getD 0)
    (partialBad s pa n).foldl (fun t p => logMc t (mcEntry 2 p.1 who.1 who.2 p.2)) s

/-- Memory with bytes written: a sector that the write covers whole becomes correct, another is left as it is and logged
(R396). -/
def putMem (s : State) (pa n : Nat) (m : Memory) : State :=
  { logPartial s pa n with
    mem := m, badMem := s.badMem.filter (fun b => !coversSector pa n b),
    badL2 := s.badL2.filter (fun e => !coversSector pa n e.1) }

/-- Bytes written through a page: plain, or merged into the stored elements (R141). -/
def storeNum (s : State) (tol va pa n v : Nat) : State :=
  if tol = 0 then putMem s pa n (Memory.writeL s.mem pa (toBytes n v))
  else
    let a := tolA tol
    let k := (va % a + n + a - 1) / a
    let old := joinEls (8 * a) (tolRead s tol k pa)
    let lo := va % a
    let new := old % 2 ^ (8 * lo) + 2 ^ (8 * lo) * (v % 2 ^ (8 * n)) + 2 ^ (8 * (lo + n)) * (old / 2 ^ (8 * (lo + n)))
    putMem s pa (k * tolD tol) (tolWrite s.mem tol pa (splitEls (8 * a) k new))

/-- Level in force of a context's bank set: OFF while it is not running (R268, R274). -/
def levelOf (s : State) (slot set : Nat) : Nat :=
  match getCtx s slot with
  | some c => if c.running then phaseNow (gtimeOf s) c / 4 ^ set % 4 else 0
  | none => 0

/-- PHASEMISS with one more wake in the field of a level (R273). -/
def missAt (w : Word) (level : Nat) : Word :=
  let n := w.toNat
  match level with
  | 0 => .ofNat 64 (n % 2 ^ 32 + 2 ^ 32 * ((n / 2 ^ 32 + 1) % 2 ^ 32))
  | 1 => .ofNat 64 (n % 2 ^ 16 + 2 ^ 16 * ((n / 2 ^ 16 % 2 ^ 16 + 1) % 2 ^ 16) + 2 ^ 32 * (n / 2 ^ 32))
  | _ => .ofNat 64 ((n % 2 ^ 16 + 1) % 2 ^ 16 + 2 ^ 16 * (n / 2 ^ 16))

/-- When a bank that entered RETAIN at `ret` is usable again by a wake that R271 has let begin, none without one: an entry
completes its 100 ns first. -/
def declaredWake (now ret : Nat) (l : List Nat) : Option Nat :=
  match l.filter (fun x => decide (ret ≤ x) && decide (x ≤ now)) with
  | [] => none
  | x :: r => some (Nat.max (r.foldl Nat.min x) (ret + 100) + 1200)

/-- When a bank in RETAIN is usable for an access that arrives now: by the wake that has begun, or by the one that the access
begins (R264, R265, R271). -/
def usableAt (s : State) (r : BitVec 32) (t : BankTime) : Nat :=
  let now := devNs s
  match t.waking with
  | some d => d
  | none =>
    match (getCtx s (bfield r 26 4)).bind (fun c => declaredWake now t.retained (setWakes s c (bfield r 22 4))) with
    | some d => d
    | none => Nat.max now (t.entering.getD 0) + 1200

/-- `n` accesses of context `slot` reach a bank of this package (R264, R265, R273): a bank in RETAIN that is not usable yet
wakes, and the wake that they wait for is counted once for the context, at the level of the bank's set (log 81); another is
ACTIVE, but for a DEEP one, which only an allocation moves; and the access count rises. None reaches a stack that awaits its repair.
The wait itself lies within the access (log 11). -/
def touchMany (n : Nat) (s : State) (slot pa : Nat) : State :=
  let b := paBank pa
  if paPkg pa ≠ s.pkgNo.toNat ∨ bfield (bankRec s b) 31 1 = 1 then s else
    let r := bankRec s b
    let t := bankTime s b
    let r1 := bset r 0 16 (Nat.min 65535 (bfield r 0 16 + n))
    let due := usableAt s r t
    if bfield r 20 2 = 2 ∧ devNs s < due then
      let s1 := if t.missed.contains slot then s else
        modCtx s slot (fun c => { c with phasemiss := missAt c.phasemiss (levelOf s (bfield r 26 4) (bfield r 22 4)) })
      setBankTime (setBank s1 b r1) b
        { t with access := due, waking := some due, missed := if t.missed.contains slot then t.missed else t.missed ++ [slot] }
    else
      setBankTime (setBank s b (if bfield r 20 2 = 3 then r1 else bset r1 20 2 0)) b
        { t with access := devNs s, entering := none, waking := none, missed := [] }

/-- One access. -/
def touchBank (s : State) (slot pa : Nat) : State := touchMany 1 s slot pa

/-- The table entries that a translation without a TLB entry reads are accesses to their banks (R263, R285). -/
def touchWalk (s : State) (slot va : Nat) : State :=
  if bits va 63 57 ≠ 0 ∨ (tlbHit s slot va).isSome then s else
    match getCtx s slot with
    | none => s
    | some c => (walkReads s (nodeBank s slot) va 4 3 c.ptroot).foldl (fun t pa => touchBank t slot pa) s

/-- An access through a virtual address reaches the banks of its walk and of its bytes. -/
def touch (s : State) (slot va pa : Nat) : State := touchBank (touchWalk s slot va) slot pa

/-- The banks that an access at a virtual address reaches: those of its bytes, or, where it faults, of the table entries that it
read (R263, R264, R273, R285). -/
def touchVa (slot va : Nat) (s : State) : State :=
  match lookup s slot va with
  | .ok lf => touch s slot va (physOf lf va)
  | .error _ => touchWalk s slot va

/-- `n` sectors from `va` reach their banks. -/
def touchSectors (slot : Nat) : Nat → Nat → State → State
  | 0, _, s => s
  | n + 1, va, s => touchSectors slot n ((va + 64) % 2 ^ 64) (touchVa slot va s)

/-- UNIT and WHERE of the machine check that an access to `n` bytes at a virtual address ends in (R397): the link that does not
carry it, the table entry that failed, or the bytes themselves. -/
def checkPlace (s : State) (slot va n : Nat) : Nat × Nat :=
  match lookup s slot va with
  | .ok lf => failPlace s (physOf lf va) n
  | .error _ =>
    match getCtx s slot with
    | none => (4, 0)
    | some c =>
      match (walkReads s (nodeBank s slot) va 4 3 c.ptroot).find? (fun pa => !sectorsOk s pa 8) with
      | some pa => failPlace s pa 8
      | none =>
        match (match tlbHit s slot va with | some lf => Except.ok lf | none => rawWalk s slot c va) with
        | .ok lf => (6, ((deadHop s 6 s.pkgNo.toNat (paPkg lf.base)).getD (0, 0)).2)
        | .error _ => (4, 0)

/-- The bytes at a virtual address lie in another package, which logs what is wrong with them (R397). -/
def farVa (s : State) (slot va : Nat) : Bool :=
  match lookup s slot va with
  | .ok lf => paPkg lf.base != s.pkgNo.toNat
  | .error _ => false

/-- The core stops at a machine check of an access to a virtual address (R396): in another package's memory the entry is this
package's further one, of KIND 2 (R397). -/
def checkAt (slot va unit place : Nat) (s : State) : State := stopScalar (if farVa s slot va then 2 else 3) unit place s

/-- Key presented, page handle, and the entry that the package holding the frame has for it (R291, R293). -/
def keyFor (s : State) (slot kh : Nat) (lf : Leaf) : Except Nat (Option KeyEntry) :=
  if kh ≠ lf.kh then .error codeKey
  else if kh = 0 then .ok none
  else match Sparse.get none s.keys (paPkg lf.base * 1024 + kh), destSlot s slot (paPkg lf.base) with
    | some k, some d => if k.holders.testBit d then .ok (some k) else .error codeKey
    | _, _ => .error codeKey

/-- Tweak of the sector of a nominal address (R292): the row index is taken modulo 2^64. -/
def tweakOf (k : KeyEntry) (va : Nat) : Nat := k.lid * 2 ^ 96 + (((va : Int) - k.base) / 64 % 2 ^ 64).toNat

/-- An engine read of `n` bytes within one 64-byte sector through a leaf, presenting `kh` (R286, R292, R295): the number they
spell. -/
def engLoadAt (s : State) (slot kh va n : Nat) (lf : Leaf) : Except Nat Nat :=
    match keyFor s slot kh lf with
    | .error e => .error e
    | .ok none => if !sectorsOk s (physOf lf va) n then .error codeCheck else .ok (loadNum s lf.tol va (physOf lf va) n)
    | .ok (some k) =>
      let base := physOf lf (va / 64 * 64)
      if !sectorsOk s base 64 then .error codeCheck else
        let pl := xtsSector true k.key1.toNat k.key2.toNat (tweakOf k va) (splitEls 8 64 (memNum s base 64))
        .ok (joinEls 8 pl / 2 ^ (8 * (va % 64)) % 2 ^ (8 * n))

/-- One engine read of `n` bytes within one 64-byte sector, presenting `kh`. -/
def engLoad (s : State) (slot kh va n : Nat) : Except Nat Nat :=
  match translate s slot va .read with
  | .error e => .error e
  | .ok lf => engLoadAt s slot kh va n lf

/-- An engine write of `n` bytes within one 64-byte sector through a leaf, presenting `kh`, in the state `t` whose banks it has
reached (R286, R292, R295). -/
def engStoreAt (s t : State) (slot kh va n v : Nat) (lf : Leaf) : Except Nat State :=
    match keyFor s slot kh lf with
    | .error e => .error e
    | .ok none => .ok (storeNum t lf.tol va (physOf lf va) n v)
    | .ok (some k) =>
      let base := physOf lf (va / 64 * 64)
      let tw := tweakOf k va
      let old := joinEls 8 (xtsSector true k.key1.toNat k.key2.toNat tw (splitEls 8 64 (memNum s base 64)))
      let lo := va % 64
      let new := old % 2 ^ (8 * lo) + 2 ^ (8 * lo) * (v % 2 ^ (8 * n)) + 2 ^ (8 * (lo + n)) * (old / 2 ^ (8 * (lo + n)))
      let ct := joinEls 8 (xtsSector false k.key1.toNat k.key2.toNat tw (splitEls 8 64 new))
      .ok (putMem t (physOf lf va) n (Memory.writeL s.mem base (toBytes 64 ct)))

/-- One engine write of `n` bytes within one 64-byte sector, presenting `kh`. -/
def engStore (s : State) (slot kh va n v : Nat) : Except Nat State :=
  match translate s slot va .write with
  | .error e => .error e
  | .ok lf => engStoreAt s (touch s slot va (physOf lf va)) slot kh va n v lf

/-- `n` sectors read from a 64-byte-aligned address, as one number; an error with its address. -/
def engReadS (s : State) (slot kh : Nat) : Nat → Nat → Except (Nat × Nat) Nat
  | 0, _ => .ok 0
  | n + 1, va =>
    match engLoad s slot kh va 64 with
    | .error e => .error (e, va)
    | .ok x =>
      match engReadS s slot kh n ((va + 64) % 2 ^ 64) with
      | .error e => .error e
      | .ok r => .ok (x + 2 ^ 512 * r)

/-- Bytes read by an engine one at a time from any address. -/
def engReadB (s : State) (slot kh : Nat) : Nat → Nat → Except (Nat × Nat) Nat
  | 0, _ => .ok 0
  | n + 1, va =>
    match engLoad s slot kh va 1 with
    | .error e => .error (e, va)
    | .ok x =>
      match engReadB s slot kh n ((va + 1) % 2 ^ 64) with
      | .error e => .error e
      | .ok r => .ok (x + 256 * r)

/-- `n` sectors written from a 64-byte-aligned address. -/
def engWriteS (slot kh : Nat) : Nat → Nat → Nat → State → Except (Nat × Nat) State
  | 0, _, _, s => .ok s
  | n + 1, va, v, s =>
    match engStore s slot kh va 64 (v % 2 ^ 512) with
    | .error e => .error (e, va)
    | .ok t => engWriteS slot kh n ((va + 64) % 2 ^ 64) (v / 2 ^ 512) t

/-- Every sector of the range translates for the use and presents the page's handle (R250, R310): the checks alone. -/
def engCheck (s : State) (slot kh : Nat) (u : Use) : Nat → Nat → Except (Nat × Nat) Unit
  | 0, _ => .ok ()
  | n + 1, va =>
    match translate s slot va u with
    | .error e => .error (e, va)
    | .ok lf =>
      match keyFor s slot kh lf with
      | .error e => .error (e, va)
      | .ok _ => engCheck s slot kh u n ((va + 64) % 2 ^ 64)

/-- A launch request, when the 8-byte scalar store lies at a resident context's doorbell (R381). -/
def doorbell (s : State) (pa n v : Nat) : State :=
  if n ≠ 8 then s else
    s.ctxs.foldl (fun t p => match p.2 with
      | some c => if doorAt s p.1 c = some pa then askLaunch p.1 (.ofNat 64 v) t else t
      | none => t) s

end Sys2Proof.Machine
end

