-- ==== Sys2Proof/Machine/Ops.lean ====
section
/-! DEFINITION. What every bundle shares: issue with its stalls, traps and clocks (R50 to R57, R69), taking a trap and the
return from one (R57, R75, R393 to R395), asynchronous traps, the store buffer (R303), and the device steps that act on
the thread's pipeline. A slot's instruction is a `Sem`; `issue` runs the three of a bundle. -/
namespace Sys2Proof.Machine

/-- The state in which the slots of a bundle read their operands: every result that is due has landed (R54). -/
def atIssue (s : State) : State := withCore s (landTo s.core.ticks s.core)

/-- A trap of a bundle (R57, R394). -/
structure Trap where
  cause : Nat
  slot : Nat
  code : Nat
  tval : Word
  /-- the bundle's bits, for EMULATE -/
  bundle : Nat
  /-- entered through EVEC -/
  emu : Bool
deriving DecidableEq, Repr

/-- A trap with nothing but its cause, slot and TVAL. -/
def mkTrap (cause slot : Nat) (tval : Word) : Trap :=
  { cause := cause, slot := slot, code := 0, tval := tval, bundle := 0, emu := false }

def causeIllegal : Nat := 0x01
def causeSlotState : Nat := 0x0A
def causePoison : Nat := 0x11

/-- What a slot's instruction does at issue. -/
inductive SlotOut where
  /-- it takes effect; `target` is a taken transfer's target (R69) -/
  | done (s : State) (target : Option Word)
  /-- the bundle stalls whole (R52) -/
  | stall
  /-- the bundle stalls and the issue clock ticks (R75) -/
  | tickStall
  /-- a bundle-precise trap (R57) -/
  | trap (t : Trap)
  /-- the bundle completes and then traps (R74) -/
  | after (s : State) (t : Trap)
  /-- RFT returns from the handler (R75) -/
  | ret
  /-- a machine check: unit and place, and the address whose access failed (R396) -/
  | check (unit place : Nat) (va : Option Word)

/-- The meaning of a syllable: the scalar registers it reads or writes (R52), the vector and predicate registers it reads
(R91), the vector registers of which it reads slices 0 to 15 alone (R158), and its effect. `eff s0 s` reads operands from `s0`, the state at issue, and changes `s`, which holds the effects
of the slots before it. -/
structure Sem where
  uses : List (BitVec 5)
  vreads : List Nat
  preads : List Nat
  vhalf : List Nat := []
  eff : State → State → SlotOut

/-- A slot that does nothing. -/
def nopSem : Sem := { uses := [], vreads := [], preads := [], eff := fun _ s => .done s none }

/-- A physical register with wrong parity, in a lane that is in use, that a slot reads (R91): its place in MCLOG (R397). -/
def parityHit (c : Core) (a : Sem) : Option Nat :=
  (c.parityBad.find? (fun e => laneUsed c e.2.2 &&
    ((e.1 == 0 && ((a.vreads.map (physV c)).contains e.2.1 ||
        ((if e.2.2 = 32 then laneOf c.lanemap else e.2.2) < 16 && (a.vhalf.map (physV c)).contains e.2.1))) || (e.1 == 1 && (a.preads.map (physP c)).contains e.2.1)))).map
    (fun e => e.1 * 2 ^ 14 + e.2.1 * 2 ^ 8 + e.2.2)

/-- Effects of the three slots, in S, V, M order over one accumulated state. -/
def slot1 (a : Sem) (s0 : State) : SlotOut := a.eff s0 s0

/-- State that a slot leaves to the next one. -/
def SlotOut.state (o : SlotOut) (s : State) : State :=
  match o with
  | .done t _ => t
  | .after t _ => t
  | _ => s

def SlotOut.isStall : SlotOut → Bool | .stall => true | _ => false
def SlotOut.isTick : SlotOut → Bool | .tickStall => true | _ => false
def SlotOut.target : SlotOut → Option Word | .done _ t => t | _ => none

/-- The first of three outcomes that is not an effect, in S, V, M order (R13). -/
def firstBad (a b c : SlotOut) : Option SlotOut :=
  match a with
  | .done _ _ => match b with
    | .done _ _ => match c with
      | .done _ _ => none
      | o => some o
    | o => some o
  | o => some o

/-- The bytes of the trap record at a trap (R393), as a number. -/
def trapRecord (s : State) (epc tcause tval : Word) : Nat :=
  let rg := fun q => getRing s.core q
  let ptr := fun q => pack [(6, (rg q).rp), (2, 0), (6, (rg q).wp), (2, 0), (7, (rg q).occ), (9, 0)]
  let stopped := pack ((List.range 6).map fun q => (1, if (rg q).stopped then 1 else 0))
  pack ([(64, epc.toNat), (64, tcause.toNat), (64, tval.toNat), (64, gtimeOf s)] ++
    (List.range 6).map (fun q => (64, (rg q).rseq.toNat)) ++ (List.range 6).map (fun q => (32, ptr q)) ++
    [(8, stopped), (8, 0), (176, 0)])

/-- Virtual address of the core's trap record (R393). -/
def trapRecAddr (s : State) (c : Ctx) : Nat := c.trbase + 128 * posOf s s.coreNo

/-- A buffered store cannot be performed yet: a link of its route retrains, or its destination context is away (R352, R357). -/
def storeWaits (s : State) (slot : Nat) (e : StoreEntry) : Bool :=
  let p := paPkg e.pa
  reachable s p && (retrains s p || ((destSlot s slot p).isNone && !(doorFrames s).contains (e.pa / 65536 * 65536)))

/-- A buffered store is performed (R303): its bytes reach memory, and a doorbell sees it (R381). One whose route has lost a link
since it was issued is lost, and checkstops the core (R352, R396; log 88). -/
def performStore (slot : Nat) (e : StoreEntry) (s : State) : State :=
  match deadHop s 6 s.pkgNo.toNat (paPkg e.pa) with
  | some h => checkstop 6 h.2 s
  | none => doorbell (touchBank (storeNum s e.tol e.va e.pa e.size e.data) slot e.pa) e.pa e.size e.data

/-- Stored bytes of a buffered store: first physical byte and one past the last. -/
def sbRange (e : StoreEntry) : Nat × Nat :=
  if e.tol = 0 then (e.pa, e.pa + e.size)
  else (e.pa, e.pa + (e.va % tolA e.tol + e.size + tolA e.tol - 1) / tolA e.tol * tolD e.tol)

def overlap (a b : Nat × Nat) : Bool := decide (a.1 < b.2) && decide (b.1 < a.2)

/-- How many buffered stores, from the oldest on, must be performed for those that share a byte with a range (R296). -/
def sharing (rng : Nat × Nat) (s : State) : Nat :=
  s.core.sb.length - s.core.sb.reverse.findIdx fun e => overlap (sbRange e) rng

/-- The buffered stores that share a byte with a range are performed, and those before them (R296). -/
def drainFor (slot : Nat) (rng : Nat × Nat) (s : State) : State :=
  let n := sharing rng s
  let t := (s.core.sb.take n).foldl (fun t e => performStore slot e t) s
  withCore t { t.core with sb := s.core.sb.drop n }

/-- Physical bytes of the trap record, none where its page does not translate. -/
def trapRecRange (s : State) (slot va : Nat) : Nat × Nat :=
  match translate s slot va .write with
  | .ok lf => (physOf lf va, physOf lf va + 128)
  | .error _ => (0, 0)

/-- The trap record written, after the thread's earlier stores to its bytes, so that the handler observes every byte of it; a fault
when it cannot be written, or `codeRetry` while it must wait (R393). -/
def writeTrapRec (s : State) (epc tcause tval : Word) : Except Nat State :=
  match curSlot s, curCtx s with
  | some slot, some c =>
    let rng := trapRecRange s slot (trapRecAddr s c)
    let t := drainFor slot rng s
    if (s.core.sb.take (sharing rng s)).any (storeWaits s slot) then .error codeRetry
    else if t.core.checkstop then .error codeCheck
    else
      match engWriteS slot 0 2 (trapRecAddr s c) (trapRecord s epc tcause tval) t with
      | .ok u => .ok u
      | .error e => .error e.1
  | _, _ => .error codeNotPresent

/-- Landing-buffer entries of the results still in flight at tick `tn`, in landing order (R57, R58). -/
def captured (c : Core) (tn : Nat) : List LbEntry :=
  (sortLand (c.inflight.filter (fun f => decide (tn < f.land)))).map fun f =>
    { val := f.val,
      desc := .ofNat 64 (pack [(32, 0), (6, f.preg), (2, 0), (8, f.land - tn), (8, 0), (8, if f.kind = .vec then 1 else 2)]) }

/-- The core drains its pipeline for a trap or a pre-emption, steps 1 to 4 of R57: scalar writes complete, results due by
`tn` land, the others go to the landing buffer, and the issue clock stands at `tn`, each of its ticks having taken a cycle
(R50). The new image replaces the old one, so that it reads empty from LBCNT on; and LBCNT counts every entry, even more than
the 240 that R58 reckons with, which a handler's own entries could make (log 58). -/
def capture (tn : Nat) (s : State) : State :=
  let c := landTo tn s.core
  let l := captured s.core tn
  let due := s.core.pend.foldl (fun m e => Nat.max m e.2) s.core.cycle
  passCycles (Nat.max (due - s.core.cycle) (tn - s.core.ticks))
    { s with core := { c with inflight := [], pend := [], ticks := tn,
                              lb := (l.zipIdx.map fun p => (p.2, p.1)).filter (fun p => decide (p.2 ≠ LbEntry.empty)),
                              lbcnt := l.length } }

/-- TCAUSE of a trap (R63). -/
def tcauseOf (t : Trap) : Word := .ofNat 64 (pack [(8, t.cause), (3, t.slot), (5, 0), (13, t.code), (35, 0)])

/-- Taking a trap (R57, R393): the pipeline is captured at `tn`, the record written, EPC, TCAUSE, TVAL, TSTAT and TBUND
set, and the handler entered through TVEC or EVEC. A trap inside a handler is a double trap, and a record that cannot be
written a machine check: the core checkstops in `s` (R393, R396). While the record waits for a link, so does the thread (R352). -/
def takeTrap (t : Trap) (epc : Word) (tn : Nat) (s : State) : State :=
  if s.core.tstat.getLsbD 0 then checkstop 7 0 s else
    let s1 := capture tn s
    match writeTrapRec s1 epc (tcauseOf t) t.tval with
    | .error e => if e = codeRetry then passCycles 1 s else checkstop 7 0 s
    | .ok s2 =>
      let c := s2.core
      { s2 with core :=
          { c with
            epc := epc, tcause := tcauseOf t, tval := t.tval, tstat := if t.emu then 3 else 1,
            tbund0 := .ofNat 64 t.bundle, tbund1 := .ofNat 64 (t.bundle / 2 ^ 64),
            rings := c.rings.map (fun p => (p.1, if p.2.stopped then { p.2 with reported := true } else p.2)),
            pc := (if t.emu then c.evec else c.tvec) &&& 0xFFFFFFFFFFFFFFF0 } }

/-- A stalled cycle: nothing issues and the issue clock stands (R50, R52). -/
def stallCycle (s : State) : State := passCycles 1 s

/-- Ticks from a bundle with idle count `n` to the next one (R51). -/
def ticksAfter (n : Nat) (taken : Bool) : Nat := 1 + if taken then Nat.max n 2 else n

/-- A bundle retires: the clocks move and the pc follows (R51, R69). -/
def retire (idle : Nat) (target : Option Word) (s : State) : State :=
  let n := ticksAfter idle target.isSome
  passCycles n { s with core := { s.core with pc := target.getD (s.core.pc + 16), ticks := s.core.ticks + n } }

/-- Buffered store `n` may drain now: no older one shares a byte with it, and S-kind stores keep their order (R296, R297). -/
def canDrain (l : List StoreEntry) (n : Nat) : Bool :=
  match l[n]? with
  | none => false
  | some e => !(l.take n).any (fun o => overlap (sbRange o) (sbRange e) || (o.kind == 0 && e.kind == 0))

/-- Buffered store `n` drains, when it may. -/
def drainOne (n : Nat) (s : State) : State :=
  match s.core.sb[n]?, curSlot s with
  | some e, some slot =>
    if canDrain s.core.sb n && !storeWaits s slot e then
      let t := performStore slot e s
      { t with core := { t.core with sb := t.core.sb.eraseIdx n } }
    else s
  | _, _ => s

/-- Every buffered store drains, oldest first, also while the context is being stopped (R386). -/
def drainAll (s : State) : State :=
  match engSlot s with
  | none => s
  | some slot =>
    let t := s.core.sb.foldl (fun t e => performStore slot e t) s
    { t with core := { t.core with sb := [] } }

/-- A buffered store of the core waits for a link or for a destination context, and what performs the whole buffer with it (R352,
R357). -/
def drainWaits (s : State) : Bool :=
  match engSlot s with
  | none => false
  | some slot => s.core.sb.any (storeWaits s slot)

/-- Of buffered stores, oldest first, those that a release performs and those that it leaves (R297): no U-kind store, unless
one that is performed after it, or a range in `own`, shares a byte with it (R296). -/
def releaseSplit (own : List (Nat × Nat)) : List StoreEntry → List StoreEntry × List StoreEntry × List (Nat × Nat)
  | [] => ([], [], own)
  | e :: r =>
    let q := releaseSplit own r
    if e.kind ≠ 2 ∨ q.2.2.any (overlap (sbRange e)) then (e :: q.1, q.2.1, sbRange e :: q.2.2) else (q.1, e :: q.2.1, q.2.2)

/-- A release of the thread that writes the ranges `own` (R297): the first `n` buffered stores, which earlier bundles left, are
performed before what follows, but for U-kind ones (log 12). -/
def release (n : Nat) (own : List (Nat × Nat)) (s : State) : State :=
  match curSlot s with
  | none => s
  | some slot =>
    let q := releaseSplit own (s.core.sb.take n)
    let t := q.1.foldl (fun t e => performStore slot e t) s
    { t with core := { t.core with sb := q.2.1 ++ s.core.sb.drop n } }

/-- A release of the buffered stores waits for one that it would perform: the bundle stalls (R52, R352, R357). -/
def releaseWaits (own : List (Nat × Nat)) (s : State) : Bool :=
  match curSlot s with
  | none => false
  | some slot => (releaseSplit own s.core.sb).1.any (storeWaits s slot)

/-- A release in the M slot of a bundle that issued in `s0`: it orders nothing of its own bundle (R297). -/
def releaseM (s0 s : State) : State := release (Nat.min s0.core.sb.length s.core.sb.length) [] s

/-- A landing-buffer entry in flight again, none when its KIND is neither 1 nor 2 (R75). -/
def reinstate (tick : Nat) (e : LbEntry) : Option Inflight :=
  let d := e.desc.toNat
  let rem := Nat.max 1 (Nat.min 16 (bits d 47 40))
  match bits d 63 56 with
  | 1 => some { land := tick + rem, kind := .vec, preg := bits d 37 32, val := e.val }
  | 2 => some { land := tick + rem, kind := .prd, preg := bits d 37 32 % 16, val := e.val }
  | _ => none

/-- STOPPED and HOLD bits of the core's trap record (R395): a machine check or a wait of the read, and no bits where the record's
page does not translate. -/
def holdBits (s : State) : Except Nat (Nat × Nat) :=
  match curSlot s, curCtx s with
  | some slot, some c =>
    match engLoad s slot 0 ((trapRecAddr s c + 104) % 2 ^ 64) 2 with
    | .ok x => .ok (x % 256, x / 256)
    | .error e => if e = codeRetry ∨ e = codeCheck then .error e else .ok (0, 0)
  | _, _ => .ok (0, 0)

/-- RFT's read of the record reaches its bank (R263). -/
def holdTouch (s : State) : State :=
  match curSlot s, curCtx s with
  | some slot, some c => touchVa slot ((trapRecAddr s c + 104) % 2 ^ 64) s
  | _, _ => s

/-- RFT cannot read the record: it waits for a link, or the core checkstops (R352, R396). -/
def holdFault (e : Nat) (s : State) : State :=
  if e = codeRetry then passCycles 1 s
  else
    match curSlot s, curCtx s with
    | some slot, some c =>
      let va := (trapRecAddr s c + 104) % 2 ^ 64
      let p := checkPlace s slot va 2
      checkAt slot va p.1 p.2 s
    | _, _ => s

/-- A stopped ring runs again: the entry at its head executes from the start (R35), and what has begun behind it stays as it
is (log 26). -/
def restartRing (c : Core) (q : Nat) : Core :=
  let r := getRing c q
  setRing c q { r with stopped := false, reported := false,
                       taken := if r.results.length < 2 then none else r.taken,
                       results := match r.results with | x :: y :: l => { x with redo := true } :: y :: l | _ => [] }

/-- Rings whose STOPPED bit is 1 and whose HOLD bit is 0 restart (R395). -/
def restartRings (st : Nat) (hold : Nat) (c : Core) : Core :=
  (List.range 6).foldl (fun c q => if st.testBit q && !hold.testBit q && (getRing c q).stopped then restartRing c q else c) c

/-- The return from a trap (R75, R395), once no exposed result of the handler is in flight: the landing buffer is
reinstated from the tick at which the return bundle issues, LBCNT and TSTAT are cleared, rings restart, and the thread
continues at EPC. The handler's stores are performed first, and while one of them waits, so does the bundle (R352, R357); RFT
itself takes one tick and its idle count. The entries of the image stay readable at and above LBCNT (log 58). -/
def returnFromTrap (idle : Nat) (s0 : State) : State :=
  let s1 := drainAll s0
  if drainWaits s0 then stallCycle s0
  else if s1.core.checkstop then s1
  else
    match holdBits s1 with
    | .error e => holdFault e s1
    | .ok h =>
      let s := holdTouch s1
      let n := ticksAfter idle false
      let tick := s.core.ticks + n
      let l := (List.range s.core.lbcnt).filterMap (fun j => reinstate tick (Sparse.get LbEntry.empty s.core.lb j))
      let c := restartRings h.1 h.2 s.core
      passCycles n { s with core :=
        { c with inflight := l, lbcnt := 0, tstat := 0, ticks := tick, pc := c.epc &&& 0xFFFFFFFFFFFFFFF0 } }

/-- The table entries that a faulting access of the S slot has read were accesses to their banks (R263). -/
def trapTouch (t : Trap) (s : State) : State :=
  if t.slot = 1 ∧ [codeNotPresent, codeProt, codeVbus, codeBank].contains t.cause then
    (match curSlot s with | some slot => touchWalk s slot t.tval.toNat | none => s)
  else s

/-- A bundle's machine check (R396, R397): that of an access has reached its banks (R263). -/
def scalarCheck (unit place : Nat) (va : Option Word) (s : State) : State :=
  match va, curSlot s with
  | some a, some slot => checkAt slot a.toNat unit place (touchVa slot a.toNat s)
  | _, _ => checkstop unit place s

/-- The outcome of a bundle whose slots answer `oa`, `ob`, `oc` (R13, R52, R57, R74). -/
def finish (idle : Nat) (oa ob oc : SlotOut) (s0 s3 : State) : State :=
  if oa.isTick then
    passCycles 1 { s0 with core := { s0.core with ticks := s0.core.ticks + 1 } }
  else if oa.isStall || ob.isStall || oc.isStall then stallCycle s0
  else
    match firstBad oa ob oc with
    | some (.trap t) => takeTrap t s0.core.pc s0.core.ticks (trapTouch t s0)
    | some (.after s t) => takeTrap t (s0.core.pc + 16) (s0.core.ticks + ticksAfter idle false) s
    | some .ret => returnFromTrap idle s0
    | some (.check u p va) => scalarCheck u p va s0
    | some (.done _ _) => s0
    | some .stall => stallCycle s0
    | some .tickStall => s0
    | none => retire idle oa.target s3

/-- Issue of a bundle (R13, R50 to R54): results due have landed; a pending scalar write of a used register stalls; a
parity error checkstops; else the slots run and the bundle retires, stalls or traps whole. A core that does not run
issues nothing. -/
def issue (idle : Nat) (a b c : Sem) (s : State) : State :=
  if !running s then s else
    let s0 := atIssue s
    if (a.uses ++ b.uses ++ c.uses).any (pending s0.core) then stallCycle s0
    else
      match parityHit s0.core a, parityHit s0.core b, parityHit s0.core c with
      | some p, _, _ => checkstop 0 p s0
      | none, some p, _ => checkstop 0 p s0
      | none, none, some p => checkstop 0 p s0
      | none, none, none =>
        let oa := a.eff s0 s0
        let s1 := oa.state s0
        let ob := b.eff s0 s1
        let s2 := ob.state s1
        let oc := c.eff s0 s2
        finish idle oa ob oc s0 (oc.state s2)

/-- A bundle that holds one S syllable. -/
def issueS (idle : BitVec 3) (a : Sem) (s : State) : State := issue idle.toNat a nopSem nopSem s
/-- A bundle that holds one V syllable. -/
def issueV (b : Sem) (s : State) : State := issue 0 nopSem b nopSem s
/-- A bundle that holds one M syllable. -/
def issueM (c : Sem) (s : State) : State := issue 0 nopSem nopSem c s

/-- A trap without an issued bundle: a decode fault or a fetch fault at `epc` (R13, R69). -/
def trapNow (t : Trap) (epc : Word) (s : State) : State :=
  if !running s then s else
    let s0 := atIssue s
    takeTrap t epc s0.core.ticks s0

/-- The pending asynchronous trap that is taken next, ABORT before a ring stop (R394). -/
def asyncPending (s : State) : Option Trap :=
  if s.core.tstat.getLsbD 0 || s.core.halted then none else
    match s.core.abortPend with
    | v :: _ => some (mkTrap 0x0B 0 v)
    | [] =>
      match (List.range 6).find? (fun q => (getRing s.core q).stopped && !(getRing s.core q).reported) with
      | none => none
      | some _ =>
        match (List.range 6).find? (fun q => (getRing s.core q).stopped) with
        | none => none
        | some q =>
          let r := getRing s.core q
          let emu := match r.results with | x :: _ => x.code == 2 | [] => false
          some { cause := 0x12, slot := 0, code := 0, bundle := 0, emu := emu,
                 tval := .ofNat 64 (q * 2 ^ 56 + r.rseq.toNat % 2 ^ 56) }

/-- The asynchronous trap taken at a bundle boundary; nothing without one (R394). -/
def takeAsync (s : State) : State :=
  if !running s then s else
    match asyncPending s with
    | none => s
    | some t =>
      let s0 := atIssue s
      let u := takeTrap t s0.core.pc s0.core.ticks s0
      if t.cause = 0x0B ∧ u.core.tstat.getLsbD 0 then withCore u { u.core with abortPend := u.core.abortPend.drop 1 } else u

/-- The constant path forgets what it holds (R306). -/
def emptyCpath (s : State) : State := { s with core := { s.core with cpath := [] } }

end Sys2Proof.Machine
end

