-- ==== Sys2Proof/Machine/Operands.lean ====
section
/-! DEFINITION. Operand forms of the V and M slots: elements with their poison (R79, R87), predication and merging (R82,
R83), group placement (R86), predicate sources and results (R84), and addresses of scratchpad rows (R163, R166). -/
namespace Sys2Proof.Machine

/-- An element: bits and poison. -/
structure El where
  x : Nat
  z : Bool
deriving DecidableEq, Repr

def El.zero : El := { x := 0, z := false }

/-- Elements of `b` bits of a register as they stand, the poison of each that of its lowest nibble (R87). -/
def rawEls (b : Nat) (r : VReg) : List El :=
  List.zipWith (fun x z => { x := x, z := z % 2 == 1 }) (splitEls b (4096 / b) r.bits.toNat)
    (splitEls (b / 4) (4096 / b) r.pz.toNat)

/-- Elements of a conversion format as an instruction reads them: six-bit formats ignore bits [7:6] (R79, R132). -/
def elsF (f : Nat) (r : VReg) : List El :=
  if f = 15 ∨ f = 16 then (rawEls 8 r).map (fun e => { e with x := e.x % 64 }) else rawEls (cvtBits f) r

/-- A register of elements; an element's poison fills its nibbles (R87). -/
def ofEls (b : Nat) (l : List El) : VReg :=
  { bits := .ofNat 4096 (joinEls b (l.map (·.x))),
    pz := .ofNat 1024 (joinEls (b / 4) (l.map fun e => if e.z then 2 ^ (b / 4) - 1 else 0)) }

/-- Elements of each register of a group. -/
def grpEls (c : Core) (f : Nat) (g : BitVec 8) : List (List El) := (rdGroup c (grpN g) (grpW g)).map (elsF f)

/-- Elements of a group flattened. -/
def flatEls (c : Core) (f : Nat) (g : BitVec 8) : List El := (grpEls c f g).flatten

/-- Elements of the register that a width-1 field names. -/
def oneEls (c : Core) (f : Nat) (g : BitVec 8) : List El := elsF f (rdV c (grpN g))

/-- Logical registers of a group, for parity (R91). -/
def grpRegs (g : BitVec 8) : List Nat := (List.range (grpW g)).map (· + grpN g)

/-- A list cut into pieces of length `n`, `k` of them. -/
def chunks {α : Type} (n : Nat) : Nat → List α → List (List α)
  | 0, _ => []
  | k + 1, l => l.take n :: chunks n k (l.drop n)

/-- A register whose elements of `b` bits are the new ones where the list says so; the others stand as they were, bits and
poison (R83, R87). -/
def mergeReg (b : Nat) (as : List Bool) (old : VReg) (new : List El) : VReg :=
  let v := ofEls b new
  let pick := fun (k o n : Nat) => joinEls k
    (List.zipWith (fun (a : Bool) (x : Nat × Nat) => if a then x.2 else x.1) as ((splitEls k (4096 / b) o).zip (splitEls k (4096 / b) n)))
  { bits := .ofNat 4096 (pick b old.bits.toNat v.bits.toNat), pz := .ofNat 1024 (pick (b / 4) old.pz.toNat v.pz.toNat) }

/-- A destination group under predication: merged with what it held at issue, in flight for `lat` ticks (R54, R83). -/
def putV (s0 : State) (c : Core) (lat b : Nat) (p : BitVec 4) (d : BitVec 8) (news : List (List El)) : Core :=
  launchV s0.core c lat (grpN d)
    (List.zipWith (fun old new => mergeReg b ((List.range (4096 / b)).map (pbit (rdP s0.core p))) old new)
      (rdGroup s0.core (grpN d) (grpW d)) news)

/-- A destination group written whole. -/
def putWhole (s0 : State) (c : Core) (lat b : Nat) (d : BitVec 8) (news : List (List El)) : Core :=
  launchV s0.core c lat (grpN d) (news.map (ofEls b))

/-- A result element with its source poison. -/
def resEl (z : Bool) (r : FRes) : El := { x := r.1, z := z || r.2.1 }

/-- Flags of the active positions of one register (R143). -/
def actFlags (p : PredBits) (l : List FRes) : Nat :=
  (l.zipIdx).foldl (fun a q => if pbit p q.2 then a ||| q.1.2.2 else a) 0

/-- Elements of a list at active positions, with position. -/
def activeOf {α : Type} (p : PredBits) (l : List α) : List α :=
  (l.zipIdx).filterMap fun q => if pbit p q.2 then some q.1 else none

/-- A predicate from bits, the first in bit 0. -/
def ofBits (l : List Bool) : PredBits := .ofNat 1024 (joinEls 1 (l.map fun b => if b then 1 else 0))

/-- Inverse of widening placement (R86): position i of source k from wide register 2k + (i mod 2), position i div 2. -/
def deinterleave (r : Nat) (l : List (List El)) : List El :=
  let n := (l.headD []).length
  (List.range (n * r)).map fun i => (l.getD (i % r) []).getD (i / r) El.zero

/-- Widening placement (R86): of the elements of one source register, those of wide register `h` of `r`. -/
def interleave {α : Type} (r h : Nat) (l : List α) : List α :=
  (l.zipIdx).filterMap fun q => if q.2 % r = h then some q.1 else none

/-- Address of the row instructions: a + 512·sext(IMM16) (R166). -/
def rowAddr (a : Word) (imm : BitVec 16) : Word := a + 512 * imm.signExtend 64

/-- Rows of a row address, or PAGE_PROT when one lies outside the scratchpad (R163, R166): TVAL is the byte offset of the first
row that does, the instruction's own where its first row does (log 60). -/
def rowRange (ea : Word) (w : Nat) : Except Trap (List Nat) :=
  if 0x300000 ≤ ea.toNat then .error (mkTrap codeProt 3 ea)
  else if 6144 < ea.toNat / 512 + w then .error (mkTrap codeProt 3 (ea + .ofNat 64 (512 * (6144 - ea.toNat / 512))))
  else .ok ((List.range w).map (· + ea.toNat / 512))

/-- Poison bits of the uncorrectable words of a row: 16 nibble bits for each (R181). -/
def badRowPz (c : Core) (row : Nat) : PredBits :=
  c.badRows.foldl (fun p e => if e.1 = row then p ||| (BitVec.ofNat 1024 0xFFFF <<< (16 * e.2)) else p) 0

/-- A row read by the core: its bytes, poisoned where a word is uncorrectable (R167, R181). -/
def loadRow (c : Core) (row : Nat) : VReg := { bits := getRow c row, pz := badRowPz c row }

/-- Uncorrectable words that a row read meets, logged (R181): all of the row, whichever of its bytes a VGATHER takes (log 84). -/
def logBadRows (s : State) (rows : List Nat) : State :=
  s.core.badRows.foldl (fun t e =>
    if rows.contains e.1 then
      logMc t (mcEntry 2 1 s.coreNo ((curSlot s).getD 0) (e.1 * 2 ^ 16 + e.2))
    else t) s

/-- Words of a row that a masked write covers whole become correct (R181). -/
def healRows (c : Core) (row : Nat) (mask : List Bool) : List (Nat × Nat) :=
  c.badRows.filter fun e => !(decide (e.1 = row) && ((mask.drop (8 * e.2)).take 8).all id)

/-- A masked row write (R164). -/
def writeRow (c : Core) (row : Nat) (v : Row) (mask : List Bool) : Core :=
  { c with rows := Sparse.set 0 c.rows row (maskRow (getRow c row) v mask), badRows := healRows c row mask }

/-- A whole row written. -/
def writeRowFull (c : Core) (row : Nat) (v : Row) : Core :=
  { c with rows := Sparse.set 0 c.rows row v, badRows := c.badRows.filter (fun e => decide (e.1 ≠ row)) }

end Sys2Proof.Machine
end

