-- ==== Sys2Proof/Machine/Scalar.lean ====
section
/-! DEFINITION. The scalar instructions without memory: the register group, immediates, bit fields, constants and control
transfers (R64 to R70). -/
namespace Sys2Proof.Machine

/-- A one-result instruction: uses of the sources and the destination, latency, and the value from the state at issue. -/
def aluSem (uses : List (BitVec 5)) (lat : Nat) (d : BitVec 5) (f : Core → Word) : Sem :=
  { uses := d :: uses, vreads := [], preads := [],
    eff := fun s0 s => .done { s with core := wrSL s.core lat d (f s0.core) } none }

/-- Sd ← f(a, b), latency 1 (R65). -/
def alu2 (d a b : BitVec 5) (f : Word → Word → Word) : Sem := aluSem [a, b] 1 d (fun c => f (rdS c a) (rdS c b))
/-- Sd ← f(a, b) with a latency of its own. -/
def alu2L (lat : Nat) (d a b : BitVec 5) (f : Word → Word → Word) : Sem :=
  aluSem [a, b] lat d (fun c => f (rdS c a) (rdS c b))
/-- Sd ← f(a), latency 1. -/
def alu1 (d a : BitVec 5) (f : Word → Word) : Sem := aluSem [a] 1 d (fun c => f (rdS c a))

/-- sext(IMM13, 13) modulo 2^64 (R15). -/
def sext13 (m : BitVec 13) : Word := m.signExtend 64

/-- A condition as a result. -/
def b2w (b : Bool) : Word := if b then 1 else 0

/-- DIV of R65: −1 for a zero divisor, −2^63 for the overflow. -/
def sdivW (a b : Word) : Word := if b = 0 then BitVec.allOnes 64 else BitVec.ofInt 64 (a.toInt.tdiv b.toInt)
/-- REM of R65. -/
def sremW (a b : Word) : Word := if b = 0 then a else BitVec.ofInt 64 (a.toInt - b.toInt * a.toInt.tdiv b.toInt)
/-- DIVU of R65. -/
def udivW (a b : Word) : Word := if b = 0 then BitVec.allOnes 64 else a / b
/-- REMU of R65. -/
def uremW (a b : Word) : Word := if b = 0 then a else a % b
/-- Count of leading zero bits, 64 for 0. -/
def clzW (a : Word) : Word := if a = 0 then 64 else .ofNat 64 (63 - a.toNat.log2)
/-- Count of trailing zero bits, 64 for 0. -/
def ctzW (a : Word) : Word := .ofNat 64 (lowestOne 64 a.toNat)
/-- Count of one bits. -/
def popcW (a : Word) : Word := .ofNat 64 (popcount 64 a.toNat)
/-- EXTU of R67: width w + 1 bits from position p. -/
def extuW (a : Word) (p w : Nat) : Word := .ofNat 64 (bits a.toNat (p + w) p)
/-- EXTS of R67. -/
def extsW (a : Word) (p w : Nat) : Word := BitVec.ofInt 64 (signed (w + 1) (bits a.toNat (p + w) p))
/-- INS of R67. -/
def insW (d a : Word) (p w : Nat) : Word :=
  let m : Word := .ofNat 64 ((2 ^ (w + 1) - 1) * 2 ^ p)
  (d &&& ~~~m) ||| ((a <<< p) &&& m)

/-- Target of a pc-relative transfer: pc + 16·off (R15, R69). -/
def relTarget (pc : Word) (off : BitVec 18) : Word := pc + 16 * off.signExtend 64

/-- A conditional branch (R69). -/
def brSem (a : BitVec 5) (off : BitVec 18) (f : Word → Bool) : Sem :=
  { uses := [a], vreads := [], preads := [],
    eff := fun s0 s => .done s (if f (rdS s0.core a) then some (relTarget s0.core.pc off) else none) }

/-- A jump through a register with its link, ILLEGAL with TVAL a when the target is no multiple of 16 (R69). -/
def jumpSem (link : Option (BitVec 5)) (a : BitVec 5) : Sem :=
  { uses := a :: link.toList, vreads := [], preads := [],
    eff := fun s0 s =>
      let t := rdS s0.core a
      if t.toNat % 16 ≠ 0 then .trap (mkTrap causeIllegal 1 t)
      else .done (match link with
        | some d => { s with core := wrSL s.core 1 d (s0.core.pc + 16) }
        | none => s) (some t) }

/-- NOP (R64) has no effect; its idle count delays the next bundle (R14). -/
def semNop : Sem :=
  nopSem
/-- NOP: a bundle that holds it. -/
def execNop (idle : BitVec 3) (s : State) : Host.Outcome State Fault Refusal :=
  .next (issueS idle semNop s)

/-- ADD (R65). -/
def semAdd (d : BitVec 5) (a : BitVec 5) (b : BitVec 5) : Sem :=
  alu2 d a b (fun x y => x + y)
/-- ADD: a bundle that holds it. -/
def execAdd (idle : BitVec 3) (d : BitVec 5) (a : BitVec 5) (b : BitVec 5) (s : State) : Host.Outcome State Fault Refusal :=
  .next (issueS idle (semAdd d a b) s)

/-- SUB (R65). -/
def semSub (d : BitVec 5) (a : BitVec 5) (b : BitVec 5) : Sem :=
  alu2 d a b (fun x y => x - y)
/-- SUB: a bundle that holds it. -/
def execSub (idle : BitVec 3) (d : BitVec 5) (a : BitVec 5) (b : BitVec 5) (s : State) : Host.Outcome State Fault Refusal :=
  .next (issueS idle (semSub d a b) s)

/-- AND (R65). -/
def semAnd (d : BitVec 5) (a : BitVec 5) (b : BitVec 5) : Sem :=
  alu2 d a b (fun x y => x &&& y)
/-- AND: a bundle that holds it. -/
def execAnd (idle : BitVec 3) (d : BitVec 5) (a : BitVec 5) (b : BitVec 5) (s : State) : Host.Outcome State Fault Refusal :=
  .next (issueS idle (semAnd d a b) s)

/-- OR (R65). -/
def semOr (d : BitVec 5) (a : BitVec 5) (b : BitVec 5) : Sem :=
  alu2 d a b (fun x y => x ||| y)
/-- OR: a bundle that holds it. -/
def execOr (idle : BitVec 3) (d : BitVec 5) (a : BitVec 5) (b : BitVec 5) (s : State) : Host.Outcome State Fault Refusal :=
  .next (issueS idle (semOr d a b) s)

/-- XOR (R65). -/
def semXor (d : BitVec 5) (a : BitVec 5) (b : BitVec 5) : Sem :=
  alu2 d a b (fun x y => x ^^^ y)
/-- XOR: a bundle that holds it. -/
def execXor (idle : BitVec 3) (d : BitVec 5) (a : BitVec 5) (b : BitVec 5) (s : State) : Host.Outcome State Fault Refusal :=
  .next (issueS idle (semXor d a b) s)

/-- ANDN (R65): a AND NOT b. -/
def semAndn (d : BitVec 5) (a : BitVec 5) (b : BitVec 5) : Sem :=
  alu2 d a b (fun x y => x &&& ~~~y)
/-- ANDN: a bundle that holds it. -/
def execAndn (idle : BitVec 3) (d : BitVec 5) (a : BitVec 5) (b : BitVec 5) (s : State) : Host.Outcome State Fault Refusal :=
  .next (issueS idle (semAndn d a b) s)

/-- SHL (R65): by bits [5:0] of b. -/
def semShl (d : BitVec 5) (a : BitVec 5) (b : BitVec 5) : Sem :=
  alu2 d a b (fun x y => x <<< (y.toNat % 64))
/-- SHL: a bundle that holds it. -/
def execShl (idle : BitVec 3) (d : BitVec 5) (a : BitVec 5) (b : BitVec 5) (s : State) : Host.Outcome State Fault Refusal :=
  .next (issueS idle (semShl d a b) s)

/-- SHR (R65): by bits [5:0] of b. -/
def semShr (d : BitVec 5) (a : BitVec 5) (b : BitVec 5) : Sem :=
  alu2 d a b (fun x y => x >>> (y.toNat % 64))
/-- SHR: a bundle that holds it. -/
def execShr (idle : BitVec 3) (d : BitVec 5) (a : BitVec 5) (b : BitVec 5) (s : State) : Host.Outcome State Fault Refusal :=
  .next (issueS idle (semShr d a b) s)

/-- SRA (R65): by bits [5:0] of b. -/
def semSra (d : BitVec 5) (a : BitVec 5) (b : BitVec 5) : Sem :=
  alu2 d a b (fun x y => x.sshiftRight (y.toNat % 64))
/-- SRA: a bundle that holds it. -/
def execSra (idle : BitVec 3) (d : BitVec 5) (a : BitVec 5) (b : BitVec 5) (s : State) : Host.Outcome State Fault Refusal :=
  .next (issueS idle (semSra d a b) s)

/-- MIN (R65), signed. -/
def semMin (d : BitVec 5) (a : BitVec 5) (b : BitVec 5) : Sem :=
  alu2 d a b (fun x y => if x.slt y then x else y)
/-- MIN: a bundle that holds it. -/
def execMin (idle : BitVec 3) (d : BitVec 5) (a : BitVec 5) (b : BitVec 5) (s : State) : Host.Outcome State Fault Refusal :=
  .next (issueS idle (semMin d a b) s)

/-- MAX (R65), signed. -/
def semMax (d : BitVec 5) (a : BitVec 5) (b : BitVec 5) : Sem :=
  alu2 d a b (fun x y => if x.slt y then y else x)
/-- MAX: a bundle that holds it. -/
def execMax (idle : BitVec 3) (d : BitVec 5) (a : BitVec 5) (b : BitVec 5) (s : State) : Host.Outcome State Fault Refusal :=
  .next (issueS idle (semMax d a b) s)

/-- MINU (R65), unsigned. -/
def semMinu (d : BitVec 5) (a : BitVec 5) (b : BitVec 5) : Sem :=
  alu2 d a b (fun x y => if x.ult y then x else y)
/-- MINU: a bundle that holds it. -/
def execMinu (idle : BitVec 3) (d : BitVec 5) (a : BitVec 5) (b : BitVec 5) (s : State) : Host.Outcome State Fault Refusal :=
  .next (issueS idle (semMinu d a b) s)

/-- MAXU (R65), unsigned. -/
def semMaxu (d : BitVec 5) (a : BitVec 5) (b : BitVec 5) : Sem :=
  alu2 d a b (fun x y => if x.ult y then y else x)
/-- MAXU: a bundle that holds it. -/
def execMaxu (idle : BitVec 3) (d : BitVec 5) (a : BitVec 5) (b : BitVec 5) (s : State) : Host.Outcome State Fault Refusal :=
  .next (issueS idle (semMaxu d a b) s)

/-- SEQ (R65). -/
def semSeq (d : BitVec 5) (a : BitVec 5) (b : BitVec 5) : Sem :=
  alu2 d a b (fun x y => b2w (x == y))
/-- SEQ: a bundle that holds it. -/
def execSeq (idle : BitVec 3) (d : BitVec 5) (a : BitVec 5) (b : BitVec 5) (s : State) : Host.Outcome State Fault Refusal :=
  .next (issueS idle (semSeq d a b) s)

/-- SNE (R65). -/
def semSne (d : BitVec 5) (a : BitVec 5) (b : BitVec 5) : Sem :=
  alu2 d a b (fun x y => b2w (x != y))
/-- SNE: a bundle that holds it. -/
def execSne (idle : BitVec 3) (d : BitVec 5) (a : BitVec 5) (b : BitVec 5) (s : State) : Host.Outcome State Fault Refusal :=
  .next (issueS idle (semSne d a b) s)

/-- SLT (R65), signed. -/
def semSlt (d : BitVec 5) (a : BitVec 5) (b : BitVec 5) : Sem :=
  alu2 d a b (fun x y => b2w (x.slt y))
/-- SLT: a bundle that holds it. -/
def execSlt (idle : BitVec 3) (d : BitVec 5) (a : BitVec 5) (b : BitVec 5) (s : State) : Host.Outcome State Fault Refusal :=
  .next (issueS idle (semSlt d a b) s)

/-- SLTU (R65), unsigned. -/
def semSltu (d : BitVec 5) (a : BitVec 5) (b : BitVec 5) : Sem :=
  alu2 d a b (fun x y => b2w (x.ult y))
/-- SLTU: a bundle that holds it. -/
def execSltu (idle : BitVec 3) (d : BitVec 5) (a : BitVec 5) (b : BitVec 5) (s : State) : Host.Outcome State Fault Refusal :=
  .next (issueS idle (semSltu d a b) s)

/-- SLE (R65), signed. -/
def semSle (d : BitVec 5) (a : BitVec 5) (b : BitVec 5) : Sem :=
  alu2 d a b (fun x y => b2w (x.sle y))
/-- SLE: a bundle that holds it. -/
def execSle (idle : BitVec 3) (d : BitVec 5) (a : BitVec 5) (b : BitVec 5) (s : State) : Host.Outcome State Fault Refusal :=
  .next (issueS idle (semSle d a b) s)

/-- SLEU (R65), unsigned. -/
def semSleu (d : BitVec 5) (a : BitVec 5) (b : BitVec 5) : Sem :=
  alu2 d a b (fun x y => b2w (x.ule y))
/-- SLEU: a bundle that holds it. -/
def execSleu (idle : BitVec 3) (d : BitVec 5) (a : BitVec 5) (b : BitVec 5) (s : State) : Host.Outcome State Fault Refusal :=
  .next (issueS idle (semSleu d a b) s)

/-- MUL (R65): bits [63:0] of the product; latency 3 (R55). -/
def semMul (d : BitVec 5) (a : BitVec 5) (b : BitVec 5) : Sem :=
  alu2L 3 d a b (fun x y => x * y)
/-- MUL: a bundle that holds it. -/
def execMul (idle : BitVec 3) (d : BitVec 5) (a : BitVec 5) (b : BitVec 5) (s : State) : Host.Outcome State Fault Refusal :=
  .next (issueS idle (semMul d a b) s)

/-- MULH (R65): bits [127:64] of the signed product. -/
def semMulh (d : BitVec 5) (a : BitVec 5) (b : BitVec 5) : Sem :=
  alu2L 3 d a b (fun x y => BitVec.ofInt 64 (x.toInt * y.toInt / 2 ^ 64))
/-- MULH: a bundle that holds it. -/
def execMulh (idle : BitVec 3) (d : BitVec 5) (a : BitVec 5) (b : BitVec 5) (s : State) : Host.Outcome State Fault Refusal :=
  .next (issueS idle (semMulh d a b) s)

/-- MULHU (R65): bits [127:64] of the unsigned product. -/
def semMulhu (d : BitVec 5) (a : BitVec 5) (b : BitVec 5) : Sem :=
  alu2L 3 d a b (fun x y => .ofNat 64 (x.toNat * y.toNat / 2 ^ 64))
/-- MULHU: a bundle that holds it. -/
def execMulhu (idle : BitVec 3) (d : BitVec 5) (a : BitVec 5) (b : BitVec 5) (s : State) : Host.Outcome State Fault Refusal :=
  .next (issueS idle (semMulhu d a b) s)

/-- DIV (R65); latency 20 (R55). -/
def semDiv (d : BitVec 5) (a : BitVec 5) (b : BitVec 5) : Sem :=
  alu2L 20 d a b sdivW
/-- DIV: a bundle that holds it. -/
def execDiv (idle : BitVec 3) (d : BitVec 5) (a : BitVec 5) (b : BitVec 5) (s : State) : Host.Outcome State Fault Refusal :=
  .next (issueS idle (semDiv d a b) s)

/-- DIVU (R65). -/
def semDivu (d : BitVec 5) (a : BitVec 5) (b : BitVec 5) : Sem :=
  alu2L 20 d a b udivW
/-- DIVU: a bundle that holds it. -/
def execDivu (idle : BitVec 3) (d : BitVec 5) (a : BitVec 5) (b : BitVec 5) (s : State) : Host.Outcome State Fault Refusal :=
  .next (issueS idle (semDivu d a b) s)

/-- REM (R65). -/
def semRem (d : BitVec 5) (a : BitVec 5) (b : BitVec 5) : Sem :=
  alu2L 20 d a b sremW
/-- REM: a bundle that holds it. -/
def execRem (idle : BitVec 3) (d : BitVec 5) (a : BitVec 5) (b : BitVec 5) (s : State) : Host.Outcome State Fault Refusal :=
  .next (issueS idle (semRem d a b) s)

/-- REMU (R65). -/
def semRemu (d : BitVec 5) (a : BitVec 5) (b : BitVec 5) : Sem :=
  alu2L 20 d a b uremW
/-- REMU: a bundle that holds it. -/
def execRemu (idle : BitVec 3) (d : BitVec 5) (a : BitVec 5) (b : BitVec 5) (s : State) : Host.Outcome State Fault Refusal :=
  .next (issueS idle (semRemu d a b) s)

/-- CLZ (R65). -/
def semClz (d : BitVec 5) (a : BitVec 5) : Sem :=
  alu1 d a clzW
/-- CLZ: a bundle that holds it. -/
def execClz (idle : BitVec 3) (d : BitVec 5) (a : BitVec 5) (s : State) : Host.Outcome State Fault Refusal :=
  .next (issueS idle (semClz d a) s)

/-- CTZ (R65). -/
def semCtz (d : BitVec 5) (a : BitVec 5) : Sem :=
  alu1 d a ctzW
/-- CTZ: a bundle that holds it. -/
def execCtz (idle : BitVec 3) (d : BitVec 5) (a : BitVec 5) (s : State) : Host.Outcome State Fault Refusal :=
  .next (issueS idle (semCtz d a) s)

/-- POPC (R65). -/
def semPopc (d : BitVec 5) (a : BitVec 5) : Sem :=
  alu1 d a popcW
/-- POPC: a bundle that holds it. -/
def execPopc (idle : BitVec 3) (d : BitVec 5) (a : BitVec 5) (s : State) : Host.Outcome State Fault Refusal :=
  .next (issueS idle (semPopc d a) s)

/-- ADDI (R66). -/
def semAddi (d : BitVec 5) (a : BitVec 5) (imm : BitVec 13) : Sem :=
  alu1 d a (fun x => x + sext13 imm)
/-- ADDI: a bundle that holds it. -/
def execAddi (idle : BitVec 3) (d : BitVec 5) (a : BitVec 5) (imm : BitVec 13) (s : State) : Host.Outcome State Fault Refusal :=
  .next (issueS idle (semAddi d a imm) s)

/-- ANDI (R66). -/
def semAndi (d : BitVec 5) (a : BitVec 5) (imm : BitVec 13) : Sem :=
  alu1 d a (fun x => x &&& sext13 imm)
/-- ANDI: a bundle that holds it. -/
def execAndi (idle : BitVec 3) (d : BitVec 5) (a : BitVec 5) (imm : BitVec 13) (s : State) : Host.Outcome State Fault Refusal :=
  .next (issueS idle (semAndi d a imm) s)

/-- ORI (R66). -/
def semOri (d : BitVec 5) (a : BitVec 5) (imm : BitVec 13) : Sem :=
  alu1 d a (fun x => x ||| sext13 imm)
/-- ORI: a bundle that holds it. -/
def execOri (idle : BitVec 3) (d : BitVec 5) (a : BitVec 5) (imm : BitVec 13) (s : State) : Host.Outcome State Fault Refusal :=
  .next (issueS idle (semOri d a imm) s)

/-- XORI (R66). -/
def semXori (d : BitVec 5) (a : BitVec 5) (imm : BitVec 13) : Sem :=
  alu1 d a (fun x => x ^^^ sext13 imm)
/-- XORI: a bundle that holds it. -/
def execXori (idle : BitVec 3) (d : BitVec 5) (a : BitVec 5) (imm : BitVec 13) (s : State) : Host.Outcome State Fault Refusal :=
  .next (issueS idle (semXori d a imm) s)

/-- SHLI (R66). -/
def semShli (d : BitVec 5) (a : BitVec 5) (cnt : BitVec 6) : Sem :=
  alu1 d a (fun x => x <<< cnt.toNat)
/-- SHLI: a bundle that holds it. -/
def execShli (idle : BitVec 3) (d : BitVec 5) (a : BitVec 5) (cnt : BitVec 6) (s : State) : Host.Outcome State Fault Refusal :=
  .next (issueS idle (semShli d a cnt) s)

/-- SHRI (R66). -/
def semShri (d : BitVec 5) (a : BitVec 5) (cnt : BitVec 6) : Sem :=
  alu1 d a (fun x => x >>> cnt.toNat)
/-- SHRI: a bundle that holds it. -/
def execShri (idle : BitVec 3) (d : BitVec 5) (a : BitVec 5) (cnt : BitVec 6) (s : State) : Host.Outcome State Fault Refusal :=
  .next (issueS idle (semShri d a cnt) s)

/-- SRAI (R66). -/
def semSrai (d : BitVec 5) (a : BitVec 5) (cnt : BitVec 6) : Sem :=
  alu1 d a (fun x => x.sshiftRight cnt.toNat)
/-- SRAI: a bundle that holds it. -/
def execSrai (idle : BitVec 3) (d : BitVec 5) (a : BitVec 5) (cnt : BitVec 6) (s : State) : Host.Outcome State Fault Refusal :=
  .next (issueS idle (semSrai d a cnt) s)

/-- SLTI (R66), signed. -/
def semSlti (d : BitVec 5) (a : BitVec 5) (imm : BitVec 13) : Sem :=
  alu1 d a (fun x => b2w (x.slt (sext13 imm)))
/-- SLTI: a bundle that holds it. -/
def execSlti (idle : BitVec 3) (d : BitVec 5) (a : BitVec 5) (imm : BitVec 13) (s : State) : Host.Outcome State Fault Refusal :=
  .next (issueS idle (semSlti d a imm) s)

/-- SLTIU (R66): against i mod 2^64, unsigned. -/
def semSltiu (d : BitVec 5) (a : BitVec 5) (imm : BitVec 13) : Sem :=
  alu1 d a (fun x => b2w (x.ult (sext13 imm)))
/-- SLTIU: a bundle that holds it. -/
def execSltiu (idle : BitVec 3) (d : BitVec 5) (a : BitVec 5) (imm : BitVec 13) (s : State) : Host.Outcome State Fault Refusal :=
  .next (issueS idle (semSltiu d a imm) s)

/-- SEQI (R66). -/
def semSeqi (d : BitVec 5) (a : BitVec 5) (imm : BitVec 13) : Sem :=
  alu1 d a (fun x => b2w (x == sext13 imm))
/-- SEQI: a bundle that holds it. -/
def execSeqi (idle : BitVec 3) (d : BitVec 5) (a : BitVec 5) (imm : BitVec 13) (s : State) : Host.Outcome State Fault Refusal :=
  .next (issueS idle (semSeqi d a imm) s)

/-- MULI (R66); latency 3 (R55). -/
def semMuli (d : BitVec 5) (a : BitVec 5) (imm : BitVec 13) : Sem :=
  aluSem [a] 3 d (fun c => rdS c a * sext13 imm)
/-- MULI: a bundle that holds it. -/
def execMuli (idle : BitVec 3) (d : BitVec 5) (a : BitVec 5) (imm : BitVec 13) (s : State) : Host.Outcome State Fault Refusal :=
  .next (issueS idle (semMuli d a imm) s)

/-- EXTU (R67). -/
def semExtu (d : BitVec 5) (a : BitVec 5) (w : BitVec 6) (p : BitVec 6) : Sem :=
  alu1 d a (fun x => extuW x p.toNat w.toNat)
/-- EXTU: a bundle that holds it. -/
def execExtu (idle : BitVec 3) (d : BitVec 5) (a : BitVec 5) (w : BitVec 6) (p : BitVec 6) (s : State) : Host.Outcome State Fault Refusal :=
  .next (issueS idle (semExtu d a w p) s)

/-- EXTS (R67). -/
def semExts (d : BitVec 5) (a : BitVec 5) (w : BitVec 6) (p : BitVec 6) : Sem :=
  alu1 d a (fun x => extsW x p.toNat w.toNat)
/-- EXTS: a bundle that holds it. -/
def execExts (idle : BitVec 3) (d : BitVec 5) (a : BitVec 5) (w : BitVec 6) (p : BitVec 6) (s : State) : Host.Outcome State Fault Refusal :=
  .next (issueS idle (semExts d a w p) s)

/-- INS (R67): Sd is also a source. -/
def semIns (d : BitVec 5) (a : BitVec 5) (w : BitVec 6) (p : BitVec 6) : Sem :=
  aluSem [a] 1 d (fun c => insW (rdS c d) (rdS c a) p.toNat w.toNat)
/-- INS: a bundle that holds it. -/
def execIns (idle : BitVec 3) (d : BitVec 5) (a : BitVec 5) (w : BitVec 6) (p : BitVec 6) (s : State) : Host.Outcome State Fault Refusal :=
  .next (issueS idle (semIns d a w p) s)

/-- LIH (R47, R68): sext(imm18)·8192. -/
def semLih (d : BitVec 5) (imm : BitVec 18) : Sem :=
  aluSem [] 1 d (fun _ => imm.signExtend 64 * 8192)
/-- LIH: a bundle that holds it. -/
def execLih (idle : BitVec 3) (d : BitVec 5) (imm : BitVec 18) (s : State) : Host.Outcome State Fault Refusal :=
  .next (issueS idle (semLih d imm) s)

/-- LIPC (R47, R68): the 8-KiB-aligned pc plus sext(imm18)·8192. -/
def semLipc (d : BitVec 5) (imm : BitVec 18) : Sem :=
  aluSem [] 1 d (fun c => (c.pc &&& ~~~(8191 : Word)) + imm.signExtend 64 * 8192)
/-- LIPC: a bundle that holds it. -/
def execLipc (idle : BitVec 3) (d : BitVec 5) (imm : BitVec 18) (s : State) : Host.Outcome State Fault Refusal :=
  .next (issueS idle (semLipc d imm) s)

/-- BEQZ (R69). -/
def semBeqz (a : BitVec 5) (off : BitVec 18) : Sem :=
  brSem a off (fun x => x == 0)
/-- BEQZ: a bundle that holds it. -/
def execBeqz (idle : BitVec 3) (a : BitVec 5) (off : BitVec 18) (s : State) : Host.Outcome State Fault Refusal :=
  .next (issueS idle (semBeqz a off) s)

/-- BNEZ (R69). -/
def semBnez (a : BitVec 5) (off : BitVec 18) : Sem :=
  brSem a off (fun x => x != 0)
/-- BNEZ: a bundle that holds it. -/
def execBnez (idle : BitVec 3) (a : BitVec 5) (off : BitVec 18) (s : State) : Host.Outcome State Fault Refusal :=
  .next (issueS idle (semBnez a off) s)

/-- BLTZ (R69). -/
def semBltz (a : BitVec 5) (off : BitVec 18) : Sem :=
  brSem a off (fun x => x.slt 0)
/-- BLTZ: a bundle that holds it. -/
def execBltz (idle : BitVec 3) (a : BitVec 5) (off : BitVec 18) (s : State) : Host.Outcome State Fault Refusal :=
  .next (issueS idle (semBltz a off) s)

/-- BGEZ (R69). -/
def semBgez (a : BitVec 5) (off : BitVec 18) : Sem :=
  brSem a off (fun x => !x.slt 0)
/-- BGEZ: a bundle that holds it. -/
def execBgez (idle : BitVec 3) (a : BitVec 5) (off : BitVec 18) (s : State) : Host.Outcome State Fault Refusal :=
  .next (issueS idle (semBgez a off) s)

/-- BR (R69), always taken. -/
def semBr (off : BitVec 18) : Sem :=
  { uses := [], vreads := [], preads := [], eff := fun s0 s => .done s (some (relTarget s0.core.pc off)) }
/-- BR: a bundle that holds it. -/
def execBr (idle : BitVec 3) (off : BitVec 18) (s : State) : Host.Outcome State Fault Refusal :=
  .next (issueS idle (semBr off) s)

/-- CALL (R69): the link goes to S31. -/
def semCall (off : BitVec 18) : Sem :=
  { uses := [31], vreads := [], preads := [],
    eff := fun s0 s =>
      .done { s with core := wrSL s.core 1 31 (s0.core.pc + 16) } (some (relTarget s0.core.pc off)) }
/-- CALL: a bundle that holds it. -/
def execCall (idle : BitVec 3) (off : BitVec 18) (s : State) : Host.Outcome State Fault Refusal :=
  .next (issueS idle (semCall off) s)

/-- JR (R69). -/
def semJr (a : BitVec 5) : Sem :=
  jumpSem none a
/-- JR: a bundle that holds it. -/
def execJr (idle : BitVec 3) (a : BitVec 5) (s : State) : Host.Outcome State Fault Refusal :=
  .next (issueS idle (semJr a) s)

/-- CALLR (R69): the target is read before the link is written. -/
def semCallr (d : BitVec 5) (a : BitVec 5) : Sem :=
  jumpSem (some d) a
/-- CALLR: a bundle that holds it. -/
def execCallr (idle : BitVec 3) (d : BitVec 5) (a : BitVec 5) (s : State) : Host.Outcome State Fault Refusal :=
  .next (issueS idle (semCallr d a) s)

/-- LOOP (R70): Sa counts down; while it is not zero the rotating bases fall and the branch is taken. -/
def semLoop (a : BitVec 5) (off : BitVec 18) : Sem :=
  { uses := [a], vreads := [], preads := [],
    eff := fun s0 s =>
      let x := rdS s0.core a - 1
      let c := wrSL s.core 1 a x
      if x = 0 then .done { s with core := c } none
      else .done { s with core := { c with vrb := s0.core.vrb - 1, prb := s0.core.prb - 1 } }
        (some (relTarget s0.core.pc off)) }
/-- LOOP: a bundle that holds it. -/
def execLoop (idle : BitVec 3) (a : BitVec 5) (off : BitVec 18) (s : State) : Host.Outcome State Fault Refusal :=
  .next (issueS idle (semLoop a off) s)

end Sys2Proof.Machine
end

