-- ==== Sys2Proof/Machine/LdSt.lean ====
section
/-! DEFINITION. System registers (R62, R63), the core-local window (R61), and the scalar accesses to memory: loads, stores,
annotated forms, the constant path, atomics and fences (R71, R72, R302 to R306). -/
namespace Sys2Proof.Machine

/-- FEAT0 and FEAT1 (R402). -/
def feat0 : Word := 0x0100020000000000
def feat1 : Word := 0x0810180020500806

/-- CORE_ID (R63). -/
def coreId (s : State) : Word :=
  .ofNat 64 (pack [(7, s.coreNo), (9, 0), (6, s.pkgNo.toNat), (10, 0), (32, s.domNo.toNat)])

/-- PHASE of the context, each pending level that is due in force (R268, R270). -/
def phaseOf (s : State) : Word :=
  match curCtx s with
  | none => 0
  | some c => .ofNat 64 (phaseNow (gtimeOf s) c)

/-- A system register as MFS reads it (R62); 0 for a number that R62 does not list. -/
def sysRead (s : State) (n : Nat) : Word :=
  let c := s.core
  match n with
  | 0x000 => coreId s
  | 0x001 => feat0
  | 0x002 => feat1
  | 0x008 => c.team
  | 0x010 => c.vrb.setWidth 64
  | 0x011 => c.prb.setWidth 64
  | 0x018 => c.vflags
  | 0x020 => c.tags
  | 0x028 => phaseOf s
  | 0x029 => match curCtx s with | some x => x.phasemiss | none => 0
  | 0x030 => .ofNat 64 c.livemark
  | 0x038 => c.lanemap
  | 0x040 => .ofNat 64 c.cycle
  | 0x041 => .ofNat 64 c.ticks
  | 0x042 => gtime s
  | 0x048 => c.tvec
  | 0x049 => c.evec
  | 0x04A => c.epc
  | 0x04B => c.tcause
  | 0x04C => c.tval
  | 0x04D => c.tstat
  | 0x04E => c.tbund0
  | 0x04F => c.tbund1
  | 0x050 => c.tscr0
  | 0x051 => c.tscr1
  | 0x052 => .ofNat 64 c.lbcnt
  | _ => 0

/-- VFLAGS as a write stores it: reserved bits zero, and RM 3 as 0 (R142). -/
def vflagsIn (v : Word) : Word := (v &&& 0x1F) ||| (if bits v.toNat 9 8 = 3 then 0 else v &&& 0x300)

/-- A system register written (R62); reserved bits read zero. Numbers that no write reaches are left alone. -/
def sysWrite (c : Core) (n : Nat) (v : Word) : Core :=
  match n with
  | 0x010 => { c with vrb := v.setWidth 5 }
  | 0x011 => { c with prb := v.setWidth 3 }
  | 0x018 => { c with vflags := vflagsIn v }
  | 0x048 => { c with tvec := v }
  | 0x049 => { c with evec := v }
  | 0x04A => { c with epc := v }
  | 0x04B => { c with tcause := v &&& 0x1FFF07FF }
  | 0x04C => { c with tval := v }
  | 0x04D => { c with tstat := v &&& 3 }
  | 0x04E => { c with tbund0 := v }
  | 0x04F => { c with tbund1 := v }
  | 0x050 => { c with tscr0 := v }
  | 0x051 => { c with tscr1 := v }
  | 0x052 => { c with lbcnt := if v.toNat ≤ 256 then v.toNat else 256 }
  | _ => c

/-- A doubleword of the landing-buffer image (R58): a predicate's entry has 128 bytes and no poison. -/
def lbRead (c : Core) (off : Nat) : Word :=
  let e := Sparse.get LbEntry.empty c.lb (off / 1024)
  let o := off % 1024
  if 128 ≤ o ∧ o < 640 ∧ bits e.desc.toNat 63 56 = 2 then 0
  else if o < 512 then .ofNat 64 (rowBytes e.val.bits o 8)
  else if o < 640 then .ofNat 64 (e.val.pz.toNat / 2 ^ (8 * (o - 512)) % 2 ^ 64)
  else if o = 640 then e.desc else 0

/-- The landing-buffer image after a doubleword is written; zero areas and reserved bits discard (R10). -/
def lbWrite (c : Core) (off : Nat) (v : Word) : Core :=
  let k := off / 1024
  let e := Sparse.get LbEntry.empty c.lb k
  let o := off % 1024
  let e2 : LbEntry :=
    if o < 512 then { e with val := { e.val with bits := spliceBytes 4096 e.val.bits o 8 v.toNat } }
    else if o < 640 then { e with val := { e.val with pz := spliceBytes 1024 e.val.pz (o - 512) 8 v.toNat } }
    else if o = 640 then { e with desc := v &&& 0xFF00FF3F00000000 } else e
  { c with lb := Sparse.set LbEntry.empty c.lb k e2 }

/-- A read of the core-local window at an offset (R61); none for PAGE_PROT. -/
def winRead (s : State) (off n : Nat) : Option Nat :=
  if off < 0x20000 then some (ofBytes ((List.range n).map fun i => Sparse.get 0 s.core.cmem (off + i)))
  else if n ≠ 8 then none
  else if off < 0x30000 then
    if 0x20000 ≤ off ∧ sysListed.contains ((off - 0x20000) / 8) then some (sysRead s ((off - 0x20000) / 8)).toNat else none
  else if 0x40000 ≤ off ∧ off < 0x80000 then some (lbRead s.core (off - 0x40000)).toNat
  else none

/-- Control memory after bytes are written. -/
def cmemWrite (m : Sparse Byte) (a : Nat) : List Byte → Sparse Byte
  | [] => m
  | b :: r => cmemWrite (Sparse.set 0 m a b) (a + 1) r

/-- A write of the core-local window (R61); none for PAGE_PROT. `inh` is TSTAT.INH at issue. -/
def winWrite (inh : Bool) (c : Core) (off n : Nat) (v : Nat) : Option Core :=
  if off < 0x20000 then some { c with cmem := cmemWrite c.cmem off (toBytes n v) }
  else if n ≠ 8 then none
  else if off < 0x30000 then
    let r := (off - 0x20000) / 8
    if sysRW.contains r || (inh && sysH.contains r) then some (sysWrite c r (.ofNat 64 v)) else none
  else if 0x40000 ≤ off ∧ off < 0x80000 then (if inh then some (lbWrite c (off - 0x40000) (.ofNat 64 v)) else none)
  else none

/-- A loaded number of `n` bytes as a register value (R71). -/
def extLoad (n : Nat) (sg : Bool) (x : Nat) : Word := if sg then BitVec.ofInt 64 (signed (8 * n) x) else .ofNat 64 x

/-- What a load finds in the store buffer (R303). -/
inductive Fwd where
  | memory
  | value (v : Nat)
  | wait
deriving DecidableEq, Repr

/-- Forwarding: the youngest store that shares a byte gives its bytes when it covers the load; any other overlap waits.
Tolerant pages wait, since a reader sees the rounded value (R140). An S-kind access waits for buffered S-kind stores
(R297), and an acquire for one to its own bytes, which comes before it in SO (R301). -/
def forward (acq : Bool) (c : Core) (lf : Leaf) (pa n : Nat) : Fwd :=
  let rng : Nat × Nat := if lf.tol = 0 then (pa, pa + n) else (pa, pa + (n / tolA lf.tol + 2) * tolD lf.tol)
  if lf.kind = 0 ∧ c.sb.any (fun e => e.kind == 0 && !overlap (sbRange e) rng) ∨
      acq ∧ c.sb.any (fun e => e.kind == 0 && overlap (sbRange e) rng) then .wait else
    match c.sb.reverse.find? (fun e => overlap (sbRange e) rng) with
    | none => .memory
    | some e =>
      if e.tol = 0 ∧ lf.tol = 0 ∧ e.pa ≤ pa ∧ pa + n ≤ e.pa + e.size then
        .value (e.data / 2 ^ (8 * (pa - e.pa)) % 2 ^ (8 * n))
      else .wait

/-- The outcome of a faulting scalar access to `n` bytes (R71, R352, R357, R397). -/
def scalarFault (s : State) (slot code : Nat) (ea : Word) (n : Nat) : SlotOut :=
  if code = codeRetry then .stall
  else if code = codeCheck then .check (checkPlace s slot ea.toNat n).1 (checkPlace s slot ea.toNat n).2 (some ea)
  else .trap (mkTrap code 1 ea)

/-- Cycles from issue of a scalar global load or ATOM to its data (R55): 40 to 90 where the package's L2 holds the line, and
more elsewhere, without a bound (R446; log 7). -/
def memLat (s : State) (pa : Nat) : Nat :=
  if Config.inL2 s.freeCtr && paPkg pa == s.pkgNo.toNat then 40 + Config.latency s.freeCtr % 51
  else 91 + Config.latency s.freeCtr

/-- A global load at issue: what the slot answers, given how it writes its result after a latency (R55, R71, R303). -/
def globalLoad (acq : Bool) (s0 s : State) (ea : Word) (n : Nat) (wr : Nat → State → Nat → State) : SlotOut :=
  match curSlot s0 with
  | none => .stall
  | some slot =>
    match translate s0 slot ea.toNat .read with
    | .error e => scalarFault s0 slot e ea n
    | .ok lf =>
      let pa := physOf lf ea.toNat
      match forward acq s0.core lf pa n with
      | .wait => .stall
      | .value v => .done (wr 12 (touchWalk s slot ea.toNat) v) none
      | .memory =>
        if !sectorsOk s0 pa n then .check (failPlace s0 pa n).1 (failPlace s0 pa n).2 (some ea)
        else .done (wr (memLat s0 pa) { touch s slot ea.toNat pa with freeCtr := s.freeCtr + 1 }
          (loadNum s0 lf.tol ea.toNat pa n)) none

/-- An address with its low bits ignored (R71). -/
def alignDown (ea : Word) (n : Nat) : Word := .ofNat 64 (ea.toNat / n * n)

/-- A scalar load (R71, R72): `win` allows the core-local window, and `acq` makes it an acquire. -/
def loadSem (uses : List (BitVec 5)) (win acq : Bool) (d : BitVec 5) (n : Nat) (sg : Bool) (addr : Core → Word) : Sem :=
  { uses := d :: uses, vreads := [], preads := [],
    eff := fun s0 s =>
      let ea := alignDown (addr s0.core) n
      if bits ea.toNat 63 56 = 0xFF then
        if win then
          match winRead s0 (bits ea.toNat 55 0) n with
          | some x => .done (withCore s (wrSL s.core 3 d (extLoad n sg x))) none
          | none => .trap (mkTrap codeProt 1 ea)
        else .trap (mkTrap codeProt 1 ea)
      else globalLoad acq s0 s ea n (fun lat t x => withCore t (wrSL t.core lat d (extLoad n sg x))) }

/-- A store enters the buffer, or, as a release, is performed after every buffered one (R297, R303; log 12). -/
def putStore (rel : Bool) (slot : Nat) (e : StoreEntry) (s : State) : State :=
  if rel then performStore slot e (release s.core.sb.length [sbRange e] s)
  else withCore s { s.core with sb := s.core.sb ++ [e] }

/-- A scalar store (R71, R72): one to memory stalls while the store buffer is full (R52), before anything can fault, and one to the
core-local window, which enters no buffer, goes on (log 23); a release stalls while a store that it performs waits (R352, R357). -/
def storeSem (uses : List (BitVec 5)) (win rel : Bool) (d : BitVec 5) (n : Nat) (addr : Core → Word) : Sem :=
  { uses := d :: uses, vreads := [], preads := [],
    eff := fun s0 s =>
      let ea := alignDown (addr s0.core) n
      let v := (rdS s0.core d).toNat % 2 ^ (8 * n)
      if bits ea.toNat 63 56 = 0xFF then
        if win then
          match winWrite (s0.core.tstat.getLsbD 0) s.core (bits ea.toNat 55 0) n v with
          | some c => .done (withCore s c) none
          | none => .trap (mkTrap codeProt 1 ea)
        else .trap (mkTrap codeProt 1 ea)
      else
        match curSlot s0 with
        | none => .stall
        | some slot =>
          if 16 ≤ s0.core.sb.length then .stall
          else
            match translate s0 slot ea.toNat .write with
            | .error e => scalarFault s0 slot e ea n
            | .ok lf =>
              let e : StoreEntry :=
                { va := ea.toNat, pa := physOf lf ea.toNat, size := n, data := v, kind := lf.kind, tol := lf.tol, lg := lf.lg }
              if rel && releaseWaits [sbRange e] s0 then .stall
              else .done (putStore rel slot e (touchWalk s slot ea.toNat)) none }

/-- Base plus immediate (R71). -/
def immAddr (a : BitVec 5) (m : BitVec 13) (c : Core) : Word := rdS c a + sext13 m

/-- Base plus index (R28). -/
def regAddr (a b : BitVec 5) (c : Core) : Word := rdS c a + rdS c b

/-- The new value of an atomic, none when it writes nothing (R304): `n` bytes, operand v, expected e. -/
def atomNew (op n old v e : Nat) : Option Nat :=
  match op with
  | 0 => some ((old + v) % 2 ^ (8 * n))
  | 1 => some (Nat.land old v)
  | 2 => some (Nat.lor old v)
  | 3 => some (Nat.xor old v)
  | 4 => some v
  | 5 => if old = e then some v else none
  | 6 => some (if signed (8 * n) old < signed (8 * n) v then old else v)
  | 7 => some (if signed (8 * n) old < signed (8 * n) v then v else old)
  | 8 => some (Nat.min old v)
  | _ => some (Nat.max old v)

/-- ATOM with its annotation (R304): one access at the home L2, on the raw bytes. A buffered store that shares a byte, or
an S-kind one before an S-kind atomic, drains first; a release drains all. -/
def atomSem (rel : Bool) (d a b : BitVec 5) (op : BitVec 4) (sz : BitVec 1) : Sem :=
  { uses := [d, a, b], vreads := [], preads := [],
    eff := fun s0 s =>
      let n := if sz = 1 then 8 else 4
      let ea := alignDown (rdS s0.core a) n
      if bits ea.toNat 63 56 = 0xFF then .trap (mkTrap codeProt 1 ea)
      else
        match curSlot s0 with
        | none => .stall
        | some slot =>
          match translate s0 slot ea.toNat .atomic with
          | .error e => scalarFault s0 slot e ea n
          | .ok lf =>
            let pa := physOf lf ea.toNat
            let t := if rel then release s.core.sb.length [(pa, pa + n)] s else s
            if rel && releaseWaits [(pa, pa + n)] s0 then .stall
            else if !rel && s0.core.sb.any (fun e => overlap (sbRange e) (pa, pa + n) || (e.kind == 0 && lf.kind == 0)) then .stall
            else if !sectorsOk t pa n then .check (failPlace t pa n).1 (failPlace t pa n).2 (some ea)
            else
              let old := memNum t pa n
              let v := (rdS s0.core b).toNat % 2 ^ (8 * n)
              let e := (rdS s0.core d).toNat % 2 ^ (8 * n)
              let u := match atomNew op.toNat n old v e with
                | some x => storeNum t 0 ea.toNat pa n x
                | none => t
              let w := touch u slot ea.toNat pa
              .done (withCore { w with freeCtr := s.freeCtr + 1 } (wrSL w.core (memLat s0 pa) d (.ofNat 64 old))) none }

/-- FENCE and FENCE.U wait for buffered stores (R302). -/
def fenceSem (all : Bool) : Sem :=
  { uses := [], vreads := [], preads := [],
    eff := fun s0 s => if s0.core.sb.any (fun e => all || e.kind != 2) then .stall else .done s none }

/-- LDB (R71). -/
def semLdb (d : BitVec 5) (a : BitVec 5) (imm : BitVec 13) : Sem :=
  loadSem [a] true false d 1 true (immAddr a imm)
/-- LDB: a bundle that holds it. -/
def execLdb (idle : BitVec 3) (d : BitVec 5) (a : BitVec 5) (imm : BitVec 13) (s : State) : Host.Outcome State Fault Refusal :=
  .next (issueS idle (semLdb d a imm) s)

/-- LDBU (R71). -/
def semLdbu (d : BitVec 5) (a : BitVec 5) (imm : BitVec 13) : Sem :=
  loadSem [a] true false d 1 false (immAddr a imm)
/-- LDBU: a bundle that holds it. -/
def execLdbu (idle : BitVec 3) (d : BitVec 5) (a : BitVec 5) (imm : BitVec 13) (s : State) : Host.Outcome State Fault Refusal :=
  .next (issueS idle (semLdbu d a imm) s)

/-- LDH (R71). -/
def semLdh (d : BitVec 5) (a : BitVec 5) (imm : BitVec 13) : Sem :=
  loadSem [a] true false d 2 true (immAddr a imm)
/-- LDH: a bundle that holds it. -/
def execLdh (idle : BitVec 3) (d : BitVec 5) (a : BitVec 5) (imm : BitVec 13) (s : State) : Host.Outcome State Fault Refusal :=
  .next (issueS idle (semLdh d a imm) s)

/-- LDHU (R71). -/
def semLdhu (d : BitVec 5) (a : BitVec 5) (imm : BitVec 13) : Sem :=
  loadSem [a] true false d 2 false (immAddr a imm)
/-- LDHU: a bundle that holds it. -/
def execLdhu (idle : BitVec 3) (d : BitVec 5) (a : BitVec 5) (imm : BitVec 13) (s : State) : Host.Outcome State Fault Refusal :=
  .next (issueS idle (semLdhu d a imm) s)

/-- LDW (R71). -/
def semLdw (d : BitVec 5) (a : BitVec 5) (imm : BitVec 13) : Sem :=
  loadSem [a] true false d 4 true (immAddr a imm)
/-- LDW: a bundle that holds it. -/
def execLdw (idle : BitVec 3) (d : BitVec 5) (a : BitVec 5) (imm : BitVec 13) (s : State) : Host.Outcome State Fault Refusal :=
  .next (issueS idle (semLdw d a imm) s)

/-- LDWU (R71). -/
def semLdwu (d : BitVec 5) (a : BitVec 5) (imm : BitVec 13) : Sem :=
  loadSem [a] true false d 4 false (immAddr a imm)
/-- LDWU: a bundle that holds it. -/
def execLdwu (idle : BitVec 3) (d : BitVec 5) (a : BitVec 5) (imm : BitVec 13) (s : State) : Host.Outcome State Fault Refusal :=
  .next (issueS idle (semLdwu d a imm) s)

/-- LDD (R71). -/
def semLdd (d : BitVec 5) (a : BitVec 5) (imm : BitVec 13) : Sem :=
  loadSem [a] true false d 8 false (immAddr a imm)
/-- LDD: a bundle that holds it. -/
def execLdd (idle : BitVec 3) (d : BitVec 5) (a : BitVec 5) (imm : BitVec 13) (s : State) : Host.Outcome State Fault Refusal :=
  .next (issueS idle (semLdd d a imm) s)

/-- The constant path's name for a doubleword: its physical address, and the tolerant kind through which it is read, since
pages of several kinds may map one frame (R286, R305). -/
def cpathKey (lf : Leaf) (ea : Word) : Nat := physOf lf ea.toNat + 2 ^ 46 * lf.tol

/-- Stored bytes of a doubleword that the constant path holds under a name. -/
def cpathRange (key : Nat) : Nat × Nat :=
  let pa := key % 2 ^ 46
  let k := key / 2 ^ 46
  (pa, pa + if k = 0 then 8 else 8 / tolA k * tolD k)

/-- What the constant path keeps beside a doubleword that it loads: nothing that shares a stored byte with it under another tolerant
kind, so that no later LDC returns an older write (R305). -/
def cpathDrop (lf : Leaf) (ea : Word) (m : Sparse (Option Word)) : Sparse (Option Word) :=
  m.filter fun e => e.1 / 2 ^ 46 == lf.tol || !overlap (cpathRange e.1) (cpathRange (cpathKey lf ea))

/-- LDC (R305): the value that the constant path holds, or as LDD, and then held. -/
def semLdc (d : BitVec 5) (a : BitVec 5) (imm : BitVec 13) : Sem :=
  { uses := [d, a], vreads := [], preads := [],
    eff := fun s0 s =>
      let ea := alignDown (immAddr a imm s0.core) 8
      if bits ea.toNat 63 56 = 0xFF then .trap (mkTrap codeProt 1 ea)
      else
        match curSlot s0 with
        | none => .stall
        | some slot =>
          match translate s0 slot ea.toNat .read with
          | .error e => scalarFault s0 slot e ea 8
          | .ok lf =>
            match Sparse.get none s0.core.cpath (cpathKey lf ea) with
            | some v =>
              let t := touchWalk s slot ea.toNat
              .done (withCore t (wrSL t.core 3 d v)) none
            | none => globalLoad false s0 s ea 8 (fun lat t x =>
                let c := wrSL t.core lat d (.ofNat 64 x)
                withCore t { c with cpath := Sparse.set none (cpathDrop lf ea c.cpath) (cpathKey lf ea) (some (.ofNat 64 x)) }) }
/-- LDC: a bundle that holds it. -/
def execLdc (idle : BitVec 3) (d : BitVec 5) (a : BitVec 5) (imm : BitVec 13) (s : State) : Host.Outcome State Fault Refusal :=
  .next (issueS idle (semLdc d a imm) s)

/-- STB (R71). -/
def semStb (d : BitVec 5) (a : BitVec 5) (imm : BitVec 13) : Sem :=
  storeSem [a] true false d 1 (immAddr a imm)
/-- STB: a bundle that holds it. -/
def execStb (idle : BitVec 3) (d : BitVec 5) (a : BitVec 5) (imm : BitVec 13) (s : State) : Host.Outcome State Fault Refusal :=
  .next (issueS idle (semStb d a imm) s)

/-- STH (R71). -/
def semSth (d : BitVec 5) (a : BitVec 5) (imm : BitVec 13) : Sem :=
  storeSem [a] true false d 2 (immAddr a imm)
/-- STH: a bundle that holds it. -/
def execSth (idle : BitVec 3) (d : BitVec 5) (a : BitVec 5) (imm : BitVec 13) (s : State) : Host.Outcome State Fault Refusal :=
  .next (issueS idle (semSth d a imm) s)

/-- STW (R71). -/
def semStw (d : BitVec 5) (a : BitVec 5) (imm : BitVec 13) : Sem :=
  storeSem [a] true false d 4 (immAddr a imm)
/-- STW: a bundle that holds it. -/
def execStw (idle : BitVec 3) (d : BitVec 5) (a : BitVec 5) (imm : BitVec 13) (s : State) : Host.Outcome State Fault Refusal :=
  .next (issueS idle (semStw d a imm) s)

/-- STD (R71). -/
def semStd (d : BitVec 5) (a : BitVec 5) (imm : BitVec 13) : Sem :=
  storeSem [a] true false d 8 (immAddr a imm)
/-- STD: a bundle that holds it. -/
def execStd (idle : BitVec 3) (d : BitVec 5) (a : BitVec 5) (imm : BitVec 13) (s : State) : Host.Outcome State Fault Refusal :=
  .next (issueS idle (semStd d a imm) s)

/-- LDA (R28, R72). With .ACQ later accesses follow it, which they do in any case here; the scope bounds which other agents it orders against. -/
def semLda (d : BitVec 5) (a : BitVec 5) (b : BitVec 5) (sz : BitVec 2) (u : BitVec 1) (ord : BitVec 1) (sc : BitVec 3) : Sem :=
  let _ := sc
  loadSem [a, b] false (ord == 1) d (2 ^ sz.toNat) (u == 0 && sz != 3) (regAddr a b)
/-- LDA: a bundle that holds it. -/
def execLda (idle : BitVec 3) (d : BitVec 5) (a : BitVec 5) (b : BitVec 5) (sz : BitVec 2) (u : BitVec 1) (ord : BitVec 1) (sc : BitVec 3) (s : State) : Host.Outcome State Fault Refusal :=
  .next (issueS idle (semLda d a b sz u ord sc) s)

/-- STA (R28, R72), with .REL a release. -/
def semSta (d : BitVec 5) (a : BitVec 5) (b : BitVec 5) (sz : BitVec 2) (ord : BitVec 1) (sc : BitVec 3) : Sem :=
  let _ := sc
  storeSem [a, b] false (ord == 1) d (2 ^ sz.toNat) (regAddr a b)
/-- STA: a bundle that holds it. -/
def execSta (idle : BitVec 3) (d : BitVec 5) (a : BitVec 5) (b : BitVec 5) (sz : BitVec 2) (ord : BitVec 1) (sc : BitVec 3) (s : State) : Host.Outcome State Fault Refusal :=
  .next (issueS idle (semSta d a b sz ord sc) s)

/-- ATOM (R304) without annotation. -/
def semAtom (d : BitVec 5) (a : BitVec 5) (b : BitVec 5) (op : BitVec 4) (sz : BitVec 1) : Sem :=
  atomSem false d a b op sz
/-- ATOM: a bundle that holds it. -/
def execAtom (idle : BitVec 3) (d : BitVec 5) (a : BitVec 5) (b : BitVec 5) (op : BitVec 4) (sz : BitVec 1) (s : State) : Host.Outcome State Fault Refusal :=
  .next (issueS idle (semAtom d a b op sz) s)

/-- ATOM.ACQ (R304). -/
def semAtomAcq (d : BitVec 5) (a : BitVec 5) (b : BitVec 5) (op : BitVec 4) (sz : BitVec 1) (sc : BitVec 3) : Sem :=
  let _ := sc
  atomSem false d a b op sz
/-- ATOM_ACQ: a bundle that holds it. -/
def execAtomAcq (idle : BitVec 3) (d : BitVec 5) (a : BitVec 5) (b : BitVec 5) (op : BitVec 4) (sz : BitVec 1) (sc : BitVec 3) (s : State) : Host.Outcome State Fault Refusal :=
  .next (issueS idle (semAtomAcq d a b op sz sc) s)

/-- ATOM.REL (R304). -/
def semAtomRel (d : BitVec 5) (a : BitVec 5) (b : BitVec 5) (op : BitVec 4) (sz : BitVec 1) (sc : BitVec 3) : Sem :=
  let _ := sc
  atomSem true d a b op sz
/-- ATOM_REL: a bundle that holds it. -/
def execAtomRel (idle : BitVec 3) (d : BitVec 5) (a : BitVec 5) (b : BitVec 5) (op : BitVec 4) (sz : BitVec 1) (sc : BitVec 3) (s : State) : Host.Outcome State Fault Refusal :=
  .next (issueS idle (semAtomRel d a b op sz sc) s)

/-- ATOM.AR (R304). -/
def semAtomAr (d : BitVec 5) (a : BitVec 5) (b : BitVec 5) (op : BitVec 4) (sz : BitVec 1) (sc : BitVec 3) : Sem :=
  let _ := sc
  atomSem true d a b op sz
/-- ATOM_AR: a bundle that holds it. -/
def execAtomAr (idle : BitVec 3) (d : BitVec 5) (a : BitVec 5) (b : BitVec 5) (op : BitVec 4) (sz : BitVec 1) (sc : BitVec 3) (s : State) : Host.Outcome State Fault Refusal :=
  .next (issueS idle (semAtomAr d a b op sz sc) s)

/-- FENCE (R302): S-kind and R-kind stores are visible. -/
def semFence (sc : BitVec 3) : Sem :=
  let _ := sc
  fenceSem false
/-- FENCE: a bundle that holds it. -/
def execFence (idle : BitVec 3) (sc : BitVec 3) (s : State) : Host.Outcome State Fault Refusal :=
  .next (issueS idle (semFence sc) s)

/-- FENCE.U (R302): every access is performed. -/
def semFenceU (sc : BitVec 3) : Sem :=
  let _ := sc
  fenceSem true
/-- FENCE_U: a bundle that holds it. -/
def execFenceU (idle : BitVec 3) (sc : BitVec 3) (s : State) : Host.Outcome State Fault Refusal :=
  .next (issueS idle (semFenceU sc) s)

/-- CINV (R306) empties the constant path. -/
def semCinv : Sem :=
  { uses := [], vreads := [], preads := [], eff := fun _ s => .done (emptyCpath s) none }
/-- CINV: a bundle that holds it. -/
def execCinv (idle : BitVec 3) (s : State) : Host.Outcome State Fault Refusal :=
  .next (issueS idle semCinv s)

end Sys2Proof.Machine
end

