-- ==== Sys2Proof/Machine/System.lean ====
section
/-! DEFINITION. The system instructions of the S slot: system registers, TRAP, RFT, HALT, PUBLISH and SETPHASE (R73 to
R76, R269, R404). -/
namespace Sys2Proof.Machine

/-- MTS to a register that a program may not write now: read-only, or H outside a handler (R62). -/
def mtsBad (c : Core) (n : Nat) : Bool := !(sysRW.contains n || (sysH.contains n && c.tstat.getLsbD 0))

/-- Bytes of a virtual range, as the context reads them without a key handle; a byte that cannot be read so is a free value
(log 15). -/
def vbytes (s : State) (slot : Nat) : Nat → Nat → List Byte
  | 0, _ => []
  | n + 1, va =>
    (match engLoad s slot 0 va 1 with | .ok x => .ofNat 8 x | .error _ => (Config.freeValue (s.freeCtr + n)).setWidth 8) :: vbytes s slot n (va + 1)

/-- A sector of the range must wait for a link or for a destination context (R352, R357). -/
def vwaits (s : State) (slot n va : Nat) : Bool :=
  (List.range ((va % 64 + n + 63) / 64)).any fun i =>
    match lookup s slot (va / 64 * 64 + 64 * i) with
    | .error e => e == codeRetry
    | .ok _ => false

/-- MFS (R73); latency 3. -/
def semMfs (d : BitVec 5) (n : BitVec 13) : Sem :=
  { uses := [d], vreads := [], preads := [],
    eff := fun s0 s => .done (withCore s (wrSL s.core 3 d (sysRead s0 n.toNat))) none }
/-- MFS: a bundle that holds it. -/
def execMfs (idle : BitVec 3) (d : BitVec 5) (n : BitVec 13) (s : State) : Host.Outcome State Fault Refusal :=
  .next (issueS idle (semMfs d n) s)

/-- MTS (R73): ILLEGAL to a register that may not be written (R62). -/
def semMts (a : BitVec 5) (n : BitVec 13) : Sem :=
  { uses := [a], vreads := [], preads := [],
    eff := fun s0 s =>
      if mtsBad s0.core n.toNat then .trap (mkTrap causeIllegal 1 0)
      else .done (withCore s (sysWrite s.core n.toNat (rdS s0.core a))) none }
/-- MTS: a bundle that holds it. -/
def execMts (idle : BitVec 3) (a : BitVec 5) (n : BitVec 13) (s : State) : Host.Outcome State Fault Refusal :=
  .next (issueS idle (semMts a n) s)

/-- TRAP (R74): the bundle completes, then the trap is taken. -/
def semTrap (code : BitVec 13) : Sem :=
  { uses := [], vreads := [], preads := [],
    eff := fun _ s =>
      .after s { cause := 0x10, slot := 1, code := code.toNat, tval := 0, bundle := 0, emu := false } }
/-- TRAP: a bundle that holds it. -/
def execTrap (idle : BitVec 3) (code : BitVec 13) (s : State) : Host.Outcome State Fault Refusal :=
  .next (issueS idle (semTrap code) s)

/-- RFT (R75): ILLEGAL outside a handler; it waits, ticking, for the handler's exposed results. -/
def semRft : Sem :=
  { uses := [], vreads := [], preads := [],
    eff := fun s0 _ =>
      if !s0.core.tstat.getLsbD 0 then .trap (mkTrap causeIllegal 1 0)
      else if !s0.core.inflight.isEmpty then .tickStall
      else .ret }
/-- RFT: a bundle that holds it. -/
def execRft (idle : BitVec 3) (s : State) : Host.Outcome State Fault Refusal :=
  .next (issueS idle semRft s)

/-- HALT (R76): no further bundle issues; inside a handler a machine check. -/
def semHalt : Sem :=
  { uses := [], vreads := [], preads := [],
    eff := fun s0 s =>
      if s0.core.tstat.getLsbD 0 then .check 7 0 none else .done (withCore s { s.core with halted := true }) none }
/-- HALT: a bundle that holds it. -/
def execHalt (idle : BitVec 3) (s : State) : Host.Outcome State Fault Refusal :=
  .next (issueS idle semHalt s)

/-- PUBLISH (R404): SLOT_STATE for an unmapped window; it stalls until the stores are performed, and while the window's contents
must wait. -/
def semPublish (w : BitVec 4) : Sem :=
  { uses := [], vreads := [], preads := [],
    eff := fun s0 s =>
      match curSlot s0, curCtx s0 with
      | some slot, some c =>
        match Sparse.find c.wins w.toNat with
        | none => .trap (mkTrap causeSlotState 1 (w.setWidth 64))
        | some v =>
          if !s0.core.sb.isEmpty || vwaits s0 slot v.len v.base then .stall
          else
            let v2 : Window := { v with ver := (v.ver + 1) % 2 ^ 64, image := vbytes s slot v.len v.base }
            let u := touchSectors slot ((v.len + 63) / 64) v.base { s with freeCtr := s.freeCtr + v.len }
            .done (tellCtx (modCtx u slot fun c => { c with wins := Sparse.insert (Sparse.erase c.wins w.toNat) w.toNat v2 })
              slot (.window slot w.toNat v.vaddr v2.ver)) none
      | _, _ => .stall }
/-- PUBLISH: a bundle that holds it. -/
def execPublish (idle : BitVec 3) (w : BitVec 4) (s : State) : Host.Outcome State Fault Refusal :=
  .next (issueS idle (semPublish w) s)

/-- SETPHASE (R269, R270). -/
def semSetphase (a : BitVec 5) (lead : BitVec 13) : Sem :=
  { uses := [a], vreads := [], preads := [],
    eff := fun s0 s =>
      let v := rdS s0.core a
      if !phaseImageOk v.toNat then .trap (mkTrap causeIllegal 1 v)
      else
        match curSlot s0 with
        | none => .stall
        | some slot =>
          .done (modCtx s slot (declare s0 v.toNat (gtimeOf s0 + 100 * lead.toNat))) none }
/-- SETPHASE: a bundle that holds it. -/
def execSetphase (idle : BitVec 3) (a : BitVec 5) (lead : BitVec 13) (s : State) : Host.Outcome State Fault Refusal :=
  .next (issueS idle (semSetphase a lead) s)

end Sys2Proof.Machine
end

