-- ==== Sys2Proof/Machine/Vector.lean ====
section
/-! DEFINITION. The V-slot instructions, integer and floating-point forms of each opcode together (R93 to R120, R144 to
R162, R193). Results of element functions carry their flags (`FRes`); integer forms carry none. -/
namespace Sys2Proof.Machine

/-- A result element per position: source poison and result. -/
abbrev ElOut := Bool × FRes

/-- An integer result: no flags, never invalid (R88). -/
def plain (x : Nat) : FRes := (x, false, 0)

/-- Results of a group under predication: elements in flight, flags of active positions raised (R83, R143). -/
def vecOut (s0 s : State) (lat b : Nat) (p : BitVec 4) (d : BitVec 8) (rs : List (List ElOut)) : SlotOut :=
  .done (withCore s (
    orFlags (putV s0 s.core lat b p d (rs.map fun l => l.map fun e => resEl e.1 e.2))
      (rs.foldl (fun a l => a ||| actFlags (rdP s0.core p) (l.map (·.2))) 0))) none

/-- Elementwise instruction of two sources (R92). The destination's old value counts among the registers read, which R91 checks,
also where PRED = 0 keeps nothing of it: the spec does not say, and the model lets every merging form read it (log 59). -/
def ew2 (lat : Nat) (ty p : BitVec 4) (d a b : BitVec 8) (f : Core → Nat → Nat → FRes) : Sem :=
  { uses := [], vreads := grpRegs a ++ grpRegs b ++ grpRegs d, preads := [p.toNat],
    eff := fun s0 s => vecOut s0 s lat (tyBits ty) p d
      (List.zipWith (List.zipWith fun x y => (x.z || y.z, f s0.core x.x y.x))
        (grpEls s0.core ty.toNat a) (grpEls s0.core ty.toNat b)) }

/-- Elementwise instruction of one source. -/
def ew1 (lat : Nat) (ty p : BitVec 4) (d a : BitVec 8) (f : Core → Nat → FRes) : Sem :=
  { uses := [], vreads := grpRegs a ++ grpRegs d, preads := [p.toNat],
    eff := fun s0 s => vecOut s0 s lat (tyBits ty) p d
      ((grpEls s0.core ty.toNat a).map fun l => l.map fun x => (x.z, f s0.core x.x)) }

/-- Elementwise instruction of three sources. -/
def ew3 (lat : Nat) (ty p : BitVec 4) (d a b c : BitVec 8) (f : Core → Nat → Nat → Nat → FRes) : Sem :=
  { uses := [], vreads := grpRegs a ++ grpRegs b ++ grpRegs c ++ grpRegs d, preads := [p.toNat],
    eff := fun s0 s => vecOut s0 s lat (tyBits ty) p d
      (List.zipWith (List.zipWith fun xy z => ((xy.1.z || xy.2.z) || z.z, f s0.core xy.1.x xy.2.x z.x))
        (List.zipWith List.zip (grpEls s0.core ty.toNat a) (grpEls s0.core ty.toNat b)) (grpEls s0.core ty.toNat c)) }

/-- An integer function of two elements with its own latency, or a floating-point function with latency 4. -/
def ewIF (ty p : BitVec 4) (d a b : BitVec 8) (lat : Nat) (fi : Nat → Nat → Nat)
    (ff : Fmt → Rmode → Nat → Nat → FRes) : Sem :=
  if isInt ty then ew2 lat ty p d a b (fun _ x y => plain (fi x y))
  else ew2 4 ty p d a b (fun c x y => ff (fmtOf ty.toNat) (rmOf c) x y)

/-- An integer function of two elements. -/
def ewI (lat : Nat) (ty p : BitVec 4) (d a b : BitVec 8) (f : Nat → Nat → Nat) : Sem :=
  ew2 lat ty p d a b (fun _ x y => plain (f x y))

/-- val(x) of R92 under a type. -/
def iv (ty : BitVec 4) (x : Nat) : Int := intVal ty.toNat x
/-- wrap(v) of R92 under a type. -/
def wr (ty : BitVec 4) (v : Int) : Nat := wrapTo (tyBits ty) v
/-- sat to the range of a type, as a pattern. -/
def st (ty : BitVec 4) (v : Int) : Nat := wr ty (sat v (intLo ty.toNat) (intHi ty.toNat))

/-- VSHL, VSHR and VSRA by a count (R94). -/
def shlEl (ty : BitVec 4) (x c : Nat) : Nat := if tyBits ty ≤ c then 0 else x * 2 ^ c % 2 ^ tyBits ty
def shrEl (ty : BitVec 4) (x c : Nat) : Nat := if tyBits ty ≤ c then 0 else x / 2 ^ c
def sraEl (ty : BitVec 4) (x c : Nat) : Nat :=
  wr ty (signed (tyBits ty) x / (2 ^ (if tyBits ty ≤ c then tyBits ty else c) : Nat))

/-- x AND NOT y within the element. -/
def andnEl (ty : BitVec 4) (x y : Nat) : Nat := Nat.land x (Nat.xor y (2 ^ tyBits ty - 1))

/-- The next wider type of the same signedness: 6→0, 7→1, 0→2, 1→3, 2→4, 3→5 (R98). -/
def wider (ty : BitVec 4) : BitVec 4 :=
  match ty.toNat with | 6 => 0 | 7 => 1 | 0 => 2 | 1 => 3 | 2 => 4 | _ => 5

/-- Activity of positions 0 to n − 1. -/
def acts (pr : PredBits) (n : Nat) : List Bool := (List.range n).map (pbit pr)

/-- A destination group whose activity is given per register. -/
def putA (s0 : State) (c : Core) (lat b : Nat) (d : BitVec 8) (as : List (List Bool)) (news : List (List El)) : Core :=
  launchV s0.core c lat (grpN d)
    (List.zipWith (fun old (an : List Bool × List El) => mergeReg b an.1 old an.2)
      (rdGroup s0.core (grpN d) (grpW d)) (as.zip news))

/-- Widening arithmetic (R86, R98), exact. -/
def widenSem (ty p : BitVec 4) (d a b : BitVec 8) (f : Int → Int → Int) : Sem :=
  { uses := [], vreads := grpRegs a ++ grpRegs b ++ grpRegs d, preads := [p.toNat],
    eff := fun s0 s =>
      let rs := List.zipWith (List.zipWith fun x y =>
          ({ x := wr (wider ty) (f (iv ty x.x) (iv ty y.x)), z := x.z || y.z } : El))
        (grpEls s0.core ty.toNat a) (grpEls s0.core ty.toNat b)
      let ac := acts (rdP s0.core p) (tyN ty)
      .done (withCore s (putA s0 s.core 3 (tyBits (wider ty)) d
        (rs.flatMap fun _ => [interleave 2 0 ac, interleave 2 1 ac])
        (rs.flatMap fun l => [interleave 2 0 l, interleave 2 1 l]))) none }

/-- A predicate result from bits (R84). -/
def predOut (s0 s : State) (lat : Nat) (d : BitVec 4) (l : List Bool) : SlotOut :=
  .done (withCore s (launchP s0.core s.core lat d (ofBits l))) none

/-- A predicate function of one bit each (R116). -/
def predSem (p d a b : BitVec 4) (f : Bool → Bool → Bool) : Sem :=
  { uses := [], vreads := [], preads := [p.toNat, a.toNat, b.toNat],
    eff := fun s0 s =>
      predOut s0 s 1 d ((List.range 1024).map fun j =>
        pbit (rdP s0.core p) j && f (pbit (rdP s0.core a) j) (pbit (rdP s0.core b) j)) }

/-- VCMP conditions on integers (R100). -/
def iCmp (cond : Nat) (a b : Int) : Bool :=
  match cond with
  | 0 => a == b | 1 => a != b | 2 => decide (a < b) | 3 => decide (a ≤ b) | 4 => decide (b < a) | _ => decide (b ≤ a)

/-- A reduction's result: element 0 computed, the rest zero, D written whole (R105, R153). -/
def redOut (s0 s : State) (ty : BitVec 4) (d : BitVec 8) (l : List El) (r : FRes) : SlotOut :=
  .done (withCore s (orFlags
    (putWhole s0 s.core 6 (tyBits ty) d [resEl (l.any (·.z)) r :: List.replicate (tyN ty - 1) El.zero]) r.2.2)) none

/-- Active elements of a flattened group, in ascending position (R105). -/
def activeEls (s0 : State) (ty p : BitVec 4) (a : BitVec 8) : List El :=
  (grpEls s0.core ty.toNat a).flatMap (activeOf (rdP s0.core p))

/-- A reduction. -/
def redSem (ty p : BitVec 4) (d a : BitVec 8) (fi : List Int → Int) (ff : Fmt → Rmode → List Nat → FRes) : Sem :=
  { uses := [], vreads := grpRegs a, preads := [p.toNat],
    eff := fun s0 s =>
      let l := activeEls s0 ty p a
      redOut s0 s ty d l
        (if isInt ty then plain (wr ty (fi (l.map fun e => iv ty e.x)))
         else ff (fmtOf ty.toNat) (rmOf s0.core) (l.map (·.x))) }

/-- VSCAN over a flattened group (R106, R155): `acc` are the active elements so far, latest first. -/
def scanEls (f : List El → ElOut) : List (El × Bool) → List El → List ElOut
  | [], _ => []
  | (e, act) :: r, acc => if act then f (e :: acc) :: scanEls f r (e :: acc) else (false, plain 0) :: scanEls f r acc

/-- Output of a scan for the active elements of its prefix, latest first. -/
def scanOut (ty : BitVec 4) (m : Rmode) (acc : List El) : ElOut :=
  (acc.any (·.z),
   if isInt ty then plain (wr ty ((acc.map fun e => iv ty e.x).foldl (· + ·) 0))
   else fRedAdd (fmtOf ty.toNat) m (acc.reverse.map (·.x)))

/-- Rank of VTOPK (R108): numeric value, every NaN below −Inf. -/
def topRank (ty : BitVec 4) (x : Nat) : Int :=
  if isInt ty then iv ty x else if (fdec (fmtOf ty.toNat) x).isNan then -(2 ^ 70 : Nat) else fnum (fmtOf ty.toNat) x

/-- Candidates by rank descending, then position ascending, at most `k` kept. -/
def topIns (k : Nat) (c : Int × Nat × El) (l : List (Int × Nat × El)) : List (Int × Nat × El) :=
  ((l.takeWhile fun o => decide (c.1 ≤ o.1)) ++ c :: (l.dropWhile fun o => decide (c.1 ≤ o.1))).take k

/-- Fill value of VTOPK (R108). -/
def topFill (ty : BitVec 4) : Nat := if isInt ty then wr ty (intLo ty.toNat) else infPat (fmtOf ty.toNat) true

/-- One element of a CB2 code in eighths (R114, R127). -/
def cb2Val (pal code i : Nat) : Int :=
  let m := pal / 2 ^ (24 * (code / 256 % 256)) / 2 ^ (3 * i) % 8
  let neg := if i ≤ 6 then code.testBit (1 + i) else popcount 7 (code / 2 % 128) % 2 == 1
  let v : Int := 2 * m + code % 2
  if neg then -v else v

/-- Palette by number (R115). -/
def palOf (c : Core) (n : Nat) : Nat := if n = 0 then c.pal0.toNat else c.pal1.toNat

/-- Mantissa of a tile element (R186). -/
def tileMan (t : Tile) (i j : Nat) : Int := signed 48 (t.m.toNat / 2 ^ (48 * (128 * i + j)) % 2 ^ 48)

/-- MODE, NV and EXP of a status word (R186). -/
def tileMode (t : Tile) : Bool := t.stat.getLsbD 63
def tileExp (t : Tile) : Int := signed 16 (bits t.stat.toNat 15 0)
def tileNv (t : Tile) (i : Nat) : Bool := t.stat.getLsbD (32 + i)

/-- Column j of a tile row cannot be read: a word of the element, or the status word, is uncorrectable (R198). -/
def colBad (c : Core) (k i j : Nat) : Bool :=
  let lo := 6 * (128 * i + j)
  c.badTiles.contains (127, k) ||
    c.badTiles.any (fun e => e.1 == k && decide (lo / 8 ≤ e.2) && decide (e.2 ≤ (lo + 5) / 8))

/-- Uncorrectable words of a tile row, logged (R198). -/
def logBadTile (s : State) (k i : Nat) : State :=
  s.core.badTiles.foldl (fun t e =>
    if (e.1 = k ∧ 96 * i ≤ e.2 ∧ e.2 < 96 * i + 96) ∨ e = (127, k) then
      logMc t (mcEntry 2 3 s.coreNo ((curSlot s).getD 0) (e.1 * 2 ^ 16 + e.2))
    else t) s

/-- One SCACC column (R193). -/
def scaccEl (F : Fmt) (m : Int) (e : Int) (nv set : Bool) (sc dv : Nat) : FRes :=
  let c := if set then 0 else dv
  if nv then invalid F else
    match nanprop F [c, sc] with
    | some n => (n, false, 0)
    | none => fusedSum F .rne [(fdec F sc, .fin (decide (m < 0)) m.natAbs e)] [fdec F c]

/-- Elements and activity of a VCVT's destination registers (R158): for each, its activity and its results. -/
def cvtPlace (bs bd : Nat) (ac : Nat → List Bool) (rs : List (List ElOut)) : List (List Bool × List ElOut) :=
  if bd = bs then rs.map fun l => (ac l.length, l)
  else if bd > bs then
    let r := bd / bs
    if r = 16 then
      (List.range 8).map fun h => (interleave 8 h (ac 512), interleave 8 h ((rs.headD []).take 512))
    else rs.flatMap fun l => (List.range r).map fun h => (interleave r h (ac l.length), interleave r h l)
  else
    let r := bs / bd
    let pick := fun (g : List (List ElOut)) (r : Nat) =>
      let n := (g.headD []).length
      (List.range (n * r)).map fun i => (g.getD (i % r) []).getD (i / r) (false, plain 0)
    if r = 16 then [(ac 512 ++ List.replicate 512 true, pick rs 8 ++ List.replicate 512 (false, plain 0))]
    else (chunks r (rs.length / r) rs).map fun g => (ac (pick g r).length, pick g r)

/-- The approximations and elementary functions (R160, R162). -/
def apxSem (lat : Nat) (ty p : BitVec 4) (d a : BitVec 8) (f : Fmt → Nat → FRes) : Sem :=
  ew1 lat ty p d a (fun _ x => f (fmtOf ty.toNat) x)

/-- VNOP (R93) has no effect. -/
def semVnop : Sem :=
  nopSem
/-- VNOP: a bundle that holds it. -/
def execVnop (s : State) : Host.Outcome State Fault Refusal :=
  .next (issueV semVnop s)

/-- VADD (R94, R148). -/
def semVadd (ty : BitVec 4) (p : BitVec 4) (d : BitVec 8) (a : BitVec 8) (b : BitVec 8) : Sem :=
  ewIF ty p d a b 2 (fun x y => wr ty (iv ty x + iv ty y)) (fun F m x y => fAdd F m false x y)
/-- VADD: a bundle that holds it. -/
def execVadd (ty : BitVec 4) (p : BitVec 4) (d : BitVec 8) (a : BitVec 8) (b : BitVec 8) (s : State) : Host.Outcome State Fault Refusal :=
  .next (issueV (semVadd ty p d a b) s)

/-- VSUB (R94, R148). -/
def semVsub (ty : BitVec 4) (p : BitVec 4) (d : BitVec 8) (a : BitVec 8) (b : BitVec 8) : Sem :=
  ewIF ty p d a b 2 (fun x y => wr ty (iv ty x - iv ty y)) (fun F m x y => fAdd F m true x y)
/-- VSUB: a bundle that holds it. -/
def execVsub (ty : BitVec 4) (p : BitVec 4) (d : BitVec 8) (a : BitVec 8) (b : BitVec 8) (s : State) : Host.Outcome State Fault Refusal :=
  .next (issueV (semVsub ty p d a b) s)

/-- VMUL (R94, R148). -/
def semVmul (ty : BitVec 4) (p : BitVec 4) (d : BitVec 8) (a : BitVec 8) (b : BitVec 8) : Sem :=
  ewIF ty p d a b 3 (fun x y => wr ty (iv ty x * iv ty y)) fMul
/-- VMUL: a bundle that holds it. -/
def execVmul (ty : BitVec 4) (p : BitVec 4) (d : BitVec 8) (a : BitVec 8) (b : BitVec 8) (s : State) : Host.Outcome State Fault Refusal :=
  .next (issueV (semVmul ty p d a b) s)

/-- VMULH (R94): the high half of the exact product. -/
def semVmulh (ty : BitVec 4) (p : BitVec 4) (d : BitVec 8) (a : BitVec 8) (b : BitVec 8) : Sem :=
  ewI 3 ty p d a b (fun x y => wr ty (iv ty x * iv ty y / (2 ^ tyBits ty : Nat)))
/-- VMULH: a bundle that holds it. -/
def execVmulh (ty : BitVec 4) (p : BitVec 4) (d : BitVec 8) (a : BitVec 8) (b : BitVec 8) (s : State) : Host.Outcome State Fault Refusal :=
  .next (issueV (semVmulh ty p d a b) s)

/-- VADDS (R94), saturating. -/
def semVadds (ty : BitVec 4) (p : BitVec 4) (d : BitVec 8) (a : BitVec 8) (b : BitVec 8) : Sem :=
  ewI 2 ty p d a b (fun x y => st ty (iv ty x + iv ty y))
/-- VADDS: a bundle that holds it. -/
def execVadds (ty : BitVec 4) (p : BitVec 4) (d : BitVec 8) (a : BitVec 8) (b : BitVec 8) (s : State) : Host.Outcome State Fault Refusal :=
  .next (issueV (semVadds ty p d a b) s)

/-- VSUBS (R94), saturating. -/
def semVsubs (ty : BitVec 4) (p : BitVec 4) (d : BitVec 8) (a : BitVec 8) (b : BitVec 8) : Sem :=
  ewI 2 ty p d a b (fun x y => st ty (iv ty x - iv ty y))
/-- VSUBS: a bundle that holds it. -/
def execVsubs (ty : BitVec 4) (p : BitVec 4) (d : BitVec 8) (a : BitVec 8) (b : BitVec 8) (s : State) : Host.Outcome State Fault Refusal :=
  .next (issueV (semVsubs ty p d a b) s)

/-- VMIN (R94, R150). -/
def semVmin (ty : BitVec 4) (p : BitVec 4) (d : BitVec 8) (a : BitVec 8) (b : BitVec 8) : Sem :=
  ewIF ty p d a b 2 (fun x y => if iv ty y < iv ty x then y else x) (fun F _ x y => plain (fMinMax F false x y))
/-- VMIN: a bundle that holds it. -/
def execVmin (ty : BitVec 4) (p : BitVec 4) (d : BitVec 8) (a : BitVec 8) (b : BitVec 8) (s : State) : Host.Outcome State Fault Refusal :=
  .next (issueV (semVmin ty p d a b) s)

/-- VMAX (R94, R150). -/
def semVmax (ty : BitVec 4) (p : BitVec 4) (d : BitVec 8) (a : BitVec 8) (b : BitVec 8) : Sem :=
  ewIF ty p d a b 2 (fun x y => if iv ty x < iv ty y then y else x) (fun F _ x y => plain (fMinMax F true x y))
/-- VMAX: a bundle that holds it. -/
def execVmax (ty : BitVec 4) (p : BitVec 4) (d : BitVec 8) (a : BitVec 8) (b : BitVec 8) (s : State) : Host.Outcome State Fault Refusal :=
  .next (issueV (semVmax ty p d a b) s)

/-- VABS (R95, R151). -/
def semVabs (ty : BitVec 4) (p : BitVec 4) (d : BitVec 8) (a : BitVec 8) : Sem :=
  if isInt ty then ew1 2 ty p d a (fun _ x => plain (wr ty (iv ty x).natAbs))
  else ew1 4 ty p d a (fun _ x => plain (x % 2 ^ (tyBits ty - 1)))
/-- VABS: a bundle that holds it. -/
def execVabs (ty : BitVec 4) (p : BitVec 4) (d : BitVec 8) (a : BitVec 8) (s : State) : Host.Outcome State Fault Refusal :=
  .next (issueV (semVabs ty p d a) s)

/-- VNEG (R95, R151). -/
def semVneg (ty : BitVec 4) (p : BitVec 4) (d : BitVec 8) (a : BitVec 8) : Sem :=
  if isInt ty then ew1 2 ty p d a (fun _ x => plain (wr ty (-iv ty x)))
  else ew1 4 ty p d a (fun _ x => plain ((x + 2 ^ (tyBits ty - 1)) % 2 ^ tyBits ty))
/-- VNEG: a bundle that holds it. -/
def execVneg (ty : BitVec 4) (p : BitVec 4) (d : BitVec 8) (a : BitVec 8) (s : State) : Host.Outcome State Fault Refusal :=
  .next (issueV (semVneg ty p d a) s)

/-- VMULW (R98). -/
def semVmulw (ty : BitVec 4) (p : BitVec 4) (d : BitVec 8) (a : BitVec 8) (b : BitVec 8) : Sem :=
  widenSem ty p d a b (· * ·)
/-- VMULW: a bundle that holds it. -/
def execVmulw (ty : BitVec 4) (p : BitVec 4) (d : BitVec 8) (a : BitVec 8) (b : BitVec 8) (s : State) : Host.Outcome State Fault Refusal :=
  .next (issueV (semVmulw ty p d a b) s)

/-- VADDW (R98). -/
def semVaddw (ty : BitVec 4) (p : BitVec 4) (d : BitVec 8) (a : BitVec 8) (b : BitVec 8) : Sem :=
  widenSem ty p d a b (· + ·)
/-- VADDW: a bundle that holds it. -/
def execVaddw (ty : BitVec 4) (p : BitVec 4) (d : BitVec 8) (a : BitVec 8) (b : BitVec 8) (s : State) : Host.Outcome State Fault Refusal :=
  .next (issueV (semVaddw ty p d a b) s)

/-- VNARROW (R99), saturating. -/
def semVnarrow (ty : BitVec 4) (p : BitVec 4) (d : BitVec 8) (a : BitVec 8) : Sem :=
  { uses := [], vreads := grpRegs a ++ grpRegs d, preads := [p.toNat],
    eff := fun s0 s => vecOut s0 s 3 (tyBits ty) p d
      ((chunks 2 (grpW d) (grpEls s0.core (wider ty).toNat a)).map fun g =>
        (deinterleave 2 g).map fun e => (e.z, plain (st ty (iv (wider ty) e.x)))) }
/-- VNARROW: a bundle that holds it. -/
def execVnarrow (ty : BitVec 4) (p : BitVec 4) (d : BitVec 8) (a : BitVec 8) (s : State) : Host.Outcome State Fault Refusal :=
  .next (issueV (semVnarrow ty p d a) s)

/-- VADDI (R96). -/
def semVaddi (ty : BitVec 4) (p : BitVec 4) (d : BitVec 8) (a : BitVec 8) (imm : BitVec 8) : Sem :=
  ew1 2 ty p d a (fun _ x => plain (wr ty (iv ty x + imm.toInt)))
/-- VADDI: a bundle that holds it. -/
def execVaddi (ty : BitVec 4) (p : BitVec 4) (d : BitVec 8) (a : BitVec 8) (imm : BitVec 8) (s : State) : Host.Outcome State Fault Refusal :=
  .next (issueV (semVaddi ty p d a imm) s)

/-- VMAC (R97): the old destination is a source. -/
def semVmac (ty : BitVec 4) (p : BitVec 4) (d : BitVec 8) (a : BitVec 8) (b : BitVec 8) : Sem :=
  ew3 3 ty p d d a b (fun _ x y z => plain (wr ty (iv ty x + iv ty y * iv ty z)))
/-- VMAC: a bundle that holds it. -/
def execVmac (ty : BitVec 4) (p : BitVec 4) (d : BitVec 8) (a : BitVec 8) (b : BitVec 8) (s : State) : Host.Outcome State Fault Refusal :=
  .next (issueV (semVmac ty p d a b) s)

/-- VAND (R94). -/
def semVand (ty : BitVec 4) (p : BitVec 4) (d : BitVec 8) (a : BitVec 8) (b : BitVec 8) : Sem :=
  ewI 2 ty p d a b Nat.land
/-- VAND: a bundle that holds it. -/
def execVand (ty : BitVec 4) (p : BitVec 4) (d : BitVec 8) (a : BitVec 8) (b : BitVec 8) (s : State) : Host.Outcome State Fault Refusal :=
  .next (issueV (semVand ty p d a b) s)

/-- VOR (R94). -/
def semVor (ty : BitVec 4) (p : BitVec 4) (d : BitVec 8) (a : BitVec 8) (b : BitVec 8) : Sem :=
  ewI 2 ty p d a b Nat.lor
/-- VOR: a bundle that holds it. -/
def execVor (ty : BitVec 4) (p : BitVec 4) (d : BitVec 8) (a : BitVec 8) (b : BitVec 8) (s : State) : Host.Outcome State Fault Refusal :=
  .next (issueV (semVor ty p d a b) s)

/-- VXOR (R94). -/
def semVxor (ty : BitVec 4) (p : BitVec 4) (d : BitVec 8) (a : BitVec 8) (b : BitVec 8) : Sem :=
  ewI 2 ty p d a b Nat.xor
/-- VXOR: a bundle that holds it. -/
def execVxor (ty : BitVec 4) (p : BitVec 4) (d : BitVec 8) (a : BitVec 8) (b : BitVec 8) (s : State) : Host.Outcome State Fault Refusal :=
  .next (issueV (semVxor ty p d a b) s)

/-- VANDN (R94). -/
def semVandn (ty : BitVec 4) (p : BitVec 4) (d : BitVec 8) (a : BitVec 8) (b : BitVec 8) : Sem :=
  ewI 2 ty p d a b (andnEl ty)
/-- VANDN: a bundle that holds it. -/
def execVandn (ty : BitVec 4) (p : BitVec 4) (d : BitVec 8) (a : BitVec 8) (b : BitVec 8) (s : State) : Host.Outcome State Fault Refusal :=
  .next (issueV (semVandn ty p d a b) s)

/-- VNOT (R95). -/
def semVnot (ty : BitVec 4) (p : BitVec 4) (d : BitVec 8) (a : BitVec 8) : Sem :=
  ew1 2 ty p d a (fun _ x => plain (Nat.xor x (2 ^ tyBits ty - 1)))
/-- VNOT: a bundle that holds it. -/
def execVnot (ty : BitVec 4) (p : BitVec 4) (d : BitVec 8) (a : BitVec 8) (s : State) : Host.Outcome State Fault Refusal :=
  .next (issueV (semVnot ty p d a) s)

/-- VSHL (R94). -/
def semVshl (ty : BitVec 4) (p : BitVec 4) (d : BitVec 8) (a : BitVec 8) (b : BitVec 8) : Sem :=
  ewI 2 ty p d a b (shlEl ty)
/-- VSHL: a bundle that holds it. -/
def execVshl (ty : BitVec 4) (p : BitVec 4) (d : BitVec 8) (a : BitVec 8) (b : BitVec 8) (s : State) : Host.Outcome State Fault Refusal :=
  .next (issueV (semVshl ty p d a b) s)

/-- VSHR (R94). -/
def semVshr (ty : BitVec 4) (p : BitVec 4) (d : BitVec 8) (a : BitVec 8) (b : BitVec 8) : Sem :=
  ewI 2 ty p d a b (shrEl ty)
/-- VSHR: a bundle that holds it. -/
def execVshr (ty : BitVec 4) (p : BitVec 4) (d : BitVec 8) (a : BitVec 8) (b : BitVec 8) (s : State) : Host.Outcome State Fault Refusal :=
  .next (issueV (semVshr ty p d a b) s)

/-- VSRA (R94). -/
def semVsra (ty : BitVec 4) (p : BitVec 4) (d : BitVec 8) (a : BitVec 8) (b : BitVec 8) : Sem :=
  ewI 2 ty p d a b (sraEl ty)
/-- VSRA: a bundle that holds it. -/
def execVsra (ty : BitVec 4) (p : BitVec 4) (d : BitVec 8) (a : BitVec 8) (b : BitVec 8) (s : State) : Host.Outcome State Fault Refusal :=
  .next (issueV (semVsra ty p d a b) s)

/-- VSHLI (R96). -/
def semVshli (ty : BitVec 4) (p : BitVec 4) (d : BitVec 8) (a : BitVec 8) (imm : BitVec 8) : Sem :=
  ew1 2 ty p d a (fun _ x => plain (shlEl ty x imm.toNat))
/-- VSHLI: a bundle that holds it. -/
def execVshli (ty : BitVec 4) (p : BitVec 4) (d : BitVec 8) (a : BitVec 8) (imm : BitVec 8) (s : State) : Host.Outcome State Fault Refusal :=
  .next (issueV (semVshli ty p d a imm) s)

/-- VSHRI (R96). -/
def semVshri (ty : BitVec 4) (p : BitVec 4) (d : BitVec 8) (a : BitVec 8) (imm : BitVec 8) : Sem :=
  ew1 2 ty p d a (fun _ x => plain (shrEl ty x imm.toNat))
/-- VSHRI: a bundle that holds it. -/
def execVshri (ty : BitVec 4) (p : BitVec 4) (d : BitVec 8) (a : BitVec 8) (imm : BitVec 8) (s : State) : Host.Outcome State Fault Refusal :=
  .next (issueV (semVshri ty p d a imm) s)

/-- VSRAI (R96). -/
def semVsrai (ty : BitVec 4) (p : BitVec 4) (d : BitVec 8) (a : BitVec 8) (imm : BitVec 8) : Sem :=
  ew1 2 ty p d a (fun _ x => plain (sraEl ty x imm.toNat))
/-- VSRAI: a bundle that holds it. -/
def execVsrai (ty : BitVec 4) (p : BitVec 4) (d : BitVec 8) (a : BitVec 8) (imm : BitVec 8) (s : State) : Host.Outcome State Fault Refusal :=
  .next (issueV (semVsrai ty p d a imm) s)

/-- VCMP (R100, R152): a poisoned or inactive position yields 0. -/
def semVcmp (ty : BitVec 4) (p : BitVec 4) (d : BitVec 4) (a : BitVec 8) (b : BitVec 8) (imm : BitVec 8) : Sem :=
  { uses := [], vreads := grpRegs a ++ grpRegs b, preads := [p.toNat],
    eff := fun s0 s =>
      predOut s0 s (if isInt ty then 2 else 4) d
        (((List.zip (oneEls s0.core ty.toNat a) (oneEls s0.core ty.toNat b)).zipIdx).map fun q =>
          pbit (rdP s0.core p) q.2 && !(q.1.1.z || q.1.2.z) &&
            (if isInt ty then iCmp imm.toNat (iv ty q.1.1.x) (iv ty q.1.2.x)
             else fCmp (fmtOf ty.toNat) imm.toNat q.1.1.x q.1.2.x)) }
/-- VCMP: a bundle that holds it. -/
def execVcmp (ty : BitVec 4) (p : BitVec 4) (d : BitVec 4) (a : BitVec 8) (b : BitVec 8) (imm : BitVec 8) (s : State) : Host.Outcome State Fault Refusal :=
  .next (issueV (semVcmp ty p d a b imm) s)

/-- VSEL (R101): the poison of the chosen element only. -/
def semVsel (ty : BitVec 4) (p : BitVec 4) (d : BitVec 8) (a : BitVec 8) (b : BitVec 8) (c : BitVec 4) : Sem :=
  { uses := [], vreads := grpRegs a ++ grpRegs b ++ grpRegs d, preads := [p.toNat, c.toNat],
    eff := fun s0 s => vecOut s0 s 2 (tyBits ty) p d
      (List.zipWith (fun la lb => ((la.zip lb).zipIdx).map fun q =>
          let e := if pbit (rdP s0.core c) q.2 then q.1.1 else q.1.2
          (e.z, plain e.x))
        (grpEls s0.core ty.toNat a) (grpEls s0.core ty.toNat b)) }
/-- VSEL: a bundle that holds it. -/
def execVsel (ty : BitVec 4) (p : BitVec 4) (d : BitVec 8) (a : BitVec 8) (b : BitVec 8) (c : BitVec 4) (s : State) : Host.Outcome State Fault Refusal :=
  .next (issueV (semVsel ty p d a b c) s)

/-- VSPLAT (R102). -/
def semVsplat (ty : BitVec 4) (p : BitVec 4) (d : BitVec 8) (a : BitVec 5) : Sem :=
  { uses := [a], vreads := grpRegs d, preads := [p.toNat],
    eff := fun s0 s =>
      let x := (rdS s0.core a).toNat % 2 ^ (if ty = 15 then 6 else tyBits ty)
      vecOut s0 s 2 (tyBits ty) p d (List.replicate (grpW d) (List.replicate (tyN ty) (false, plain x))) }
/-- VSPLAT: a bundle that holds it. -/
def execVsplat (ty : BitVec 4) (p : BitVec 4) (d : BitVec 8) (a : BitVec 5) (s : State) : Host.Outcome State Fault Refusal :=
  .next (issueV (semVsplat ty p d a) s)

/-- VSPLATI (R102). -/
def semVsplati (ty : BitVec 4) (p : BitVec 4) (d : BitVec 8) (imm : BitVec 16) : Sem :=
  { uses := [], vreads := grpRegs d, preads := [p.toNat],
    eff := fun s0 s =>
      let x := if ty = 4 then wrapTo 32 (signed 16 imm.toNat) else imm.toNat % 2 ^ tyBits ty
      vecOut s0 s 2 (tyBits ty) p d (List.replicate (grpW d) (List.replicate (tyN ty) (false, plain x))) }
/-- VSPLATI: a bundle that holds it. -/
def execVsplati (ty : BitVec 4) (p : BitVec 4) (d : BitVec 8) (imm : BitVec 16) (s : State) : Host.Outcome State Fault Refusal :=
  .next (issueV (semVsplati ty p d imm) s)

/-- VINS (R103): only the active element at the index changes. -/
def semVins (ty : BitVec 4) (p : BitVec 4) (d : BitVec 8) (a : BitVec 5) (b : BitVec 5) : Sem :=
  { uses := [a, b], vreads := grpRegs d, preads := [p.toNat],
    eff := fun s0 s =>
      let x := (rdS s0.core a).toNat % 2 ^ (if ty = 15 then 6 else tyBits ty)
      let i := (rdS s0.core b).toNat
      .done (withCore s (putA s0 s.core 2 (tyBits ty) d
        [(List.range (tyN ty)).map fun j => j == i && pbit (rdP s0.core p) j]
        [List.replicate (tyN ty) { x := x, z := false }])) none }
/-- VINS: a bundle that holds it. -/
def execVins (ty : BitVec 4) (p : BitVec 4) (d : BitVec 8) (a : BitVec 5) (b : BitVec 5) (s : State) : Host.Outcome State Fault Refusal :=
  .next (issueV (semVins ty p d a b) s)

/-- VEXT (R104): a poisoned element raises POISON_STORE; latency 4. -/
def semVext (ty : BitVec 4) (d : BitVec 5) (a : BitVec 8) (b : BitVec 5) : Sem :=
  { uses := [d, b], vreads := grpRegs a, preads := [],
    eff := fun s0 s =>
      let i := (rdS s0.core b).toNat
      if tyN ty ≤ i then .done (withCore s (wrSL s.core 4 d 0)) none
      else
        let e := (oneEls s0.core ty.toNat a).getD i El.zero
        if e.z then .trap (mkTrap causePoison 2 0)
        else .done (withCore s (wrSL s.core 4 d
          (if isSint ty then BitVec.ofInt 64 (signed (tyBits ty) e.x) else .ofNat 64 e.x))) none }
/-- VEXT: a bundle that holds it. -/
def execVext (ty : BitVec 4) (d : BitVec 5) (a : BitVec 8) (b : BitVec 5) (s : State) : Host.Outcome State Fault Refusal :=
  .next (issueV (semVext ty d a b) s)

/-- VMOV (R95), as bits. -/
def semVmov (ty : BitVec 4) (p : BitVec 4) (d : BitVec 8) (a : BitVec 8) : Sem :=
  ew1 2 ty p d a (fun _ x => plain x)
/-- VMOV: a bundle that holds it. -/
def execVmov (ty : BitVec 4) (p : BitVec 4) (d : BitVec 8) (a : BitVec 8) (s : State) : Host.Outcome State Fault Refusal :=
  .next (issueV (semVmov ty p d a) s)

/-- VFMA (R149): a·b + c. -/
def semVfma (ty : BitVec 4) (p : BitVec 4) (d : BitVec 8) (a : BitVec 8) (b : BitVec 8) (c : BitVec 8) : Sem :=
  ew3 4 ty p d a b c (fun k x y z => fFma (fmtOf ty.toNat) (rmOf k) false false x y z)
/-- VFMA: a bundle that holds it. -/
def execVfma (ty : BitVec 4) (p : BitVec 4) (d : BitVec 8) (a : BitVec 8) (b : BitVec 8) (c : BitVec 8) (s : State) : Host.Outcome State Fault Refusal :=
  .next (issueV (semVfma ty p d a b c) s)

/-- VFMS (R149): a·b − c. -/
def semVfms (ty : BitVec 4) (p : BitVec 4) (d : BitVec 8) (a : BitVec 8) (b : BitVec 8) (c : BitVec 8) : Sem :=
  ew3 4 ty p d a b c (fun k x y z => fFma (fmtOf ty.toNat) (rmOf k) false true x y z)
/-- VFMS: a bundle that holds it. -/
def execVfms (ty : BitVec 4) (p : BitVec 4) (d : BitVec 8) (a : BitVec 8) (b : BitVec 8) (c : BitVec 8) (s : State) : Host.Outcome State Fault Refusal :=
  .next (issueV (semVfms ty p d a b c) s)

/-- VFNMA (R149): c − a·b. -/
def semVfnma (ty : BitVec 4) (p : BitVec 4) (d : BitVec 8) (a : BitVec 8) (b : BitVec 8) (c : BitVec 8) : Sem :=
  ew3 4 ty p d a b c (fun k x y z => fFma (fmtOf ty.toNat) (rmOf k) true false x y z)
/-- VFNMA: a bundle that holds it. -/
def execVfnma (ty : BitVec 4) (p : BitVec 4) (d : BitVec 8) (a : BitVec 8) (b : BitVec 8) (c : BitVec 8) (s : State) : Host.Outcome State Fault Refusal :=
  .next (issueV (semVfnma ty p d a b c) s)

/-- The conversion widens sixteen times: of A it reads positions 0 to 511 alone (R158). -/
def cvtSixteen (ty : BitVec 4) (imm : BitVec 8) : Bool := cvtBits (cvtDst imm) == 16 * cvtBits (cvtSrc ty imm)

/-- VCVT (R157 to R159). -/
def semVcvt (ty : BitVec 4) (p : BitVec 4) (d : BitVec 8) (a : BitVec 8) (imm : BitVec 8) : Sem :=
  { uses := [], vreads := (if cvtSixteen ty imm then [] else grpRegs a) ++ grpRegs d, preads := [p.toNat],
    vhalf := if cvtSixteen ty imm then grpRegs a else [],
    eff := fun s0 s =>
      let f := cvtSrc ty imm
      let t := cvtDst imm
      let mode := if imm.toNat / 32 % 4 = 3 then rmOf s0.core else rmodeOf (imm.toNat / 32 % 4)
      let rs := (grpEls s0.core f a).map fun l => l.map fun e => ((e.z, convert f t mode e.x) : ElOut)
      let pl := cvtPlace (cvtBits f) (cvtBits t) (acts (rdP s0.core p)) rs
      .done (withCore s (orFlags
        (putA s0 s.core 4 (cvtBits t) d (pl.map (·.1)) (pl.map fun q => q.2.map fun e => resEl e.1 e.2))
        (pl.foldl (fun a q => (List.zip q.1 q.2).foldl (fun a e => if e.1 then a ||| e.2.2.2.2 else a) a) 0))) none }
/-- VCVT: a bundle that holds it. -/
def execVcvt (ty : BitVec 4) (p : BitVec 4) (d : BitVec 8) (a : BitVec 8) (imm : BitVec 8) (s : State) : Host.Outcome State Fault Refusal :=
  .next (issueV (semVcvt ty p d a imm) s)

/-- VDOT (R156). -/
def semVdot (ty : BitVec 4) (p : BitVec 4) (d : BitVec 8) (a : BitVec 8) (b : BitVec 8) (c : BitVec 8) : Sem :=
  { uses := [], vreads := grpRegs a ++ grpRegs b ++ grpRegs c ++ grpRegs d, preads := [p.toNat],
    eff := fun s0 s =>
      let g := 32 / tyBits ty
      let one := fun (la lb lc : List El) => (lc.zipIdx).map fun q =>
        let xa := (la.drop (g * q.2)).take g
        let xb := (lb.drop (g * q.2)).take g
        let z := xa.any (·.z) || xb.any (·.z) || q.1.z
        ((z, if isInt ty then
              plain (wrapTo 32 ((List.zipWith (fun x y => iv ty x.x * iv ty y.x) xa xb).foldl (· + ·) 0 +
                (if ty = 0 then signed 32 q.1.x else (q.1.x : Int))))
            else fDot ty.toNat (rmOf s0.core) (xa.map (·.x)) (xb.map (·.x)) q.1.x) : ElOut)
      vecOut s0 s 6 32 p d
        (List.zipWith (fun (ab : List El × List El) lc => one ab.1 ab.2 lc)
          ((grpEls s0.core ty.toNat a).zip (grpEls s0.core ty.toNat b)) (grpEls s0.core 5 c)) }
/-- VDOT: a bundle that holds it. -/
def execVdot (ty : BitVec 4) (p : BitVec 4) (d : BitVec 8) (a : BitVec 8) (b : BitVec 8) (c : BitVec 8) (s : State) : Host.Outcome State Fault Refusal :=
  .next (issueV (semVdot ty p d a b c) s)

/-- VRCP (R160). -/
def semVrcp (ty : BitVec 4) (p : BitVec 4) (d : BitVec 8) (a : BitVec 8) : Sem :=
  apxSem 5 ty p d a fRcp
/-- VRCP: a bundle that holds it. -/
def execVrcp (ty : BitVec 4) (p : BitVec 4) (d : BitVec 8) (a : BitVec 8) (s : State) : Host.Outcome State Fault Refusal :=
  .next (issueV (semVrcp ty p d a) s)

/-- VRSQ (R160). -/
def semVrsq (ty : BitVec 4) (p : BitVec 4) (d : BitVec 8) (a : BitVec 8) : Sem :=
  apxSem 5 ty p d a fRsq
/-- VRSQ: a bundle that holds it. -/
def execVrsq (ty : BitVec 4) (p : BitVec 4) (d : BitVec 8) (a : BitVec 8) (s : State) : Host.Outcome State Fault Refusal :=
  .next (issueV (semVrsq ty p d a) s)

/-- VRCPN (R161): a is the approximation, b the original. -/
def semVrcpn (ty : BitVec 4) (p : BitVec 4) (d : BitVec 8) (a : BitVec 8) (b : BitVec 8) : Sem :=
  ew2 4 ty p d a b (fun _ y x => fNewton (fmtOf ty.toNat) false y x)
/-- VRCPN: a bundle that holds it. -/
def execVrcpn (ty : BitVec 4) (p : BitVec 4) (d : BitVec 8) (a : BitVec 8) (b : BitVec 8) (s : State) : Host.Outcome State Fault Refusal :=
  .next (issueV (semVrcpn ty p d a b) s)

/-- VRSQN (R161). -/
def semVrsqn (ty : BitVec 4) (p : BitVec 4) (d : BitVec 8) (a : BitVec 8) (b : BitVec 8) : Sem :=
  ew2 4 ty p d a b (fun _ y x => fNewton (fmtOf ty.toNat) true y x)
/-- VRSQN: a bundle that holds it. -/
def execVrsqn (ty : BitVec 4) (p : BitVec 4) (d : BitVec 8) (a : BitVec 8) (b : BitVec 8) (s : State) : Host.Outcome State Fault Refusal :=
  .next (issueV (semVrsqn ty p d a b) s)

/-- VEXP2 (R162). -/
def semVexp2 (ty : BitVec 4) (p : BitVec 4) (d : BitVec 8) (a : BitVec 8) : Sem :=
  apxSem 8 ty p d a fExp2
/-- VEXP2: a bundle that holds it. -/
def execVexp2 (ty : BitVec 4) (p : BitVec 4) (d : BitVec 8) (a : BitVec 8) (s : State) : Host.Outcome State Fault Refusal :=
  .next (issueV (semVexp2 ty p d a) s)

/-- VLOG2 (R162). -/
def semVlog2 (ty : BitVec 4) (p : BitVec 4) (d : BitVec 8) (a : BitVec 8) : Sem :=
  apxSem 8 ty p d a fLog2
/-- VLOG2: a bundle that holds it. -/
def execVlog2 (ty : BitVec 4) (p : BitVec 4) (d : BitVec 8) (a : BitVec 8) (s : State) : Host.Outcome State Fault Refusal :=
  .next (issueV (semVlog2 ty p d a) s)

/-- VREDADD (R105, R153). -/
def semVredadd (ty : BitVec 4) (p : BitVec 4) (d : BitVec 8) (a : BitVec 8) : Sem :=
  redSem ty p d a (fun l => l.foldl (· + ·) 0) fRedAdd
/-- VREDADD: a bundle that holds it. -/
def execVredadd (ty : BitVec 4) (p : BitVec 4) (d : BitVec 8) (a : BitVec 8) (s : State) : Host.Outcome State Fault Refusal :=
  .next (issueV (semVredadd ty p d a) s)

/-- VREDMIN (R105, R154). -/
def semVredmin (ty : BitVec 4) (p : BitVec 4) (d : BitVec 8) (a : BitVec 8) : Sem :=
  redSem ty p d a (fun l => l.foldl (fun m x => if x < m then x else m) (intHi ty.toNat))
    (fun F _ l => plain (fRedMinMax F false l))
/-- VREDMIN: a bundle that holds it. -/
def execVredmin (ty : BitVec 4) (p : BitVec 4) (d : BitVec 8) (a : BitVec 8) (s : State) : Host.Outcome State Fault Refusal :=
  .next (issueV (semVredmin ty p d a) s)

/-- VREDMAX (R105, R154). -/
def semVredmax (ty : BitVec 4) (p : BitVec 4) (d : BitVec 8) (a : BitVec 8) : Sem :=
  redSem ty p d a (fun l => l.foldl (fun m x => if m < x then x else m) (intLo ty.toNat))
    (fun F _ l => plain (fRedMinMax F true l))
/-- VREDMAX: a bundle that holds it. -/
def execVredmax (ty : BitVec 4) (p : BitVec 4) (d : BitVec 8) (a : BitVec 8) (s : State) : Host.Outcome State Fault Refusal :=
  .next (issueV (semVredmax ty p d a) s)

/-- VSCAN (R106, R155). -/
def semVscan (ty : BitVec 4) (p : BitVec 4) (d : BitVec 8) (a : BitVec 8) : Sem :=
  { uses := [], vreads := grpRegs a ++ grpRegs d, preads := [p.toNat],
    eff := fun s0 s =>
      let l := (grpEls s0.core ty.toNat a).flatMap fun r => r.zip (acts (rdP s0.core p) (tyN ty))
      vecOut s0 s 8 (tyBits ty) p d
        (chunks (tyN ty) (grpW d) (scanEls (scanOut ty (rmOf s0.core)) l [])) }
/-- VSCAN: a bundle that holds it. -/
def execVscan (ty : BitVec 4) (p : BitVec 4) (d : BitVec 8) (a : BitVec 8) (s : State) : Host.Outcome State Fault Refusal :=
  .next (issueV (semVscan ty p d a) s)

/-- VPPOPC (R107): the ones of Pa below each flattened position. -/
def semVppopc (ty : BitVec 4) (p : BitVec 4) (d : BitVec 8) (a : BitVec 4) : Sem :=
  { uses := [], vreads := grpRegs d, preads := [p.toNat, a.toNat],
    eff := fun s0 s =>
      let pa := (rdP s0.core a).toNat
      vecOut s0 s 4 (tyBits ty) p d
        ((List.range (grpW d)).map fun k => (List.range (tyN ty)).map fun j =>
          (false, plain (popcount (k * tyN ty + j) (pa % 2 ^ (k * tyN ty + j))))) }
/-- VPPOPC: a bundle that holds it. -/
def execVppopc (ty : BitVec 4) (p : BitVec 4) (d : BitVec 8) (a : BitVec 4) (s : State) : Host.Outcome State Fault Refusal :=
  .next (issueV (semVppopc ty p d a) s)

/-- VTOPK (R108): values to D, UI16 indices to B, both whole. -/
def semVtopk (ty : BitVec 4) (p : BitVec 4) (d : BitVec 8) (a : BitVec 8) (b : BitVec 8) (imm : BitVec 8) : Sem :=
  { uses := [], vreads := grpRegs a, preads := [p.toNat],
    eff := fun s0 s =>
      let k := topkK imm
      let l := ((grpEls s0.core ty.toNat a).zipIdx).flatMap fun r =>
        activeOf (rdP s0.core p) ((r.1.zipIdx).map fun e => (topRank ty e.1.x, r.2 * tyN ty + e.2, e.1))
      let top := l.foldl (fun acc c => topIns k c acc) []
      let c1 := putWhole s0 s.core 16 (tyBits ty) d
        [(List.range (tyN ty)).map fun i => if i < k then
            (match top[i]? with | some t => t.2.2 | none => { x := topFill ty, z := false }) else El.zero]
      .done (withCore s (putWhole s0 c1 16 16 b
        [(List.range 256).map fun i => if i < k then
            (match top[i]? with | some t => { x := t.2.1, z := t.2.2.z } | none => { x := 0xFFFF, z := false })
          else El.zero])) none }
/-- VTOPK: a bundle that holds it. -/
def execVtopk (ty : BitVec 4) (p : BitVec 4) (d : BitVec 8) (a : BitVec 8) (b : BitVec 8) (imm : BitVec 8) (s : State) : Host.Outcome State Fault Refusal :=
  .next (issueV (semVtopk ty p d a b imm) s)

/-- VPERM (R109): UI16 indices in B. -/
def semVperm (ty : BitVec 4) (p : BitVec 4) (d : BitVec 8) (a : BitVec 8) (b : BitVec 8) : Sem :=
  { uses := [], vreads := grpRegs a ++ grpRegs b ++ grpRegs d, preads := [p.toNat],
    eff := fun s0 s =>
      let src := oneEls s0.core ty.toNat a
      vecOut s0 s 3 (tyBits ty) p d
        [((flatEls s0.core 3 b).take (tyN ty)).map fun i =>
          if i.x < tyN ty then
            ((src.getD i.x El.zero).z || i.z, plain (src.getD i.x El.zero).x)
          else (i.z, plain 0)] }
/-- VPERM: a bundle that holds it. -/
def execVperm (ty : BitVec 4) (p : BitVec 4) (d : BitVec 8) (a : BitVec 8) (b : BitVec 8) (s : State) : Host.Outcome State Fault Refusal :=
  .next (issueV (semVperm ty p d a b) s)

/-- VSLIDE (R110). -/
def semVslide (ty : BitVec 4) (p : BitVec 4) (d : BitVec 8) (a : BitVec 8) (b : BitVec 8) (imm : BitVec 8) : Sem :=
  { uses := [], vreads := grpRegs a ++ grpRegs b ++ grpRegs d, preads := [p.toNat],
    eff := fun s0 s => vecOut s0 s 3 (tyBits ty) p d
      [(((oneEls s0.core ty.toNat a ++ oneEls s0.core ty.toNat b).drop imm.toNat).take (tyN ty)).map
        fun e => (e.z, plain e.x)] }
/-- VSLIDE: a bundle that holds it. -/
def execVslide (ty : BitVec 4) (p : BitVec 4) (d : BitVec 8) (a : BitVec 8) (b : BitVec 8) (imm : BitVec 8) (s : State) : Host.Outcome State Fault Refusal :=
  .next (issueV (semVslide ty p d a b imm) s)

/-- VZIP (R111). -/
def semVzip (ty : BitVec 4) (p : BitVec 4) (d : BitVec 8) (a : BitVec 8) (b : BitVec 8) : Sem :=
  { uses := [], vreads := grpRegs a ++ grpRegs b ++ grpRegs d, preads := [p.toNat],
    eff := fun s0 s => vecOut s0 s 3 (tyBits ty) p d
      (chunks (tyN ty) (grpW d)
        ((List.zip (flatEls s0.core ty.toNat a) (flatEls s0.core ty.toNat b)).flatMap fun q =>
          [(q.1.z, plain q.1.x), (q.2.z, plain q.2.x)])) }
/-- VZIP: a bundle that holds it. -/
def execVzip (ty : BitVec 4) (p : BitVec 4) (d : BitVec 8) (a : BitVec 8) (b : BitVec 8) (s : State) : Host.Outcome State Fault Refusal :=
  .next (issueV (semVzip ty p d a b) s)

/-- VUNZIP (R111): the even elements. -/
def semVunzip (ty : BitVec 4) (p : BitVec 4) (d : BitVec 8) (a : BitVec 8) : Sem :=
  { uses := [], vreads := grpRegs a ++ grpRegs d, preads := [p.toNat],
    eff := fun s0 s => vecOut s0 s 3 (tyBits ty) p d
      (chunks (tyN ty) (grpW d) ((interleave 2 0 (flatEls s0.core ty.toNat a)).map fun e => (e.z, plain e.x))) }
/-- VUNZIP: a bundle that holds it. -/
def execVunzip (ty : BitVec 4) (p : BitVec 4) (d : BitVec 8) (a : BitVec 8) (s : State) : Host.Outcome State Fault Refusal :=
  .next (issueV (semVunzip ty p d a) s)

/-- VCOMPRESS (R112): the chosen elements packed, D whole. -/
def semVcompress (ty : BitVec 4) (d : BitVec 8) (a : BitVec 8) (c : BitVec 4) : Sem :=
  { uses := [], vreads := grpRegs a, preads := [c.toNat],
    eff := fun s0 s =>
      let l := activeOf (rdP s0.core c) (oneEls s0.core ty.toNat a)
      .done (withCore s (putWhole s0 s.core 4 (tyBits ty) d
        [l ++ List.replicate (tyN ty - l.length) El.zero])) none }
/-- VCOMPRESS: a bundle that holds it. -/
def execVcompress (ty : BitVec 4) (d : BitVec 8) (a : BitVec 8) (c : BitVec 4) (s : State) : Host.Outcome State Fault Refusal :=
  .next (issueV (semVcompress ty d a c) s)

/-- VEXPAND (R112): the inverse of VCOMPRESS, D whole. -/
def semVexpand (ty : BitVec 4) (d : BitVec 8) (a : BitVec 8) (c : BitVec 4) : Sem :=
  { uses := [], vreads := grpRegs a, preads := [c.toNat],
    eff := fun s0 s =>
      let l := oneEls s0.core ty.toNat a
      let pc := (rdP s0.core c).toNat
      .done (withCore s (putWhole s0 s.core 4 (tyBits ty) d
        [(List.range (tyN ty)).map fun j =>
          if pc.testBit j then l.getD (popcount j (pc % 2 ^ j)) El.zero else El.zero])) none }
/-- VEXPAND: a bundle that holds it. -/
def execVexpand (ty : BitVec 4) (d : BitVec 8) (a : BitVec 8) (c : BitVec 4) (s : State) : Host.Outcome State Fault Refusal :=
  .next (issueV (semVexpand ty d a c) s)

/-- VBCASTE (R113). -/
def semVbcaste (ty : BitVec 4) (p : BitVec 4) (d : BitVec 8) (a : BitVec 8) (imm : BitVec 8) : Sem :=
  { uses := [], vreads := grpRegs a ++ grpRegs d, preads := [p.toNat],
    eff := fun s0 s =>
      let e := (oneEls s0.core ty.toNat a).getD imm.toNat El.zero
      vecOut s0 s 3 (tyBits ty) p d (List.replicate (grpW d) (List.replicate (tyN ty) (e.z, plain e.x))) }
/-- VBCASTE: a bundle that holds it. -/
def execVbcaste (ty : BitVec 4) (p : BitVec 4) (d : BitVec 8) (a : BitVec 8) (imm : BitVec 8) (s : State) : Host.Outcome State Fault Refusal :=
  .next (issueV (semVbcaste ty p d a imm) s)

/-- VCBDEC (R114): CB2 codes to I8 eighths or exact BF16. -/
def semVcbdec (ty : BitVec 4) (p : BitVec 4) (d : BitVec 8) (a : BitVec 8) (imm : BitVec 8) : Sem :=
  { uses := [], vreads := grpRegs a ++ grpRegs d, preads := [p.toNat],
    eff := fun s0 s =>
      let codes := oneEls s0.core 3 a
      let pal := palOf s0.core imm.toNat
      vecOut s0 s 4 (tyBits ty) p d
        ((List.range (grpW d)).map fun k => (List.range (tyN ty)).map fun j =>
          let e := k * tyN ty + j
          let c := codes.getD (e / 8) El.zero
          let v := cb2Val pal c.x (e % 8)
          (c.z, plain (if ty = 0 then wrapTo 8 v else (roundInt2 (fmtOf 11) .rne false v (-3)).1))) }
/-- VCBDEC: a bundle that holds it. -/
def execVcbdec (ty : BitVec 4) (p : BitVec 4) (d : BitVec 8) (a : BitVec 8) (imm : BitVec 8) (s : State) : Host.Outcome State Fault Refusal :=
  .next (issueV (semVcbdec ty p d a imm) s)

/-- SCACC (R193): one column each for positions 0 to 127; BF16 positions above are inactive. -/
def semScacc (ty : BitVec 4) (p : BitVec 4) (d : BitVec 8) (a : BitVec 8) (tile : BitVec 8) (imm : BitVec 8) : Sem :=
  { uses := [], vreads := grpRegs a ++ grpRegs d, preads := [p.toNat],
    eff := fun s0 s =>
      let F := fmtOf ty.toNat
      let t := getTile s0.core tile.toNat
      let row := imm.toNat % 16
      let set := imm.toNat.testBit 4
      let pr := rdP s0.core p
      let sc := flatEls s0.core ty.toNat a
      let dv := flatEls s0.core ty.toNat d
      let e := if tileMode t then 0 else tileExp t
      let rs : List ElOut := (List.range (tyN ty * grpW d)).map fun j =>
        let s1 := sc.getD j El.zero
        let d1 := dv.getD j El.zero
        if 128 ≤ j then (false, plain 0)
        else if colBad s0.core tile.toNat row j then (true, plain (dnan F))
        else (s1.z || (!set && d1.z), scaccEl F (tileMan t row j) e (tileNv t row) set s1.x d1.x)
      let ac := (List.range (tyN ty * grpW d)).map fun j => decide (j < 128) && pbit pr j
      let c := putA s0 s.core 8 (tyBits ty) d (chunks (tyN ty) (grpW d) ac)
        (chunks (tyN ty) (grpW d) (rs.map fun e => resEl e.1 e.2))
      .done (logBadTile { s with core := orFlags c ((List.zip ac rs).foldl (fun a e => if e.1 then a ||| e.2.2.2.2 else a) 0) }
        tile.toNat row) none }
/-- SCACC: a bundle that holds it. -/
def execScacc (ty : BitVec 4) (p : BitVec 4) (d : BitVec 8) (a : BitVec 8) (tile : BitVec 8) (imm : BitVec 8) (s : State) : Host.Outcome State Fault Refusal :=
  .next (issueV (semScacc ty p d a tile imm) s)

/-- PAND (R116). -/
def semPand (_ty : BitVec 4) (p : BitVec 4) (d : BitVec 4) (a : BitVec 4) (b : BitVec 4) : Sem :=
  predSem p d a b (fun x y => x && y)
/-- PAND: a bundle that holds it. -/
def execPand (ty : BitVec 4) (p : BitVec 4) (d : BitVec 4) (a : BitVec 4) (b : BitVec 4) (s : State) : Host.Outcome State Fault Refusal :=
  .next (issueV (semPand ty p d a b) s)

/-- POR (R116). -/
def semPor (_ty : BitVec 4) (p : BitVec 4) (d : BitVec 4) (a : BitVec 4) (b : BitVec 4) : Sem :=
  predSem p d a b (fun x y => x || y)
/-- POR: a bundle that holds it. -/
def execPor (ty : BitVec 4) (p : BitVec 4) (d : BitVec 4) (a : BitVec 4) (b : BitVec 4) (s : State) : Host.Outcome State Fault Refusal :=
  .next (issueV (semPor ty p d a b) s)

/-- PXOR (R116). -/
def semPxor (_ty : BitVec 4) (p : BitVec 4) (d : BitVec 4) (a : BitVec 4) (b : BitVec 4) : Sem :=
  predSem p d a b (fun x y => x != y)
/-- PXOR: a bundle that holds it. -/
def execPxor (ty : BitVec 4) (p : BitVec 4) (d : BitVec 4) (a : BitVec 4) (b : BitVec 4) (s : State) : Host.Outcome State Fault Refusal :=
  .next (issueV (semPxor ty p d a b) s)

/-- PANDN (R116). -/
def semPandn (_ty : BitVec 4) (p : BitVec 4) (d : BitVec 4) (a : BitVec 4) (b : BitVec 4) : Sem :=
  predSem p d a b (fun x y => x && !y)
/-- PANDN: a bundle that holds it. -/
def execPandn (ty : BitVec 4) (p : BitVec 4) (d : BitVec 4) (a : BitVec 4) (b : BitVec 4) (s : State) : Host.Outcome State Fault Refusal :=
  .next (issueV (semPandn ty p d a b) s)

/-- PNOT (R116). -/
def semPnot (_ty : BitVec 4) (p : BitVec 4) (d : BitVec 4) (a : BitVec 4) : Sem :=
  predSem p d a a (fun x _ => !x)
/-- PNOT: a bundle that holds it. -/
def execPnot (ty : BitVec 4) (p : BitVec 4) (d : BitVec 4) (a : BitVec 4) (s : State) : Host.Outcome State Fault Refusal :=
  .next (issueV (semPnot ty p d a) s)

/-- PSETI (R117): the first n bits. -/
def semPseti (_ty : BitVec 4) (d : BitVec 4) (imm : BitVec 16) : Sem :=
  { uses := [], vreads := [], preads := [],
    eff := fun s0 s => predOut s0 s 1 d ((List.range 1024).map fun j => decide (j < imm.toNat)) }
/-- PSETI: a bundle that holds it. -/
def execPseti (ty : BitVec 4) (d : BitVec 4) (imm : BitVec 16) (s : State) : Host.Outcome State Fault Refusal :=
  .next (issueV (semPseti ty d imm) s)

/-- PPOPC (R118); latency 4. -/
def semPpopc (ty : BitVec 4) (p : BitVec 4) (d : BitVec 5) (a : BitVec 4) : Sem :=
  { uses := [d], vreads := [], preads := [p.toNat, a.toNat],
    eff := fun s0 s =>
      let q := ((List.range (tyN ty)).filter fun j => pbit (rdP s0.core a) j && pbit (rdP s0.core p) j).length
      .done (withCore s (wrSL s.core 4 d (.ofNat 64 q))) none }
/-- PPOPC: a bundle that holds it. -/
def execPpopc (ty : BitVec 4) (p : BitVec 4) (d : BitVec 5) (a : BitVec 4) (s : State) : Host.Outcome State Fault Refusal :=
  .next (issueV (semPpopc ty p d a) s)

/-- PFIRST (R118): the least, or N; latency 4. -/
def semPfirst (ty : BitVec 4) (p : BitVec 4) (d : BitVec 5) (a : BitVec 4) : Sem :=
  { uses := [d], vreads := [], preads := [p.toNat, a.toNat],
    eff := fun s0 s =>
      let q := ((List.range (tyN ty)).find? fun j => pbit (rdP s0.core a) j && pbit (rdP s0.core p) j).getD (tyN ty)
      .done (withCore s (wrSL s.core 4 d (.ofNat 64 q))) none }
/-- PFIRST: a bundle that holds it. -/
def execPfirst (ty : BitVec 4) (p : BitVec 4) (d : BitVec 5) (a : BitVec 4) (s : State) : Host.Outcome State Fault Refusal :=
  .next (issueV (semPfirst ty p d a) s)

/-- VPCLR (R119): bits kept, poison cleared at active positions. -/
def semVpclr (ty : BitVec 4) (p : BitVec 4) (d : BitVec 8) : Sem :=
  { uses := [], vreads := grpRegs d, preads := [p.toNat],
    eff := fun s0 s => vecOut s0 s 1 (tyBits ty) p d
      ((grpEls s0.core ty.toNat d).map fun l => l.map fun e => (false, plain e.x)) }
/-- VPCLR: a bundle that holds it. -/
def execVpclr (ty : BitVec 4) (p : BitVec 4) (d : BitVec 8) (s : State) : Host.Outcome State Fault Refusal :=
  .next (issueV (semVpclr ty p d) s)

/-- VPTEST (R120): poison as predicate bits. -/
def semVptest (ty : BitVec 4) (p : BitVec 4) (d : BitVec 4) (a : BitVec 8) : Sem :=
  { uses := [], vreads := grpRegs a, preads := [p.toNat],
    eff := fun s0 s => predOut s0 s 2 d
      (((oneEls s0.core ty.toNat a).zipIdx).map fun q => pbit (rdP s0.core p) q.2 && q.1.z) }
/-- VPTEST: a bundle that holds it. -/
def execVptest (ty : BitVec 4) (p : BitVec 4) (d : BitVec 4) (a : BitVec 8) (s : State) : Host.Outcome State Fault Refusal :=
  .next (issueV (semVptest ty p d a) s)

end Sys2Proof.Machine
end

