-- ==== Sys2Proof/Machine/MSlot.lean ====
section
/-! DEFINITION. The M-slot instructions: rows (R166 to R170), slots, tiles and shadow sets (R184, R185, R192, R207), ENQ
(R38), timelines, tags and rendezvous points (R308 to R316), versioned buffers (R173 to R177) and LIVEMARK (R179). -/
namespace Sys2Proof.Machine

/-- A trap of the M slot. -/
def mTrap (cause : Nat) (tval : Word) : SlotOut := .trap (mkTrap cause 3 tval)

/-- Poison bit `j` of a register. -/
def pzBit (r : VReg) (j : Nat) : Bool := r.pz.toNat.testBit j

/-- Lowest register and grain of a VST that is active and poisoned (R168). -/
def vstPoison (pg : PredBits) (g : Nat) (vals : List VReg) : Option (Nat × Nat) :=
  (vals.zipIdx).findSome? fun q =>
    ((List.range (512 / g)).find? fun j => pbit pg j && pzBit q.1 (2 * g * j)).map fun j => (q.2, j)

/-- Rows written under a mask, from row `r` (R168). -/
def storeRows (c : Core) (mask : List Bool) : Nat → List VReg → Core
  | _, [] => c
  | r, v :: l => storeRows (writeRow c r v.bits mask) mask (r + 1) l

/-- What a lane of a gather or scatter does: its number, its offset, whether its index is poisoned (R169). -/
structure LaneAcc where
  l : Nat
  o : Word
  zi : Bool
deriving DecidableEq, Repr

/-- Granule accesses of the active lanes (R169). -/
def laneAccs (a : Word) (vb : VReg) (pg : PredBits) : List LaneAcc :=
  (List.range 32).filterMap fun l =>
    if pbit pg l then
      let idx := rowBytes vb.bits (16 * l) 4
      some { l := l, o := .ofNat 64 ((a.toNat + 16 * idx) % 2 ^ 64 / 16 * 16), zi := pzBit vb (32 * l) }
    else none

/-- The first lane with a clean index whose offset lies outside the scratchpad (R169). -/
def laneRange (l : List LaneAcc) : Option Word :=
  (l.find? fun x => !x.zi && decide (0x300000 ≤ x.o.toNat)).map (·.o)

/-- The 16 bytes and 32 poison bits of a granule. -/
def granule (c : Core) (o : Word) : Nat × Nat :=
  let r := loadRow c (o.toNat / 512)
  (rowBytes r.bits (o.toNat % 512) 16, r.pz.toNat / 2 ^ (2 * (o.toNat % 512)) % 2 ^ 32)

/-- A gathered register (R169). -/
def gatherReg (c : Core) (accs : List LaneAcc) (old : VReg) : VReg :=
  let lanes := (List.range 32).map fun l =>
    match accs.find? (fun x => x.l == l) with
    | none => (rowBytes old.bits (16 * l) 16, old.pz.toNat / 2 ^ (32 * l) % 2 ^ 32)
    | some x => if x.zi then (0, 2 ^ 32 - 1) else granule c x.o
  { bits := .ofNat 4096 (joinEls 128 (lanes.map (·.1))), pz := .ofNat 1024 (joinEls 32 (lanes.map (·.2))) }

/-- Granules scattered, a higher lane over a lower one (R169). -/
def scatter (c : Core) (v : VReg) : List LaneAcc → Core
  | [] => c
  | x :: r =>
    let b := x.o.toNat % 512
    scatter (writeRow c (x.o.toNat / 512) (.ofNat 4096 (2 ^ (8 * b) * rowBytes v.bits (16 * x.l) 16))
      ((List.range 512).map fun i => decide (b ≤ i) && decide (i < b + 16))) v r

/-- VRMG over bytes with their two poison bits (R170). -/
def rmgReg (pm : PredBits) (s : Nat) (old v0 v1 : VReg) : VReg :=
  let q := (splitEls 8 512 v0.bits.toNat ++ splitEls 8 512 v1.bits.toNat).zip
    (splitEls 2 512 v0.pz.toNat ++ splitEls 2 512 v1.pz.toNat)
  let o := (splitEls 8 512 old.bits.toNat).zip (splitEls 2 512 old.pz.toNat)
  let l := (List.range 512).map fun i => if pbit pm i then q.getD ((i + s) % 1024) (0, 0) else o.getD i (0, 0)
  { bits := .ofNat 4096 (joinEls 8 (l.map (·.1))), pz := .ofNat 1024 (joinEls 2 (l.map (·.2))) }

/-- ACCRD's registers (R192, R198). -/
def accrdRegs (c : Core) (k i sel : Nat) : List VReg :=
  let t := getTile c k
  let e := fun j => ((tileMan t i j, colBad c k i j) : Int × Bool)
  match sel with
  | 0 => [ofEls 32 ((List.range 128).map fun j => { x := wrapTo 32 (e j).1, z := (e j).2 })]
  | 1 => (List.range 2).map fun h =>
      ofEls 64 ((List.range 64).map fun j => { x := wrapTo 64 (e (2 * j + h)).1, z := (e (2 * j + h)).2 })
  | 2 => [ofEls 32 ((List.range 128).map fun j =>
      { x := wrapTo 32 (sat (e j).1 (-2147483648) 2147483647), z := (e j).2 })]
  | _ => [ofEls 64 ({ x := (t.stat &&& statMask).toNat, z := c.badTiles.contains (127, k) } :: List.replicate 63 El.zero)]

/-- Byte offset of ring `q` in the scratchpad (R171). -/
def ringOffset (q : Nat) : Nat := 3121152 + 4096 * q

/-- Byte offset of entry `e` of ring `q`. -/
def entryOffset (q e : Nat) : Nat := ringOffset q + 64 * e

/-- `n` bytes of a row written at a scratchpad byte offset, within one row. -/
def writeScratch (c : Core) (off n v : Nat) : Core :=
  let b := off % 512
  writeRow c (off / 512) (.ofNat 4096 (2 ^ (8 * b) * (v % 2 ^ (8 * n))))
    ((List.range 512).map fun i => decide (b ≤ i) && decide (i < b + n))

/-- `n` bytes of the scratchpad at a byte offset, within one row. -/
def readScratch (c : Core) (off n : Nat) : Nat := rowBytes (getRow c (off / 512)) (off % 512) n

/-- Entries appended to a ring: their 48 bytes and a zero status (R38). -/
def enqAll (q : Nat) (src : Row) : Nat → Nat → Core → Core
  | 0, _, c => c
  | n + 1, seg, c =>
    let r := getRing c q
    let c1 := writeScratch c (entryOffset q r.wp) 64 (rowBytes src (64 * seg) 48)
    enqAll q src n (seg + 1) (setRing c1 q { r with wp := (r.wp + 1) % 64, occ := r.occ + 1 })

/-- Team of the core at a level (R314). -/
def teamAt (team : Word) (lev : Nat) : Nat := bits team.toNat (16 * lev + 15) (16 * lev)

/-- Key of a rendezvous point in the context's table. -/
def rvKey (team : Word) (lev n : Nat) : Nat := (lev * 65536 + teamAt team lev) * 32 + n

/-- A rendezvous instruction: SLOT_STATE without a team at the level, before any other check of it (log 85), else what the point gives
(R316). -/
def rvSem (uses : List (BitVec 5)) (rv : BitVec 5) (lev : BitVec 2) (f : State → State → Nat → Nat → Rv → SlotOut) : Sem :=
  { uses := uses, vreads := [], preads := [],
    eff := fun s0 s =>
      if teamAt s0.core.team lev.toNat = 0xFFFF then mTrap causeSlotState (rv.setWidth 64)
      else
        match curSlot s0, curCtx s0 with
        | some slot, some c =>
          let k := rvKey s0.core.team lev.toNat rv.toNat
          f s0 s slot k (Sparse.get Rv.zero c.rv k)
        | _, _ => .stall }

def setRv (s : State) (slot k : Nat) (r : Rv) : State :=
  modCtx s slot fun c => { c with rv := Sparse.set Rv.zero c.rv k r }

/-- A versioned-buffer instruction (R173). -/
def bufSem (uses : List (BitVec 5)) (b : BitVec 8) (f : State → State → Nat → Buf → SlotOut) : Sem :=
  { uses := uses, vreads := [], preads := [],
    eff := fun s0 s =>
      match curSlot s0, curCtx s0 with
      | some slot, some c => f s0 s slot (Sparse.get Buf.zero c.bufs b.toNat)
      | _, _ => .stall }

def setBuf (s : State) (slot : Nat) (b : BitVec 8) (v : Buf) : State :=
  modCtx s slot fun c => { c with bufs := Sparse.set Buf.zero c.bufs b.toNat v }

/-- Reader count of an area. -/
def Buf.cnt (b : Buf) (v : Nat) : Nat := if v % 2 = 0 then b.cnt0 else b.cnt1
/-- A buffer with the reader count of an area replaced. -/
def Buf.setCnt (b : Buf) (v n : Nat) : Buf := if v % 2 = 0 then { b with cnt0 := n } else { b with cnt1 := n }

/-- A tag wait (R313). -/
def tagSem (sa : BitVec 5) (f : State → State → Word → SlotOut) : Sem :=
  { uses := [sa], vreads := [], preads := [], eff := fun s0 s => f s0 s (rdS s0.core sa) }

/-- MNOP (R30) has no effect. -/
def semMnop : Sem :=
  nopSem
/-- MNOP: a bundle that holds it. -/
def execMnop (s : State) : Host.Outcome State Fault Refusal :=
  .next (issueM semMnop s)

/-- VLD (R167, R181): whole rows, landing at six ticks. -/
def semVld (vr : BitVec 6) (w : BitVec 2) (sa : BitVec 5) (imm : BitVec 16) : Sem :=
  { uses := [sa], vreads := [], preads := [],
    eff := fun s0 s =>
      match rowRange (rowAddr (rdS s0.core sa) imm) (2 ^ w.toNat) with
      | .error t => .trap t
      | .ok rows =>
        .done (logBadRows (withCore s (launchV s0.core s.core 6 vr.toNat (rows.map (loadRow s0.core)))) rows) none }
/-- VLD: a bundle that holds it. -/
def execVld (vr : BitVec 6) (w : BitVec 2) (sa : BitVec 5) (imm : BitVec 16) (s : State) : Host.Outcome State Fault Refusal :=
  .next (issueM (semVld vr w sa imm) s)

/-- VST (R168): range, then poison, then one masked row write per register. -/
def semVst (vr : BitVec 6) (w : BitVec 2) (sa : BitVec 5) (imm : BitVec 16) (p : BitVec 4) (gr : BitVec 2) : Sem :=
  { uses := [sa], vreads := (List.range (2 ^ w.toNat)).map (· + vr.toNat), preads := [p.toNat],
    eff := fun s0 s =>
      let g := 2 ^ gr.toNat
      let pg := rdP s0.core p
      let vals := rdGroup s0.core vr.toNat (2 ^ w.toNat)
      match rowRange (rowAddr (rdS s0.core sa) imm) (2 ^ w.toNat) with
      | .error t => .trap t
      | .ok rows =>
        match vstPoison pg g vals with
        | some (k, j) => mTrap causePoison (.ofNat 64 (512 * (rows.headD 0 + k) + g * j))
        | none =>
          .done (withCore s (storeRows s.core ((List.range 512).map fun i => pbit pg (i / g)) (rows.headD 0) vals)) none }
/-- VST: a bundle that holds it. -/
def execVst (vr : BitVec 6) (w : BitVec 2) (sa : BitVec 5) (imm : BitVec 16) (p : BitVec 4) (gr : BitVec 2) (s : State) : Host.Outcome State Fault Refusal :=
  .next (issueM (semVst vr w sa imm p gr) s)

/-- VGATHER (R169). -/
def semVgather (vr : BitVec 6) (sa : BitVec 5) (vb : BitVec 6) (p : BitVec 4) : Sem :=
  { uses := [sa], vreads := [vr.toNat, vb.toNat], preads := [p.toNat],
    eff := fun s0 s =>
      let accs := laneAccs (rdS s0.core sa) (rdV s0.core vb.toNat) (rdP s0.core p)
      match laneRange accs with
      | some o => mTrap codeProt o
      | none =>
        .done (logBadRows (withCore s (launchV s0.core s.core 10 vr.toNat
          [gatherReg s0.core accs (rdV s0.core vr.toNat)]))
          ((accs.filter fun x => !x.zi).map fun x => x.o.toNat / 512)) none }
/-- VGATHER: a bundle that holds it. -/
def execVgather (vr : BitVec 6) (sa : BitVec 5) (vb : BitVec 6) (p : BitVec 4) (s : State) : Host.Outcome State Fault Refusal :=
  .next (issueM (semVgather vr sa vb p) s)

/-- Some byte of granule `l` of a register is poisoned: the bit of a byte's lowest nibble says so (R87, R169). -/
def granulePoison (v : VReg) (l : Nat) : Bool := Nat.land (v.pz.toNat / 2 ^ (32 * l)) 0x55555555 != 0

/-- VSCATTER (R169): range faults, then poison, then the writes. -/
def semVscatter (vr : BitVec 6) (sa : BitVec 5) (vb : BitVec 6) (p : BitVec 4) : Sem :=
  { uses := [sa], vreads := [vr.toNat, vb.toNat], preads := [p.toNat],
    eff := fun s0 s =>
      let v := rdV s0.core vr.toNat
      let accs := laneAccs (rdS s0.core sa) (rdV s0.core vb.toNat) (rdP s0.core p)
      match laneRange accs with
      | some o => mTrap codeProt o
      | none =>
        match accs.find? (fun x => x.zi || granulePoison v x.l) with
        | some x => mTrap causePoison (if x.zi then 0 else x.o)
        | none => .done (withCore s (scatter s.core v accs)) none }
/-- VSCATTER: a bundle that holds it. -/
def execVscatter (vr : BitVec 6) (sa : BitVec 5) (vb : BitVec 6) (p : BitVec 4) (s : State) : Host.Outcome State Fault Refusal :=
  .next (issueM (semVscatter vr sa vb p) s)

/-- VRMG (R170). -/
def semVrmg (vd : BitVec 6) (va : BitVec 6) (p : BitVec 4) (i : BitVec 1) (imm : BitVec 10) (sb : BitVec 5) : Sem :=
  { uses := if i = 1 then [] else [sb], vreads := [vd.toNat, va.toNat, va.toNat + 1], preads := [p.toNat],
    eff := fun s0 s =>
      let n := if i = 1 then imm.toNat else (rdS s0.core sb).toNat % 1024
      .done (withCore s (launchV s0.core s.core 3 vd.toNat
        [rmgReg (rdP s0.core p) n (rdV s0.core vd.toNat) (rdV s0.core va.toNat) (rdV s0.core (va.toNat + 1))])) none }
/-- VRMG: a bundle that holds it. -/
def execVrmg (vd : BitVec 6) (va : BitVec 6) (p : BitVec 4) (i : BitVec 1) (imm : BitVec 10) (sb : BitVec 5) (s : State) : Host.Outcome State Fault Refusal :=
  .next (issueM (semVrmg vd va p i imm sb) s)

/-- CLAIM (R183, R184). -/
def semClaim (slot : BitVec 5) (auto : BitVec 1) : Sem :=
  { uses := [], vreads := [], preads := [],
    eff := fun s0 s =>
      let x := getSlot s0.core slot.toNat
      if x.st = .free then
        .done (withCore s (setSlot s.core slot.toNat { x with st := .claimed, auto := auto == 1 })) none
      else if x.auto then .stall
      else mTrap causeSlotState (slot.setWidth 64) }
/-- CLAIM: a bundle that holds it. -/
def execClaim (slot : BitVec 5) (auto : BitVec 1) (s : State) : Host.Outcome State Fault Refusal :=
  .next (issueM (semClaim slot auto) s)

/-- RELEASE (R183, R185). -/
def semRelease (slot : BitVec 5) : Sem :=
  { uses := [], vreads := [], preads := [],
    eff := fun s0 s =>
      let x := getSlot s0.core slot.toNat
      if x.st = .free then mTrap causeSlotState (slot.setWidth 64)
      else if x.fill || x.users != 0 then .stall
      else .done (withCore s (setSlot s.core slot.toNat { x with st := .free, auto := false })) none }
/-- RELEASE: a bundle that holds it. -/
def execRelease (slot : BitVec 5) (s : State) : Host.Outcome State Fault Refusal :=
  .next (issueM (semRelease slot) s)

/-- MTC (R207): the set becomes LOADED. -/
def semMtc (eng : BitVec 1) (set : BitVec 1) (vn : BitVec 6) (ovr : BitVec 1) : Sem :=
  { uses := [], vreads := [vn.toNat], preads := [],
    eff := fun s0 s =>
      let k := 2 * eng.toNat + set.toNat
      let v := rdV s0.core vn.toNat
      if ovr = 0 ∧ (Sparse.get Shadow.empty s0.core.shadows k).loaded then .stall
      else if v.pz.toNat % 2 ^ 320 ≠ 0 then mTrap causePoison 0
      else .done (withCore s { s.core with
        shadows := Sparse.set Shadow.empty s.core.shadows k { image := v.bits.setWidth 1280, loaded := true } }) none }
/-- MTC: a bundle that holds it. -/
def execMtc (eng : BitVec 1) (set : BitVec 1) (vn : BitVec 6) (ovr : BitVec 1) (s : State) : Host.Outcome State Fault Refusal :=
  .next (issueM (semMtc eng set vn ovr) s)

/-- ACCRD (R192, R198). -/
def semAccrd (vd : BitVec 6) (tile : BitVec 7) (row : BitVec 4) (sel : BitVec 2) : Sem :=
  { uses := [], vreads := [], preads := [],
    eff := fun s0 s =>
      .done (logBadTile (withCore s (launchV s0.core s.core 8 vd.toNat
        (accrdRegs s0.core tile.toNat row.toNat sel.toNat))) tile.toNat row.toNat) none }
/-- ACCRD: a bundle that holds it. -/
def execAccrd (vd : BitVec 6) (tile : BitVec 7) (row : BitVec 4) (sel : BitVec 2) (s : State) : Host.Outcome State Fault Refusal :=
  .next (issueM (semAccrd vd tile row sel) s)

/-- ENQ (R38): it waits for free entries, faults on poison, and appends whole entries. -/
def semEnq (ring : BitVec 3) (vn : BitVec 6) (seg : BitVec 3) (cnt : BitVec 3) (rel : BitVec 1) (sc : BitVec 3) : Sem :=
  { uses := [], vreads := [vn.toNat], preads := [],
    eff := fun s0 s =>
      let _ := sc
      let n := cnt.toNat + 1
      let v := rdV s0.core vn.toNat
      if 64 - (getRing s0.core ring.toNat).occ < n then .stall
      else if (List.range n).any (fun j => v.pz.toNat / 2 ^ (128 * (seg.toNat + j)) % 2 ^ 96 != 0) then
        mTrap causePoison 0
      else
        let t := if rel = 1 then releaseM s0 s else s
        if rel = 1 ∧ releaseWaits [] s0 then .stall
        else .done (withCore t (enqAll ring.toNat v.bits n seg.toNat t.core)) none }
/-- ENQ: a bundle that holds it. -/
def execEnq (ring : BitVec 3) (vn : BitVec 6) (seg : BitVec 3) (cnt : BitVec 3) (rel : BitVec 1) (sc : BitVec 3) (s : State) : Host.Outcome State Fault Refusal :=
  .next (issueM (semEnq ring vn seg cnt rel sc) s)

/-- TLWAIT (R308). -/
def semTlwait (tl : BitVec 3) (sa : BitVec 5) (sc : BitVec 5) (rmt : BitVec 1) (imm : BitVec 16) : Sem :=
  { uses := if rmt = 1 then [sa, sc] else [sa], vreads := [], preads := [],
    eff := fun s0 s =>
      let n := rdS s0.core sa + imm.setWidth 64
      let k := rdS s0.core sc
      let bad := match curCtx s0 with | some c => !inPart c k.toNat | none => true
      if rmt = 1 ∧ bad = true then mTrap causeIllegal k
      else
        let c := if rmt = 1 then getCore s0 k.toNat else s0.core
        if (getTl c tl.toNat).ult n then .stall else .done s none }
/-- TLWAIT: a bundle that holds it. -/
def execTlwait (tl : BitVec 3) (sa : BitVec 5) (sc : BitVec 5) (rmt : BitVec 1) (imm : BitVec 16) (s : State) : Host.Outcome State Fault Refusal :=
  .next (issueM (semTlwait tl sa sc rmt imm) s)

/-- TLADV (R309): a release and a raise. A release stalls its bundle while a store that it performs waits (R352, R357). -/
def semTladv (tl : BitVec 3) (cnt : BitVec 8) : Sem :=
  { uses := [], vreads := [], preads := [],
    eff := fun s0 s =>
      let t := releaseM s0 s
      if releaseWaits [] s0 then .stall
      else .done (withCore t (raiseTl t.core tl.toNat (cnt.toNat + 1))) none }
/-- TLADV: a bundle that holds it. -/
def execTladv (tl : BitVec 3) (cnt : BitVec 8) (s : State) : Host.Outcome State Fault Refusal :=
  .next (issueM (semTladv tl cnt) s)

/-- TAGWAIT.ANY (R313). -/
def semTagwaitAny (sa : BitVec 5) : Sem :=
  tagSem sa fun s0 s a =>
    if a = 0 then mTrap causeIllegal 0 else if s0.core.tags &&& a = 0 then .stall else .done s none
/-- TAGWAIT_ANY: a bundle that holds it. -/
def execTagwaitAny (sa : BitVec 5) (s : State) : Host.Outcome State Fault Refusal :=
  .next (issueM (semTagwaitAny sa) s)

/-- TAGWAIT.ALL (R313). -/
def semTagwaitAll (sa : BitVec 5) : Sem :=
  tagSem sa fun s0 s a => if s0.core.tags &&& a = a then .done s none else .stall
/-- TAGWAIT_ALL: a bundle that holds it. -/
def execTagwaitAll (sa : BitVec 5) (s : State) : Host.Outcome State Fault Refusal :=
  .next (issueM (semTagwaitAll sa) s)

/-- TAGFF (R313); latency 4. -/
def semTagff (sa : BitVec 5) (sd : BitVec 5) : Sem :=
  { uses := [sa, sd], vreads := [], preads := [],
    eff := fun s0 s =>
      .done (withCore s (wrSL s.core 4 sd (.ofNat 64 (lowestOne 64 (s0.core.tags &&& rdS s0.core sa).toNat)))) none }
/-- TAGFF: a bundle that holds it. -/
def execTagff (sa : BitVec 5) (sd : BitVec 5) (s : State) : Host.Outcome State Fault Refusal :=
  .next (issueM (semTagff sa sd) s)

/-- TAGCLR (R313). -/
def semTagclr (sa : BitVec 5) : Sem :=
  tagSem sa fun _ s a => .done (withCore s { s.core with tags := s.core.tags &&& ~~~a }) none
/-- TAGCLR: a bundle that holds it. -/
def execTagclr (sa : BitVec 5) (s : State) : Host.Outcome State Fault Refusal :=
  .next (issueM (semTagclr sa) s)

/-- RVINIT (R316). -/
def semRvinit (rv : BitVec 5) (lev : BitVec 2) (reg : BitVec 5) : Sem :=
  rvSem [reg] rv lev fun s0 s slot k r =>
    let a := (rdS s0.core reg).toNat
    if a = 0 ∨ 2 ^ 32 ≤ a then mTrap causeIllegal (rdS s0.core reg)
    else if r.exp = 0 then .done (setRv s slot k { r with exp := a }) none
    else if r.exp = a then .done s none
    else mTrap causeSlotState (rv.setWidth 64)
/-- RVINIT: a bundle that holds it. -/
def execRvinit (rv : BitVec 5) (lev : BitVec 2) (reg : BitVec 5) (s : State) : Host.Outcome State Fault Refusal :=
  .next (issueM (semRvinit rv lev reg) s)

/-- A point after one more arrival (R316). -/
def arriveRv (r : Rv) : Rv :=
  if r.cnt + 1 = r.exp then { r with cnt := 0, ph := (r.ph + 1) % 2 ^ 64 } else { r with cnt := r.cnt + 1 }

/-- ARRIVE (R316); latency 4, or more above column level. -/
def semArrive (rv : BitVec 5) (lev : BitVec 2) (reg : BitVec 5) : Sem :=
  rvSem [reg] rv lev fun s0 s slot k r =>
    if r.exp = 0 ∨ releaseWaits [] s0 then .stall
    else
      let t := releaseM s0 s
      let u := setRv { t with freeCtr := t.freeCtr + 1 } slot k (arriveRv r)
      .done (withCore u (wrSL u.core (if lev = 0 then 4 else 4 + Config.latency s0.freeCtr) reg (.ofNat 64 r.ph))) none
/-- ARRIVE: a bundle that holds it. -/
def execArrive (rv : BitVec 5) (lev : BitVec 2) (reg : BitVec 5) (s : State) : Host.Outcome State Fault Refusal :=
  .next (issueM (semArrive rv lev reg) s)

/-- An operation of another package's core on a point of a team that spans packages, for the context of job `job` (R315,
R316): an RVINIT with a count, or an ARRIVE, which waits elsewhere while EXP is 0. -/
def remoteRv (job k : Nat) (init : Option Nat) (s : State) : State :=
  match s.ctxs.find? (fun e => match e.2 with | some c => c.job == job | none => false) with
  | none => s
  | some e => modCtx s e.1 fun c =>
      let r := Sparse.get Rv.zero c.rv k
      { c with rv := Sparse.set Rv.zero c.rv k (match init with
          | some n => if r.exp = 0 then { r with exp := n } else r
          | none => if r.exp = 0 then r else arriveRv r) }

/-- RVWAIT (R316). -/
def semRvwait (rv : BitVec 5) (lev : BitVec 2) (reg : BitVec 5) : Sem :=
  rvSem [reg] rv lev fun s0 s _ _ r => if r.ph ≤ (rdS s0.core reg).toNat then .stall else .done s none
/-- RVWAIT: a bundle that holds it. -/
def execRvwait (rv : BitVec 5) (lev : BitVec 2) (reg : BitVec 5) (s : State) : Host.Outcome State Fault Refusal :=
  .next (issueM (semRvwait rv lev reg) s)

/-- BUFW (R174); latency 4. -/
def semBufw (buf : BitVec 8) (sd : BitVec 5) : Sem :=
  bufSem [sd] buf fun s0 s slot b =>
    if b.who = some s0.coreNo then mTrap causeSlotState (buf.setWidth 64)
    else if b.who ≠ none ∨ b.cnt (b.pub + 1) ≠ 0 then .stall
    else
      let n := (b.pub + 1) % 2 ^ 64
      let t := setBuf s slot buf { b with who := some s0.coreNo, nxt := n }
      .done (withCore t (wrSL t.core 4 sd (.ofNat 64 n))) none
/-- BUFW: a bundle that holds it. -/
def execBufw (buf : BitVec 8) (sd : BitVec 5) (s : State) : Host.Outcome State Fault Refusal :=
  .next (issueM (semBufw buf sd) s)

/-- BUFP (R175). -/
def semBufp (buf : BitVec 8) : Sem :=
  bufSem [] buf fun s0 s slot b =>
    if b.who ≠ some s0.coreNo then mTrap causeSlotState (buf.setWidth 64)
    else if releaseWaits [] s0 then .stall
    else .done (setBuf (releaseM s0 s) slot buf { b with pub := b.nxt, who := none }) none
/-- BUFP: a bundle that holds it. -/
def execBufp (buf : BitVec 8) (s : State) : Host.Outcome State Fault Refusal :=
  .next (issueM (semBufp buf) s)

/-- BUFR (R176); latency 4. -/
def semBufr (buf : BitVec 8) (sd : BitVec 5) (sa : BitVec 5) : Sem :=
  bufSem [sa, sd] buf fun s0 s slot b =>
    if b.pub < (rdS s0.core sa).toNat ∨ 65535 ≤ b.cnt b.pub then .stall
    else
      let t := setBuf s slot buf (b.setCnt b.pub (b.cnt b.pub + 1))
      .done (withCore t (wrSL t.core 4 sd (.ofNat 64 b.pub))) none
/-- BUFR: a bundle that holds it. -/
def execBufr (buf : BitVec 8) (sd : BitVec 5) (sa : BitVec 5) (s : State) : Host.Outcome State Fault Refusal :=
  .next (issueM (semBufr buf sd sa) s)

/-- BUFX (R177). -/
def semBufx (buf : BitVec 8) (sa : BitVec 5) : Sem :=
  bufSem [sa] buf fun s0 s slot b =>
    let v := (rdS s0.core sa).toNat
    if b.pub < v ∨ v + 1 < b.pub ∨ b.cnt v = 0 then mTrap causeSlotState (buf.setWidth 64)
    else if releaseWaits [] s0 then .stall
    else .done (setBuf (releaseM s0 s) slot buf (b.setCnt v (b.cnt v - 1))) none
/-- BUFX: a bundle that holds it. -/
def execBufx (buf : BitVec 8) (sa : BitVec 5) (s : State) : Host.Outcome State Fault Refusal :=
  .next (issueM (semBufx buf sa) s)

/-- LIVEMARK (R179). -/
def semLivemark (i : BitVec 1) (imm : BitVec 13) (sa : BitVec 5) : Sem :=
  { uses := if i = 1 then [] else [sa], vreads := [], preads := [],
    eff := fun s0 s =>
      let v := if i = 1 then imm.setWidth 64 else rdS s0.core sa
      if 6144 < v.toNat then mTrap causeIllegal v
      else .done (withCore s { s.core with livemark := v.toNat }) none }
/-- LIVEMARK: a bundle that holds it. -/
def execLivemark (i : BitVec 1) (imm : BitVec 13) (sa : BitVec 5) (s : State) : Host.Outcome State Fault Refusal :=
  .next (issueM (semLivemark i imm sa) s)

end Sys2Proof.Machine
end

