-- ==== Sys2Proof/Machine/Ring.lean ====
section
/-! DEFINITION. What the six engines share (R31 to R37, R172, R310): when the entry at a ring's head begins, what it
leaves until it completes or stops, completion and the ring stop, engine accesses to memory that keep what they did
before a fault, and slot fills (R183). -/
namespace Sys2Proof.Machine

def codeIllegal : Nat := 0x01
def codeEmulate : Nat := 0x02
def codeOpaque : Nat := 0x06
def codePool : Nat := 0x07
def codeSlot : Nat := 0x0A
def codeAbort : Nat := 0x0B

/-- The CP and CM engines run up to eight entries at once (R310). -/
def ringMany (q : Nat) : Bool := q == 2 || q == 3

/-- An entry's bytes spell NSIG (R362). -/
def isSig (e : Nat) : Bool := bits e 63 56 == 0x63

/-- An entry's bytes spell NPUT or NATOM, for which a later NSIG waits (R311). -/
def isPut (e : Nat) : Bool := bits e 63 56 == 0x61 || bits e 63 56 == 0x64

/-- A begun CM entry has finished translating: its answers have shown its pages, and it waits for nothing but a raise (R310). -/
def xlatDone (x : Result) : Bool := !x.trans && (!x.redo || (x.held && x.bytes.any isSig))

/-- An entry that begins, or begins again, behind `l` may act: an NSIG that waits acts once the NPUTs and NATOMs have completed, any
other that waits once every entry has finished translating (R310, R362). -/
def goesAhead (l : List Result) (x : Result) : Bool :=
  !x.held || (if x.bytes.any isSig then l.all fun y => !y.puts || y.posted else l.all xlatDone)

/-- Place of the next entry to act among the results behind `ahead`. -/
def nextFrom (ahead : List Result) : List Result → Nat
  | [] => 0
  | x :: l => if x.redo && goesAhead ahead x then 0 else nextFrom (ahead ++ [x]) l + 1

/-- Place from a ring's head of the next entry to act: the first begun one that may, or the first that has not begun. -/
def nextIndex (r : Ring) : Nat := nextFrom [] r.results

/-- What has begun ahead of the next entry to begin. -/
def aheadOf (r : Ring) : List Result := r.results.take (nextIndex r)

/-- Engine `q` may begin its next entry (R35, R212, R310). -/
def canBegin (q : Nat) (c : Core) : Bool :=
  let r := getRing c q
  !r.stopped && decide (nextIndex r < r.occ) &&
    (if ringMany q then decide (nextIndex r < 8) && (aheadOf r).all (fun x => x.code == 0)
     else nextIndex r == 0 && !(q == 0 && c.nestMX.isSome) && !(q == 1 && c.nestSK.isSome))

/-- Every entry of the CM ring ahead of the next one has finished translating: only then does it move data (R310; log 26). The other
rings' entries translate as they begin. -/
def aheadDone (q : Nat) (c : Core) : Bool := q != 3 || (aheadOf (getRing c q)).all xlatDone

/-- The entry's wait is met (R33). -/
def waitMet (c : Core) (m : Cmd) : Bool :=
  decide (8 ≤ m.wtl.toNat) || decide (m.waitv.toNat ≤ (getTl c m.wtl.toNat).toNat)

/-- Ring `q` of the focused core begins a command that moves no data of its own (NSIG and NABORT, R362, R372): nothing happens
while the context does not run, the engine is busy or the wait is not met; then the command's own effect, given the context's
slot, follows. -/
def engineStart (q : Nat) (m : Cmd) (eff : Nat → State → State) (s : State) : State :=
  match curSlot s with
  | none => s
  | some slot => if canBegin q s.core && waitMet s.core m then eff slot s else s

/-- The results of a ring with that of the entry that begins. -/
def placeResult (g : Ring) (r : Result) : List Result :=
  g.results.take (nextIndex g) ++ r :: g.results.drop (nextIndex g + 1)

/-- What a begun entry leaves (R33, R34), among the ring's. -/
def addResult (q : Nat) (r : Result) (s : State) : State :=
  let g := getRing s.core q
  withCore s (setRing s.core q
    { g with results := placeResult g r, appended := 0, pages := [],
             taken := if nextIndex g < g.results.length then g.taken else none })

/-- The 48 bytes that ENQ wrote into entry `e` of ring `q`. -/
def entryBytes (c : Core) (q e : Nat) : Nat := readScratch c (entryOffset q e) 48

/-- Position in the ring of the next entry to begin. -/
def nextEntry (c : Core) (q : Nat) : Nat := ((getRing c q).rp + nextIndex (getRing c q)) % 64

/-- The 48 bytes of the next entry to act that the engine has read (R40). -/
def readBytes (g : Ring) : Option Nat := match g.results[nextIndex g]? with | some x => x.bytes | none => g.taken

/-- The engine has read the bytes of the next entry, which has not acted (R40). -/
def keepBytes (e : Nat) (g : Ring) : Ring :=
  match g.results[nextIndex g]? with
  | some x => { g with results := g.results.set (nextIndex g) { x with bytes := some e } }
  | none => { g with taken := some e }

/-- The 48 bytes with which the next entry executes: those that the engine has read, or would read now (R40). -/
def takenBytes (c : Core) (q : Nat) : Nat := (readBytes (getRing c q)).getD (entryBytes c q (nextEntry c q))

/-- The next entry of the CM ring has begun, and waits for what stands ahead of it (R310, R362). -/
def holdEntry (s : State) : State :=
  let e := takenBytes s.core 3
  addResult 3 { code := 0, detail := 0, statx := 0, tag := 0, rtl := 0, fills := [], busy := false, posted := false, puts := isPut e,
                redo := true, held := true, bytes := some e } s

/-- Ring `q` begins any other command, which on the CM ring waits until earlier entries have finished translating (R310). -/
def engineGo (q : Nat) (m : Cmd) (eff : Nat → State → State) (s : State) : State :=
  engineStart q m (if aheadDone q s.core then eff else fun _ t => holdEntry t) s

/-- The outcome of a command that runs to its end. -/
def endOk (q : Nat) (m : Cmd) (detail : Nat) (statx : Word) (fills : List Nat) (s : State) : State :=
  addResult q { code := 0, detail := detail, statx := statx, tag := m.tag.toNat, rtl := m.rtl.toNat, fills := fills,
                busy := false, posted := false } s

/-- The outcome of a command that cannot complete (R35). -/
def endBad (q : Nat) (code detail : Nat) (statx : Word) (s : State) : State :=
  addResult q { code := code, detail := detail, statx := statx, tag := 0, rtl := 0, fills := [], busy := false,
                posted := false } s

/-- A command that completes with ILLEGAL. -/
def illegal (q : Nat) (s : State) : State := endBad q codeIllegal 0 0 s

/-- The MCLOG entry of an engine's stop (R397). -/
def logStop (unit place : Nat) (s : State) : State :=
  logMc s (mcEntry 2 unit s.coreNo ((engSlot s).getD 0) place)

/-- An access at a virtual address that ended in a machine check, logged: the link, the table entry or the data that failed
(R396, R397). -/
def logMem (slot va : Nat) (s : State) : State :=
  let p := checkPlace s slot va (64 - va % 64)
  logStop p.1 p.2 s

/-- A fault of an engine's access (R286, R34): a request that waits for a RETRY leaves the entry unbegun in `s0`, any other
stops the command with the address in STATX. -/
def memBad (q : Nat) (slot : Nat) (e : Nat × Nat) (detail : Nat) (s0 s : State) : State :=
  if e.1 = codeRetry then s0
  else
    let t := if e.1 = codeCheck then logMem slot e.2 (touchVa slot e.2 s) else touchWalk s slot e.2
    endBad q e.1 detail (.ofNat 64 e.2) t

/-- A command's stop: a memory fault, or, with the third part true, an uncorrectable word of the core's own memory of
`unit`, whose place stands in the second part (R181, R198). -/
def ownBad (q unit slot detail : Nat) (e : Nat × Nat × Bool) (s0 s : State) : State :=
  if e.2.2 then logStop unit e.2.1 (endBad q codeCheck detail 0 s) else memBad q slot (e.1, e.2.1) detail s0 s

/-- Sectors written one after another; at a fault, what was written stays, with the fault and its address. -/
def putSectors (slot kh : Nat) : Nat → Nat → Nat → State → State × Option (Nat × Nat)
  | 0, _, _, s => (s, none)
  | n + 1, va, v, s =>
    match engStore s slot kh va 64 (v % 2 ^ 512) with
    | .error e => (s, some (e, va))
    | .ok t => putSectors slot kh n ((va + 64) % 2 ^ 64) (v / 2 ^ 512) t

/-- DETAIL of an entry's STATW (R34). -/
def entryDetail (c : Core) (q e : Nat) : Nat := readScratch c (entryOffset q e + 48) 6

/-- STATW and STATX written into entry `e` of ring `q` (R33, R34). -/
def writeStatus (c : Core) (q e code detail : Nat) (done stopped : Bool) (statx : Word) : Core :=
  writeScratch c (entryOffset q e + 48) 16
    (pack [(48, detail), (8, code), (6, 0), (1, if stopped then 1 else 0), (1, if done then 1 else 0), (64, statx.toNat)])

/-- An operand slot whose fill completes (R183). -/
def fillDone (c : Core) (x : Nat) : Core := setSlot c x { getSlot c x with st := .full, fill := false }

/-- A fill that is given up: the slot stays claimed (R215). -/
def fillDrop (c : Core) (x : Nat) : Core := setSlot c x { getSlot c x with fill := false }

/-- A fill may begin (R183). -/
def canFill (c : Core) (x : Nat) : Bool := (getSlot c x).st == .claimed && !(getSlot c x).fill

/-- Bytes written into a slot; words covered whole become correct (R198). -/
def fillBytes (c : Core) (x off n v : Nat) : Core :=
  let d := setSlot c x { getSlot c x with data := spliceBytes 131072 (getSlot c x).data off n v }
  { d with badSlots := c.badSlots.filter fun e =>
      !(e.1 == 0 && e.2.1 == x && decide (off ≤ 8 * e.2.2) && decide (8 * e.2.2 + 8 ≤ off + n)) }

/-- Bytes written into a slot's scale lane. -/
def fillLane (c : Core) (x off n v : Nat) : Core :=
  let d := setSlot c x { getSlot c x with lane := spliceBytes 8192 (getSlot c x).lane off n v }
  { d with badSlots := c.badSlots.filter fun e =>
      !(e.1 == 1 && e.2.1 == x && decide (off ≤ 8 * e.2.2) && decide (8 * e.2.2 + 8 ≤ off + n)) }

/-- A metadata entry appended (R217). -/
def mdqPush (c : Core) (v : Nat) : Core := { c with mdq := c.mdq ++ [.ofNat 8192 v] }

/-- A nest passes a slot: USERS falls, and an AUTO slot that nothing uses any more becomes free (R183). -/
def passSlot (c : Core) (x : Nat) : Core :=
  let v := getSlot c x
  let n := v.users - 1
  setSlot c x (if v.auto && n == 0 && v.st == .full then { v with users := n, st := .free, auto := false }
               else { v with users := n })

/-- USERS of a slot falls without freeing it (R214, R224). -/
def dropUser (c : Core) (x : Nat) : Core := setSlot c x { getSlot c x with users := (getSlot c x).users - 1 }

/-- USERS of a slot rises. -/
def addUser (c : Core) (x : Nat) : Core := setSlot c x { getSlot c x with users := (getSlot c x).users + 1 }

/-- Heat tokens for the next step of the focused core's MX or SK ring (R219 to R221): granted at once when no request waits
in the column and the pool holds them, or when TOKEN_GRANT has granted them; else the request joins the queue. -/
def takeTokens (sk : Bool) (w : Nat) (s : State) : State × Bool :=
  let k := colOf s.coreNo
  let col := getCol s k
  if (if sk then s.core.grantSK else s.core.grantMX) then
    (withCore s (if sk then { s.core with grantSK := false } else { s.core with grantMX := false }), true)
  else if col.tokq.any (fun r => r.core == s.coreNo && r.sk == sk) then (s, false)
  else if col.tokq.isEmpty && decide (w ≤ col.pool) then (setCol s k { col with pool := col.pool - w }, true)
  else (setCol s k { col with tokq := col.tokq ++ [{ core := s.coreNo, sk := sk, tokens := w, since := s.clock }] }, false)

/-- Requests of a core's ring leave the queue; the cycles that one has waited without a grant are no paused cycles (R221, R235;
log 83). -/
def dropRequest (core : Nat) (sk : Bool) (s : State) : State :=
  let k := colOf core
  let col := getCol s k
  setCol s k { col with tokq := col.tokq.filter fun r => !(r.core == core && r.sk == sk) }

/-- Steps 3 and 4 of R33 and retirement of the head entry: the timelines rise, the place becomes free (R172). -/
def retireEntry (q : Nat) (r : Result) (c : Core) : Core :=
  let c1 := if q < 4 then raiseTl c (q + 1) 1 else c
  let c2 := if r.rtl = 0 then c1 else raiseTl c1 (4 + r.rtl) 1
  let g := getRing c2 q
  setRing c2 q { g with rp := (g.rp + 1) % 64, occ := g.occ - 1, rseq := g.rseq + 1, results := g.results.drop 1 }

/-- Steps 1 and 2 of R33 for the `n`-th begun entry: fills that remain complete, STATX and STATW are written, the tag is
set. -/
def postEntry (q n : Nat) (r : Result) (c : Core) : Core :=
  let c1 := r.fills.foldl fillDone c
  let c2 := writeStatus c1 q (((getRing c q).rp + n) % 64) 0 r.detail true false r.statx
  let c3 := if q = 2 then { c2 with tags := c2.tags ||| (1#64 <<< r.tag) } else c2
  let g := getRing c3 q
  setRing c3 q { g with results := g.results.set n { r with posted := true, fills := [] } }

/-- The `n`-th begun entry of ring `q` completes (R33, R310); the head entry also retires. -/
def completeEntry (q n : Nat) (c : Core) : Core :=
  match (getRing c q).results[n]? with
  | none => c
  | some r =>
    if r.busy || r.redo || r.code != 0 || (getRing c q).stopped then c
    else if n ≠ 0 && !ringMany q then c
    else
      let d := if r.posted then c else postEntry q n r c
      if n = 0 then retireEntry q r d else d

/-- The head entry of ring `q` cannot complete: its status is written and the ring stops (R35); on a halted core host
software is told (R394). -/
def stopRing (q : Nat) (s : State) : State :=
  let g := getRing s.core q
  match g.results with
  | [] => s
  | r :: _ =>
    if r.code = 0 || r.busy || r.redo || g.stopped then s
    else
      let c := writeStatus s.core q g.rp r.code r.detail false true r.statx
      let t := withCore s (setRing c q { getRing c q with stopped := true })
      if s.core.halted then tellHost t (.ringStop s.coreNo q) else t

/-- ENGINE_ENTRY_COMPLETION (R33). -/
def execEngineEntryCompletion (ring n : BitVec 3) (s : State) : Host.Outcome State Fault Refusal :=
  .next (if (engSlot s).isSome then withCore s (completeEntry ring.toNat n.toNat s.core) else s)

/-- RING_STOP (R35): the entry at the head of the ring, which `n` = 0 names. -/
def execRingStop (ring n : BitVec 3) (s : State) : Host.Outcome State Fault Refusal :=
  .next (if (engSlot s).isSome && n == 0 then stopRing ring.toNat s else s)

/-- A slot is waiting for the fill of a begun entry. -/
def fillPending (s : State) (x : Nat) : Bool :=
  [0, 2].any (fun q => (getRing s.core q).results.any fun r => r.fills.contains x)

def getLane (s : State) (l : Nat) : Lane := Sparse.get Lane.idle s.lanes l
def setLane (s : State) (l : Nat) (v : Lane) : State := { s with lanes := Sparse.set Lane.idle s.lanes l v }

/-- A change of the slots of a list, each with its core. -/
def onSlots (f : Core → Nat → Core) (l : List (Nat × Nat)) (s : State) : State :=
  l.foldl (fun t p => setCore t p.1 (f (getCore t p.1) p.2)) s

/-- A fill begins (R183). -/
def fillBegin (c : Core) (x : Nat) : Core := setSlot c x { getSlot c x with fill := true }

/-- A transfer of a lane that has begun its fills completes them together (R250). -/
def completeFly (l n : Nat) (s : State) : State :=
  let v := getLane s l
  match v.fly[n]? with
  | none => s
  | some f => if f.pend.isSome then s else onSlots fillDone f.fills (setLane s l { v with fly := v.fly.eraseIdx n })

/-- The lane, and the place among its transfers in flight, of the one that fills a slot of the focused core. -/
def laneFill (s : State) (x : Nat) : Option (Nat × Nat) :=
  s.lanes.findSome? fun p => match p.2.fly.findIdx? fun f => f.pend.isNone && f.fills.contains (s.coreNo, x) with
    | some n => some (p.1, n)
    | none => none

/-- SLOT_FILL_COMPLETE (R183): the data is in place, and the slot becomes FULL, a lane's with the other members of its transfer
(R250). -/
def execSlotFillComplete (slot : BitVec 5) (s : State) : Host.Outcome State Fault Refusal :=
  .next (
    let x := slot.toNat
    if !(engSlot s).isSome || !(getSlot s.core x).fill then s
    else if fillPending s x then
      let c := fillDone s.core x
      let dropIn := fun (c : Core) (q : Nat) =>
        let l := (getRing c q).results.map (fun r => { r with fills := r.fills.filter (· != x) })
        setRing c q { getRing c q with results := l }
      withCore s (dropIn (dropIn c 0) 2)
    else match laneFill s x with
      | some (l, n) => completeFly l n s
      | none => s)

/-- CNOP (R37). -/
def effCnop (ring : Nat) (c : Cmd) (_ : Nat) (s : State) : State :=
  if c.arg = 0 then endOk ring c 0 0 [] s else illegal ring s
/-- CNOP on ring `ring`. -/
def execCnop (ring : BitVec 3) (c : Cmd) (s : State) : Host.Outcome State Fault Refusal :=
  .next (engineGo ring.toNat c (effCnop ring.toNat c) s)

end Sys2Proof.Machine
end

