-- ==== Sys2Proof/Machine/Nest.lean ====
section
/-! DEFINITION. Loop nests (R200 to R211): the nest image, which units and tiles its steps reach, the checks of a go
command, operand values of matrix formats (R203 to R205), and chunk updates of a tile (R187 to R189). -/
namespace Sys2Proof.Machine

/-- A level of a nest (R208). -/
structure Level where
  count : Nat
  astr : Int
  bstr : Int
  tstr : Int
  zf : Bool
  mp : Bool
  rt : Bool
deriving DecidableEq, Repr

/-- Bytes of a nest image. -/
def imgNat (img : BitVec 1280) (off n : Nat) : Nat := img.toNat / 2 ^ (8 * off) % 2 ^ (8 * n)

def imgABase (g : BitVec 1280) : Nat := imgNat g 0 2
def imgBBase (g : BitVec 1280) : Nat := imgNat g 2 2
def imgTBase (g : BitVec 1280) : Nat := imgNat g 4 1
def imgDepth (g : BitVec 1280) : Nat := imgNat g 5 1
def imgLtl (g : BitVec 1280) : Nat := imgNat g 6 1

/-- Level `l` of an image. -/
def imgLevel (g : BitVec 1280) (l : Nat) : Level :=
  let f := imgNat g (71 + 16 * l) 1
  { count := imgNat g (64 + 16 * l) 2, astr := signed 16 (imgNat g (66 + 16 * l) 2),
    bstr := signed 16 (imgNat g (68 + 16 * l) 2), tstr := signed 8 (imgNat g (70 + 16 * l) 1),
    zf := f.testBit 0, mp := f.testBit 1, rt := f.testBit 2 }

/-- Levels in use, the innermost first. -/
def imgLevels (g : BitVec 1280) : List Level := (List.range (imgDepth g)).map (imgLevel g)

/-- Fields that R208 requires to be zero are zero. -/
def imgZero (g : BitVec 1280) : Bool :=
  imgNat g 7 57 == 0 && (List.range 6).all fun l =>
    imgNat g (72 + 16 * l) 8 == 0 && imgNat g (71 + 16 * l) 1 / 8 == 0 &&
      (decide (l < imgDepth g) || imgNat g (64 + 16 * l) 16 == 0)

/-- A go command, its ARG cut into fields (R213, R228). -/
structure Go where
  sk : Bool
  sliced : Bool
  af : Nat
  bf : Nat
  set : Nat
  sp : Bool
  pal : Nat
  exp0 : Int
  /-- slice count of MMSL, else 0 -/
  sl : Nat
  /-- reserved bits of ARG are zero -/
  resOk : Bool
deriving DecidableEq, Repr

/-- Fields of an MMGO or SKGO. -/
def goOf (sk : Bool) (c : Cmd) : Go :=
  let a := c.arg.toNat
  { sk := sk, sliced := false, af := bits a 39 35, bf := bits a 34 30, set := bits a 29 29, sp := bits a 28 28 == 1,
    pal := bits a 27 27, exp0 := signed 16 (bits a 25 10), sl := 0,
    resOk := bits a 26 26 == 0 && bits a 9 0 == 0 }

/-- Fields of an MMSL. -/
def goSliced (c : Cmd) : Go :=
  let a := c.arg.toNat
  { sk := false, sliced := true, af := bits a 39 35, bf := bits a 34 30, set := bits a 29 29, sp := false, pal := 0,
    exp0 := 0, sl := bits a 28 25, resOk := bits a 24 0 == 0 }

/-- Element width in bits of a matrix format (R129). -/
def matBits (f : Nat) : Nat :=
  match f with
  | 0 | 19 => 2
  | 1 | 2 | 6 | 13 => 4
  | 7 | 8 | 14 | 15 => 6
  | 3 | 4 | 9 | 10 | 16 | 17 | 18 => 8
  | _ => 16

/-- A 16-bit operand format. -/
def mat16 (f : Nat) : Bool := f == 5 || f == 11 || f == 12
/-- A block-scaled format (R126). -/
def matMx (f : Nat) : Bool := decide (13 ≤ f) && decide (f ≤ 18)
/-- An integer format without a block scale (R188). -/
def matInt (f : Nat) : Bool := decide (f ≤ 5)

/-- The command sums in integer mode (R188, R227). -/
def goInt (g : Go) : Bool := g.sliced || (matInt g.af && matInt g.bf)

/-- The formats are those of R202 or R228. -/
def goFormats (g : Go) : Bool :=
  if g.sliced then
    g.af == g.bf && ((g.af == 20 && decide (1 ≤ g.sl) && decide (g.sl ≤ 4)) ||
      (g.af == 21 && decide (1 ≤ g.sl) && decide (g.sl ≤ 9)))
  else if g.sk then [3, 4, 9, 10, 18].contains g.af && [1, 19].contains g.bf && !g.sp
  else decide (g.af ≤ 18) && decide (g.bf ≤ 19) &&
    (!g.sp || ([1, 2, 3, 4, 6, 7, 8, 9, 10].contains g.bf && !mat16 g.af))

/-- Units of an A block and of a B block (R204, R229). -/
def goUnitsA (g : Go) : Nat := if g.sliced then 8 else matBits g.af / 2
def goUnitsB (g : Go) : Nat := if g.sliced then 64 else if g.sp then 2 * matBits g.bf else 4 * matBits g.bf

/-- Heat weight of a step (R201, R229). -/
def goWeight (g : Go) : Nat :=
  if g.sliced then (if g.af = 20 then 4 else 2)
  else if g.sk then 4
  else if mat16 g.af || mat16 g.bf then 24
  else
    let w := matBits g.bf
    if g.sp then (if w = 4 then 2 else 4)
    else if w = 8 ∨ w = 6 then 8 else if w = 4 then 4 else 2

/-- Cycles of a step (R201, R229). -/
def goCycles (g : Go) : Nat :=
  if g.sliced then (if g.af = 20 then 2 else 1)
  else if g.sk then 16
  else if mat16 g.af || mat16 g.bf then 16
  else
    let w := matBits g.bf
    if g.sp then (if w = 4 then 1 else 2)
    else if w = 8 ∨ w = 6 then 4 else if w = 4 then 2 else 1

/-- Least and greatest value of base + Σ i·stride over a nest. -/
def extremes (base : Int) (l : List (Nat × Int)) : Int × Int :=
  l.foldl (fun p x => (p.1 + min 0 (((x.1 : Int) - 1) * x.2), p.2 + max 0 (((x.1 : Int) - 1) * x.2))) (base, base)

/-- A set of natural numbers, as a bit mask, moved by an integer. -/
def shiftI (m : Nat) (k : Int) : Nat := if 0 ≤ k then m <<< k.toNat else m >>> (-k).toNat

/-- The union of a set moved by 0, str, …, (n − 1)·str. -/
def orShift (str : Int) (m : Nat) : Nat → Nat
  | 0 => 0
  | n + 1 => m ||| shiftI (orShift str m n) str

/-- A set after a level adds its multiples of a stride. -/
def spread (m : Nat) (x : Nat × Int) : Nat := orShift x.2 m (if x.2 = 0 then 1 else Nat.min x.1 2049)

/-- Values that base + Σ i·stride takes, as a bit mask; the extremes lie in range. -/
def reach (m : Nat) (l : List (Nat × Int)) : Nat := l.foldl spread m

def lvA (l : List Level) : List (Nat × Int) := l.map fun x => (x.count, x.astr)
def lvB (l : List Level) : List (Nat × Int) := l.map fun x => (x.count, x.bstr)
def lvT (l : List Level) : List (Nat × Int) := l.map fun x => (x.count, x.tstr)

/-- Some block of `n` units that begins in the set crosses a slot boundary. -/
def crosses (m n : Nat) : Bool := (List.range 2048).any fun u => m.testBit u && decide (64 < u % 64 + n)

/-- Every step's A and B block lies in operand memory within one slot, and its tiles within A0 to A79 (R210, R229, R230). -/
def goRanges (g : Go) (img : BitVec 1280) (l : List Level) : Bool :=
  let ea := extremes (imgABase img) (lvA l)
  let eb := extremes (imgBBase img) (lvB l)
  let et := extremes (imgTBase img) (lvT l)
  if decide (ea.1 < 0) || decide (2048 < ea.2 + goUnitsA g) || decide (eb.1 < 0) || decide (2048 < eb.2 + goUnitsB g) ||
     decide (et.1 < 0) || decide (79 < et.2 + (g.sl : Int) - (if g.sliced then 1 else 0)) then false
  else
    let ra := reach (1 <<< imgABase img) (lvA l)
    let rb := reach (1 <<< imgBBase img) (lvB l)
    !crosses ra (goUnitsA g) && !crosses rb (goUnitsB g) &&
      (!g.sliced || (List.range 2048).all fun u => (!ra.testBit u || u % 8 == 0) && (!rb.testBit u || u % 64 == 0))

/-- The ILLEGAL checks of a go command (R210, R230). -/
def goLegal (g : Go) (c : Cmd) (img : BitVec 1280) : Bool :=
  let l := imgLevels img
  g.resOk && imgZero img && c.p0 == 0 && c.p1 == 0 && c.p2 == 0 && c.p3 == 0 && goFormats g &&
  decide (1 ≤ imgDepth img) && decide (imgDepth img ≤ 6) && l.all (fun x => decide (1 ≤ x.count)) &&
  decide (imgLtl img ≤ 3) && (imgLtl img != 0 || l.all (fun x => !x.rt)) &&
  (if g.sp then l.any (fun x => x.mp) else l.all (fun x => !x.mp)) &&
  (!goInt g || decide (g.exp0 = 0)) && (g.bf == 19 || g.pal == 0) && goRanges g img l

/-- The least index of a level from `i` with which some target is still reachable by the inner levels. -/
def leastIdx (str : Int) (inner targets : Nat) : Nat → Nat → Nat
  | 0, i => i
  | n + 1, i => if shiftI targets (-(i * str)) &&& inner ≠ 0 then i else leastIdx str inner targets n (i + 1)

/-- The first index tuple, in the nest's order, whose sum of strides lies in the targets (a mask at offset 80): indices
with the outermost level first. `l` holds the levels, outermost first, each with the mask of what the levels inside it
reach. -/
def firstTuple : List (Nat × Int × Nat) → Nat → List Nat
  | [], _ => []
  | (n, str, inner) :: r, targets =>
    let i := if str = 0 then 0 else leastIdx str inner targets (Nat.min n 200) 0
    i :: firstTuple r (shiftI targets (-(i * str)))

/-- Levels, outermost first, with the masks that `firstTuple` wants. -/
def withInner (l : List Level) : List (Nat × Int × Nat) :=
  ((List.range l.length).map fun k =>
    let x := l.getD k { count := 1, astr := 0, bstr := 0, tstr := 0, zf := false, mp := false, rt := false }
    (x.count, x.tstr, reach (1 <<< 80) (lvT (l.take k)))).reverse

/-- The step with these indices (innermost first) zeroes its tile (R209). -/
def zeroes : List Level → List Nat → Bool
  | x :: l, i :: r => i == 0 && (x.zf || zeroes l r)
  | _, _ => false

/-- Tiles that the nest sums into (R208, R227). -/
def goTiles (g : Go) (img : BitVec 1280) (l : List Level) : List Nat :=
  let m := reach (1 <<< imgTBase img) (lvT l)
  (List.range 80).filter fun t => (List.range (if g.sliced then g.sl else 1)).any fun d => decide (d ≤ t) && m.testBit (t - d)

/-- Tiles that the first step that touches them sums into without zeroing them (R189, R210). -/
def sumTiles (g : Go) (img : BitVec 1280) (l : List Level) : List Nat :=
  let w := withInner l
  let m := reach (1 <<< imgTBase img) (lvT l)
  (goTiles g img l).filter fun t =>
    let bases := ((List.range (if g.sliced then g.sl else 1)).filter fun d => decide (d ≤ t) && m.testBit (t - d)).map (t - ·)
    let targets := bases.foldl (fun a b => a ||| (1 <<< (80 + b - imgTBase img))) 0
    !zeroes l (firstTuple w targets).reverse

/-- Some tile is summed into by the first step that touches it, without being zeroed, in the other mode (R189, R210). -/
def modeClash (g : Go) (img : BitVec 1280) (l : List Level) (c : Core) : Bool :=
  (sumTiles g img l).any fun t => tileMode (getTile c t) != goInt g

/-- The operand slots with a unit in a set of block starts. -/
def maskSlots (m : Nat) : List Nat := (List.range 32).filter fun x => (m >>> (64 * x)) % 2 ^ 64 != 0

/-- The read set of a nest (R211). -/
def readSet (img : BitVec 1280) (l : List Level) : List Nat :=
  maskSlots (reach (1 <<< imgABase img) (lvA l) ||| reach (1 <<< imgBBase img) (lvB l))

/-- Σ i·stride of a tuple. -/
def dotIdx (l : List (Nat × Int)) (idx : List Nat) : Int :=
  (List.zipWith (fun x (i : Nat) => (i : Int) * x.2) l idx).foldl (· + ·) 0

/-- Block starts of the steps after the one with these indices: for each level, its later indices with the outer levels
as they are and the inner levels free. -/
def laterMask (base : Nat) (l : List (Nat × Int)) (idx : List Nat) : Nat :=
  (List.range l.length).foldl (fun m k =>
    let x := l.getD k (1, 0)
    let i := idx.getD k 0
    if x.1 ≤ i + 1 then m
    else
      let start := (base : Int) + dotIdx (l.drop k) (idx.drop k) + x.2
      m ||| reach (spread (1 <<< start.toNat) (x.1 - 1 - i, x.2)) (l.take k)) 0

/-- The next tuple in the nest's order, none after the last. -/
def nextIdx : List Level → List Nat → Option (List Nat)
  | x :: l, i :: r => if i + 1 < x.count then some ((i + 1) :: r) else (nextIdx l r).map (0 :: ·)
  | _, _ => none

/-- Levels whose raise a step performs (R209): RT = 1 and every index up to the level at its end. -/
def levelRaises : List Level → List Nat → Nat
  | x :: l, i :: r => if i + 1 = x.count then (if x.rt then 1 else 0) + levelRaises l r else 0
  | _, _ => 0

/-- An operand value: m·2^e, or none for NaN and ±Inf. -/
abbrev MVal := Option (Int × Int)

/-- Value of a floating-point pattern as an operand. -/
def mvF (f x : Nat) : MVal :=
  match fdec (fmtOf f) x with
  | .fin neg m e => some (if neg then -(m : Int) else m, e)
  | _ => none

/-- Value of an element pattern of a matrix format, before a block scale (R122, R123, R126). -/
def matVal (f x : Nat) : MVal :=
  match f with
  | 0 => some (signed 2 x, 0)
  | 1 => some (signed 4 x, 0)
  | 2 => some ((x % 16 : Nat), 0)
  | 3 => some (signed 8 x, 0)
  | 4 => some ((x % 256 : Nat), 0)
  | 5 => some (signed 16 x, 0)
  | 6 | 13 => mvF 14 x
  | 7 | 14 => mvF 15 x
  | 8 | 15 => mvF 16 x
  | 9 | 16 => mvF 8 x
  | 10 | 17 => mvF 9 x
  | 11 => mvF 10 x
  | 12 => mvF 11 x
  | _ => some (signed 8 x, -6)

/-- A block scale applied: X − 127 added to the exponent, and NaN for X = 0xFF (R126). -/
def mxScale (x : Nat) (v : MVal) : MVal :=
  if x = 255 then none else v.map fun p => (p.1, p.2 + ((x : Int) - 127))

/-- The `n` elements of a run (a row of A, a column of B) that begins at bit `o` of the slot (R205). `lane` is the slot's
scale lane: the scale of a group whose first element begins at slot byte x is lane byte x div 4w. -/
def runVals (f : Nat) (data lane : Nat) (o n : Nat) : List MVal :=
  let w := matBits f
  let d := data / 2 ^ o % 2 ^ (w * n)
  (List.range n).map fun k =>
    let v := matVal f (d / 2 ^ (w * k) % 2 ^ w)
    if matMx f then mxScale (lane / 2 ^ (8 * ((o + w * (k / 32 * 32)) / 8 / (4 * w))) % 256) v else v

/-- The 64 elements of a CB2 column that begins at bit `o` (R127, R205). -/
def cbVals (pal data o : Nat) : List MVal :=
  let d := data / 2 ^ o % 2 ^ 128
  (List.range 64).map fun k => some (cb2Val pal (d / 2 ^ (16 * (k / 8)) % 65536) (k % 8), -3)

/-- Exact sum of dyadic numbers. -/
def addDy (a b : Int × Int) : Int × Int :=
  if a.2 ≤ b.2 then (a.1 + b.1 * 2 ^ (b.2 - a.2).toNat, a.2) else (a.1 * 2 ^ (a.2 - b.2).toNat + b.1, b.2)

/-- Exact sum of the products of two runs, and whether one of them is NaN or infinite (R203). -/
def dotProd (a b : List MVal) : (Int × Int) × Bool :=
  (a.zip b).foldl (fun s p =>
    match p.1, p.2 with
    | some x, some y => if x.1 * y.1 = 0 then s else (addDy s.1 (x.1 * y.1, x.2 + y.2), s.2)
    | _, _ => (s.1, true)) ((0, 0), false)

/-- K positions of the kept values of a sparse column (R203): nibbles of column j of a metadata entry. -/
def keptPos (meta_ : Nat) (j : Nat) : List Nat :=
  (List.range 16).flatMap fun g =>
    let n := meta_ / 2 ^ (64 * j + 4 * g) % 16
    [4 * g + n % 4, 4 * g + n / 4]

/-- v / 2^k rounded to the nearest integer, ties to even, and whether it was inexact. -/
def rneShift (v : Int) (k : Nat) : Int × Bool :=
  let q := v / (2 ^ k : Nat)
  let r := (v - q * (2 ^ k : Nat)).toNat
  if 2 * r < 2 ^ k ∨ (2 * r = 2 ^ k ∧ q % 2 = 0) then (q, r != 0) else (q + 1, r != 0)

/-- s / 2^e rounded to the nearest integer, ties to even. -/
def rneDy (s : Int × Int) (e : Int) : Int × Bool :=
  if e ≤ s.2 then (s.1 * 2 ^ (s.2 - e).toNat, false) else rneShift s.1 (e - s.2).toNat

/-- The 2,048 mantissas of a tile, row-major. -/
def tileMans (t : Tile) : List Int := (splitEls 48 2048 t.m.toNat).map (signed 48)

/-- A tile of mantissas and a status word (R186). -/
def mkTile (ms : List Int) (mode inexact ovf : Bool) (nv : Nat) (e : Int) : Tile :=
  { m := .ofNat 98304 (joinEls 48 (ms.map (wrapTo 48))),
    stat := .ofNat 64 (pack [(16, wrapTo 16 e), (16, 0), (16, nv), (13, 0), (1, if ovf then 1 else 0),
      (1, if inexact then 1 else 0), (1, if mode then 1 else 0)]) }

/-- The loop of R187: mantissas, exponent, INEXACT, OVF. -/
def scaledLoop (s : List (Int × Int)) : Nat → List Int → Int → Bool → Bool → List Int × Int × Bool × Bool
  | 0, ms, e, ix, ov => (ms, e, ix, ov)
  | n + 1, ms, e, ix, ov =>
    let rs := s.map fun x => rneDy x e
    let ts := List.zipWith (fun m r => m + r.1) ms rs
    let lost := rs.any (·.2)
    if ts.all (fun t => decide (t.natAbs < 2 ^ 46)) then (ts, e, ix || lost, ov)
    else if 32767 < e + 8 then
      (ts.map fun t => sat t (-(2 ^ 46 - 1)) (2 ^ 46 - 1), e, ix || lost, true)
    else scaledLoop s n (ms.map fun m => (rneShift m 8).1) (e + 8) true ov

/-- A chunk update in scaled mode (R187); `nv` has the bits of the rows with a NaN or infinite product. -/
def chunkScaled (t : Tile) (s : List (Int × Int)) (nv : Nat) : Tile :=
  let r := scaledLoop s 8200 (tileMans t) (tileExp t) (t.stat.getLsbD 62) (t.stat.getLsbD 61)
  mkTile r.1 false r.2.2.1 r.2.2.2 (bits t.stat.toNat 47 32 ||| nv) r.2.1

/-- A chunk update in integer mode (R188). A tile that another engine has put in scaled mode since the start check of R210 is
summed into all the same, and ends with MODE 1 and EXP 0: R189 and R237 do not say (log 62). -/
def chunkInt (t : Tile) (s : List Int) : Tile :=
  let ts := List.zipWith (· + ·) (tileMans t) s
  let out := ts.map fun x => sat x (-(2 ^ 47)) (2 ^ 47 - 1)
  mkTile out true (t.stat.getLsbD 62) (t.stat.getLsbD 61 || ts != out) (bits t.stat.toNat 47 32) 0

/-- A tile set to zero (R189). -/
def zeroTile (mode : Bool) (e0 : Int) : Tile := mkTile (List.replicate 2048 0) mode false false 0 (if mode then 0 else e0)

/-- A tile written whole; its words become correct (R198). -/
def putTile (c : Core) (k : Nat) (t : Tile) : Core :=
  { setTile c k t with badTiles := c.badTiles.filter fun e => !(e.1 == k || e == (127, k)) }

/-- A tile with an uncorrectable word: its place for MCLOG (R198, R397). -/
def tileBad (c : Core) (k : Nat) : Option Nat :=
  (c.badTiles.find? fun e => e.1 == k || e == (127, k)).map fun e => e.1 * 2 ^ 16 + e.2

/-- An uncorrectable word of a byte range of an area of operand memory: its place for MCLOG (R198, R397). -/
def slotBad (c : Core) (area x lo n : Nat) : Option Nat :=
  (c.badSlots.find? fun e => e.1 == area && e.2.1 == x && decide (lo < 8 * e.2.2 + 8) && decide (8 * e.2.2 < lo + n)).map
    fun e => e.1 * 2 ^ 21 + e.2.1 * 2 ^ 16 + e.2.2

/-- The nest of a ring. -/
def getNest (sk : Bool) (c : Core) : Option Nest := if sk then c.nestSK else c.nestMX
def setNest (sk : Bool) (c : Core) (n : Option Nest) : Core := if sk then { c with nestSK := n } else { c with nestMX := n }
/-- Cycles that the ring's running command has paused (R221). -/
def paused (sk : Bool) (c : Core) : Word := .ofNat 64 (if sk then c.pausedSK else c.pausedMX)
def setPaused (sk : Bool) (c : Core) (n : Nat) : Core := if sk then { c with pausedSK := n } else { c with pausedMX := n }

/-- The status word of a tile is uncorrectable: its place for MCLOG (R198, R397). -/
def statBad (c : Core) (k : Nat) : Option Nat := if c.badTiles.contains (127, k) then some (127 * 2 ^ 16 + k) else none

/-- A go command at the head of its ring with its wait met (R206, R210, R211). MODE of a tile that it sums into cannot be read
from an uncorrectable status word (R198). -/
def goStart (g : Go) (c : Cmd) (s : State) : State :=
  let q := if g.sk then 1 else 0
  let k := 2 * q + g.set
  let sh := Sparse.get Shadow.empty s.core.shadows k
  if !sh.loaded then s
  else if !goLegal g c sh.image then illegal q s
  else
    let l := imgLevels sh.image
    match (sumTiles g sh.image l).findSome? (statBad s.core) with
    | some p => logStop 3 p (endBad q codeCheck 0 0 s)
    | none =>
    if modeClash g sh.image l s.core then endBad q codeSlot 0 0 s
    else
      let c1 := (readSet sh.image l).foldl addUser s.core
      let n : Nest := { image := sh.image, cmd := c, sliced := g.sliced,
                        pal := if g.pal = 0 then s.core.pal0 else s.core.pal1, idx := l.map fun _ => 0, pair := 0,
                        held := none, popped := none, detail := 0 }
      let c2 := setPaused g.sk (setNest g.sk c1 (some n)) 0
      withCore s { c2 with shadows := Sparse.set Shadow.empty c2.shadows k { sh with loaded := false } }

/-- Slots of the nest's read set that it has not passed: those that this step or a later one reads. -/
def slotsLeft (n : Nest) : List Nat :=
  let l := imgLevels n.image
  let a := ((imgABase n.image : Int) + dotIdx (lvA l) n.idx).toNat
  let b := ((imgBBase n.image : Int) + dotIdx (lvB l) n.idx).toNat
  maskSlots (1 <<< a ||| 1 <<< b ||| laterMask (imgABase n.image) (lvA l) n.idx |||
    laterMask (imgBBase n.image) (lvB l) n.idx)

/-- A nest stops at an uncorrectable word (R224): its USERS counts are removed without freeing a slot. -/
def nestCheck (sk : Bool) (n : Nest) (unit place : Nat) (s : State) : State :=
  let c := setNest sk ((slotsLeft n).foldl dropUser s.core) none
  logStop unit place (endBad (if sk then 1 else 0) codeCheck n.detail (paused sk s.core) (withCore s c))

/-- After a step or the last pair step of a tuple (R209, R230): passes, level raises, and the next tuple or the end. -/
def nestAdvance (sk : Bool) (n : Nest) (s : State) : State :=
  let l := imgLevels n.image
  let a := ((imgABase n.image : Int) + dotIdx (lvA l) n.idx).toNat / 64
  let b := ((imgBBase n.image : Int) + dotIdx (lvB l) n.idx).toNat / 64
  let later := maskSlots (laterMask (imgABase n.image) (lvA l) n.idx ||| laterMask (imgBBase n.image) (lvB l) n.idx)
  let done := (if a = b then [a] else [a, b]).filter fun x => !later.contains x
  let c1 := done.foldl passSlot s.core
  let up := levelRaises l n.idx
  let c2 := if up = 0 then c1 else raiseTl c1 (4 + imgLtl n.image) up
  match nextIdx l n.idx with
  | some i => withCore s (setNest sk c2 (some { n with idx := i, pair := 0 }))
  | none => endOk (if sk then 1 else 0) n.cmd n.detail (paused sk s.core) [] (withCore s (setNest sk c2 none))

end Sys2Proof.Machine
end

