-- ==== Sys2Proof/Machine/Matrix.lean ====
section
/-! DEFINITION. The commands of the MX and SK rings (R194 to R196, R213 to R218, R228) and the steps of their nests (R209,
R230), with the column's heat tokens (R219, R220). -/
namespace Sys2Proof.Machine

/-- OPLD's data: `r` rows of `n` sectors from `va`, into slot bytes from `off`; at a fault what was written stays. The
result has the bytes written. -/
def opldRows (slot kh x n : Nat) (pitch : Nat) : Nat → Nat → Nat → Nat → State → State × Nat × Option (Nat × Nat)
  | 0, _, _, cnt, s => (s, cnt, none)
  | r + 1, va, off, cnt, s =>
    let rec row : Nat → Nat → Nat → Nat → State → State × Nat × Option (Nat × Nat)
      | 0, _, _, cnt, s => (s, cnt, none)
      | k + 1, va, off, cnt, s =>
        match engLoad s slot kh va 64 with
        | .error e => (s, cnt, some (e, va))
        | .ok v => row k ((va + 64) % 2 ^ 64) (off + 64) (cnt + 64)
            (let t := touchVa slot va s
             withCore t (fillBytes t.core x off 64 v))
    match row n va off cnt s with
    | (t, c, some e) => (t, c, some e)
    | (t, c, none) => opldRows slot kh x n pitch r ((va + pitch) % 2 ^ 64) (off + 64 * n) c t

/-- OPLD (R215). -/
def effOpld (c : Cmd) (slot : Nat) (s : State) : State :=
  let a := c.arg.toNat
  let x := bits a 39 35
  let uoff := bits a 34 29
  let n := bits a 28 21 + 1
  let r := bits a 20 13 + 1
  let kh := bits a 11 2
  let soff := bits c.p3.toNat 9 0
  let scnt := bits c.p3.toNat 20 10
  if bits a 12 12 ≠ 0 ∨ bits a 1 0 ≠ 0 ∨ c.p0.toNat % 64 ≠ 0 ∨ c.p1.toNat % 64 ≠ 0 ∨ 16384 < 256 * uoff + 64 * n * r ∨
     bits c.p3.toNat 63 21 ≠ 0 ∨ 1024 < soff + scnt ∨ (scnt = 0 ∧ c.p2 ≠ 0) then illegal 0 s
  else if !canFill s.core x then s
  else
    match opldRows slot kh x n c.p1.toNat r c.p0.toNat (256 * uoff) 0 s with
    | (t, cnt, some e) => memBad 0 slot e cnt s t
    | (t, cnt, none) =>
      match engReadB t slot kh scnt c.p2.toNat with
      | .error e => memBad 0 slot e cnt s t
      | .ok v =>
        let t1 := touchSectors slot ((scnt + 63) / 64) c.p2.toNat t
        let k := fillLane t1.core x soff scnt v
        endOk 0 c cnt 0 [x] (withCore t1 (setSlot k x { getSlot k x with fill := true }))
/-- OPLD on the MX ring. -/
def execOpld (c : Cmd) (s : State) : Host.Outcome State Fault Refusal := .next (engineGo 0 c (effOpld c) s)

/-- MMGO (R210 to R213). -/
def effMmgo (c : Cmd) (_ : Nat) (s : State) : State := goStart (goOf false c) c s
/-- MMGO on the MX ring: it takes its shadow set and starts its nest. -/
def execMmgo (c : Cmd) (s : State) : Host.Outcome State Fault Refusal := .next (engineGo 0 c (effMmgo c) s)

/-- MMSL (R228 to R230). -/
def effMmsl (c : Cmd) (_ : Nat) (s : State) : State := goStart (goSliced c) c s
/-- MMSL on the MX ring: it takes its shadow set and starts its nest. -/
def execMmsl (c : Cmd) (s : State) : Host.Outcome State Fault Refusal := .next (engineGo 0 c (effMmsl c) s)

/-- SKGO (R213). -/
def effSkgo (c : Cmd) (_ : Nat) (s : State) : State := goStart (goOf true c) c s
/-- SKGO on the SK ring: it takes its shadow set and starts its nest. -/
def execSkgo (c : Cmd) (s : State) : Host.Outcome State Fault Refusal := .next (engineGo 1 c (effSkgo c) s)

/-- Parameters that a command does not read are zero. -/
def noParams (c : Cmd) (p0 : Bool) : Bool := (p0 || c.p0 == 0) && c.p1 == 0 && c.p2 == 0 && c.p3 == 0

/-- ACCZ (R194, R195). -/
def effAccz (c : Cmd) (_ : Nat) (s : State) : State :=
  let a := c.arg.toNat
  let first := bits a 39 33
  let n := bits a 32 26 + 1
  let im := bits a 25 25 == 1
  let e0 := signed 16 (bits a 24 9)
  if 80 < first + n ∨ bits a 8 0 ≠ 0 ∨ !noParams c false ∨ (im ∧ e0 ≠ 0) then illegal 0 s
  else endOk 0 c 0 0 [] (withCore s
    ((List.range n).foldl (fun k i => putTile k (first + i) (zeroTile im e0)) s.core))
/-- ACCZ on the MX ring. -/
def execAccz (c : Cmd) (s : State) : Host.Outcome State Fault Refusal := .next (engineGo 0 c (effAccz c) s)

/-- The 12,352 bytes of a tile image (R196). -/
def tileImage (t : Tile) : Nat := t.m.toNat + 2 ^ 98304 * t.stat.toNat

/-- Tiles stored from tile `k`, one image each (R196). -/
def accstRun (slot : Nat) : Nat → Nat → Nat → State → State × Option (Nat × Nat × Bool)
  | 0, _, _, s => (s, none)
  | n + 1, k, va, s =>
    match tileBad s.core k with
    | some p => (s, some (codeCheck, p, true))
    | none =>
      match putSectors slot 0 193 va (tileImage { getTile s.core k with stat := (getTile s.core k).stat &&& statMask }) s with
      | (t, some e) => (t, some (e.1, e.2, false))
      | (t, none) => accstRun slot n (k + 1) ((va + 12352) % 2 ^ 64) t

/-- ACCST (R194, R196). -/
def effAccst (c : Cmd) (slot : Nat) (s : State) : State :=
  let a := c.arg.toNat
  let first := bits a 39 33
  let n := bits a 32 26 + 1
  if 80 < first + n ∨ bits a 25 0 ≠ 0 ∨ !noParams c true ∨ c.p0.toNat % 64 ≠ 0 then illegal 0 s
  else
    match accstRun slot n first c.p0.toNat s with
    | (t, none) => endOk 0 c 0 0 [] t
    | (t, some e) => ownBad 0 3 slot 0 e s t
/-- ACCST on the MX ring. -/
def execAccst (c : Cmd) (s : State) : Host.Outcome State Fault Refusal := .next (engineGo 0 c (effAccst c) s)

/-- Tiles loaded from tile `k`, each as one event (R196). -/
def accldRun (slot : Nat) : Nat → Nat → Nat → State → State × Option (Nat × Nat)
  | 0, _, _, s => (s, none)
  | n + 1, k, va, s =>
    match engReadS s slot 0 193 va with
    | .error e => (s, some e)
    | .ok v =>
      let t : Tile := { m := .ofNat 98304 v, stat := .ofNat 64 (v / 2 ^ 98304) &&& statMask }
      accldRun slot n (k + 1) ((va + 12352) % 2 ^ 64)
        (let u := touchSectors slot 193 va s
         withCore u (putTile u.core k t))

/-- ACCLD (R194, R196). -/
def effAccld (c : Cmd) (slot : Nat) (s : State) : State :=
  let a := c.arg.toNat
  let first := bits a 39 33
  let n := bits a 32 26 + 1
  if 80 < first + n ∨ bits a 25 0 ≠ 0 ∨ !noParams c true ∨ c.p0.toNat % 64 ≠ 0 then illegal 0 s
  else
    match accldRun slot n first c.p0.toNat s with
    | (t, none) => endOk 0 c 0 0 [] t
    | (t, some e) => memBad 0 slot e 0 s t
/-- ACCLD on the MX ring. -/
def execAccld (c : Cmd) (s : State) : Host.Outcome State Fault Refusal := .next (engineGo 0 c (effAccld c) s)

/-- Entries appended so far by the next entry of a ring: in this run, or as its DETAIL of an earlier run says (R218). -/
def appendedOf (c : Core) (q : Nat) : Nat :=
  if (getRing c q).appended = 0 then entryDetail c q (nextEntry c q) else (getRing c q).appended

/-- The leaves of the pages that `n` sectors from `va` lie in, each with its page's address, or the first fault (R218). -/
def leavesOf (s : State) (slot : Nat) : Nat → Nat → List (Nat × Leaf) → Except (Nat × Nat) (List (Nat × Leaf))
  | 0, _, l => .ok l
  | n + 1, va, l =>
    match translate s slot va .read with
    | .error e => .error (e, va)
    | .ok lf =>
      let p := (va / 2 ^ lf.lg * 2 ^ lf.lg, lf)
      leavesOf s slot n ((va + 64) % 2 ^ 64) (if l.contains p then l else l ++ [p])

/-- A page of the list covers the address. -/
def pageOf (l : List (Nat × Leaf)) (va : Nat) : Option Leaf :=
  (l.find? fun p => decide (p.1 ≤ va) && decide (va < p.1 + 2 ^ p.2.lg)).map (·.2)

/-- `n` sectors read through pages already translated (R218), as one number. -/
def readPages (s : State) (slot kh : Nat) (l : List (Nat × Leaf)) : Nat → Nat → Except (Nat × Nat) Nat
  | 0, _ => .ok 0
  | n + 1, va =>
    match pageOf l va with
    | none => .error (codeNotPresent, va)
    | some lf =>
      match (stillReach s slot lf).bind (engLoadAt s slot kh va 64) with
      | .error e => .error (e, va)
      | .ok x =>
        match readPages s slot kh l n ((va + 64) % 2 ^ 64) with
        | .error e => .error e
        | .ok r => .ok (x + 2 ^ 512 * r)

/-- Metadata entries appended in address order while the queue has room: how many stand appended, and a fault. -/
def mdqAppend (slot kh : Nat) (l : List (Nat × Leaf)) : Nat → Nat → Nat → State → State × Nat × Option (Nat × Nat)
  | 0, _, cnt, s => (s, cnt, none)
  | n + 1, va, cnt, s =>
    if 256 ≤ s.core.mdq.length then (s, cnt, none)
    else
      match readPages s slot kh l 16 va with
      | .error e => (s, cnt, some e)
      | .ok v =>
        mdqAppend slot kh l n ((va + 1024) % 2 ^ 64) (cnt + 1)
          (let t := touchSectors slot 16 va s
           withCore t (mdqPush t.core v))

/-- The pages of a metadata entry's source: those that it translated before it began to wait, or all of them now, the key
checked too (R218, R419). -/
def mdqPages (q slot kh total src : Nat) (s : State) : Except (Nat × Nat) (List (Nat × Leaf)) :=
  if (getRing s.core q).pages ≠ [] then .ok (getRing s.core q).pages
  else
    match engCheck s slot kh .read (16 * total) src with
    | .error e => .error e
    | .ok _ => leavesOf s slot (16 * total) src []

/-- A command that has appended its metadata entries, `total` of them, runs to its end (R218, R419). -/
def endMq (q : Nat) (c : Cmd) (total : Nat) (s : State) : State :=
  addResult q { code := 0, detail := total, statx := 0, tag := c.tag.toNat, rtl := c.rtl.toNat, fills := [], busy := false,
                posted := false, mq := true } s

/-- Metadata entries from memory into the queue, for ring `q` (R218, R419): all pages translate before the first entry is
appended and not again, the entry resumes at the count it has reached, and it waits for room. -/
def mdqRun (q : Nat) (c : Cmd) (slot kh total src : Nat) (s : State) : State :=
  match mdqPages q slot kh total src s with
  | .error e => memBad q slot e (appendedOf s.core q) s s
  | .ok l =>
    let d := appendedOf s.core q
    match mdqAppend slot kh l (total - d) ((src + 1024 * d) % 2 ^ 64) d s with
    | (t, cnt, some e) => memBad q slot e cnt s t
    | (t, cnt, none) =>
      if cnt = total then endMq q c total t
      else withCore t (setRing t.core q { getRing t.core q with appended := cnt, pages := l })

/-- MDQFILL (R218). -/
def effMdqfill (c : Cmd) (slot : Nat) (s : State) : State :=
  if bits c.arg.toNat 31 0 ≠ 0 ∨ !noParams c true ∨ c.p0.toNat % 64 ≠ 0 then illegal 0 s
  else mdqRun 0 c slot 0 (bits c.arg.toNat 39 32 + 1) c.p0.toNat s
/-- MDQFILL on the MX ring. -/
def execMdqfill (c : Cmd) (s : State) : Host.Outcome State Fault Refusal := .next (engineGo 0 c (effMdqfill c) s)

/-- CBTAB (R216). -/
def effCbtab (c : Cmd) (slot : Nat) (s : State) : State :=
  if bits c.arg.toNat 38 0 ≠ 0 ∨ !noParams c true ∨ c.p0.toNat % 64 ≠ 0 then illegal 1 s
  else
    match engReadS s slot 0 12 c.p0.toNat with
    | .error e => memBad 1 slot e 0 s s
    | .ok v =>
      let t := touchSectors slot 12 c.p0.toNat s
      endOk 1 c 0 0 [] (withCore t
        (if bits c.arg.toNat 39 39 = 0 then { t.core with pal0 := .ofNat 6144 v } else { t.core with pal1 := .ofNat 6144 v }))
/-- CBTAB on the SK ring. -/
def execCbtab (c : Cmd) (s : State) : Host.Outcome State Fault Refusal := .next (engineGo 1 c (effCbtab c) s)

/-- `n` bytes of the scratchpad from a byte offset, as one number. -/
def scratchNum (c : Core) (off : Nat) : Nat → Nat
  | 0 => 0
  | n + 1 => rowBytes (getRow c (off / 512)) (off % 512) 1 + 256 * scratchNum c (off + 1) n

/-- Some row of the range has an uncorrectable word: its place (R181). -/
def rowsBad (c : Core) (row n : Nat) : Option Nat :=
  (c.badRows.find? fun e => decide (row ≤ e.1) && decide (e.1 < row + n)).map fun e => e.1 * 2 ^ 16 + e.2

/-- Score of one query against one column (R214): signed bytes of the query, and the column's bytes. -/
def skDot (bound : Bool) (d : Nat) (qs : List Int) (key : Nat) : Int :=
  if bound then
    let mn := (splitEls 8 d key).map (signed 8)
    let mx := (splitEls 8 d (key / 2 ^ (8 * d))).map (signed 8)
    (List.zipWith (fun q (p : Int × Int) => max (q * p.1) (q * p.2)) qs (mn.zip mx)).foldl (· + ·) 0
  else (List.zipWith (· * ·) qs ((splitEls 4 d key).map (signed 4))).foldl (· + ·) 0

/-- Scores of the 16 queries and 128 columns, row-major (R214). -/
def skScores (c : Core) (bound : Bool) (d nc x uoff row0 : Nat) : List Int :=
  let qd := (getSlot c x).data.toNat / 2 ^ (2048 * uoff)
  let w := if bound then 2 * d else d / 2
  let keys := (List.range nc).map fun j => scratchNum c (512 * row0 + j * w) w
  (List.range 16).flatMap fun i =>
    let qs := (splitEls 8 d (qd / 2 ^ (8 * d * i))).map (signed 8)
    keys.map (skDot bound d qs) ++ List.replicate (128 - nc) 0

/-- SKSCORE (R214): it counts itself as a user of its slot, waits for the slot and for its tokens, and replaces the tile. -/
def effSkscore (c : Cmd) (_ : Nat) (s : State) : State :=
  let a := c.arg.toNat
  let tile := bits a 39 33
  let bound := bits a 32 32 == 1
  let dc := bits a 31 30
  let d := 64 * 2 ^ dc
  let nc := bits a 29 23 + 1
  let x := bits a 22 18
  let uoff := bits a 17 12
  let row0 := bits c.p0.toNat 12 0
  let w := if bound then 2 * d else d / 2
  let rows := (512 * row0 + nc * w + 511) / 512 - row0
  if 79 < tile ∨ dc = 3 ∨ bits a 11 0 ≠ 0 ∨ bits c.p0.toNat 63 13 ≠ 0 ∨ !noParams c true ∨
     16384 < 256 * uoff + 16 * d ∨ 6144 < row0 + rows then illegal 1 s
  else
    let s1 := if s.core.skCounted.isSome then s
              else withCore s (setPaused true { addUser s.core x with skCounted := some x } 0)
    if (getSlot s1.core x).st ≠ .full then s1
    else
      match takeTokens true ((if bound then 8 else 4) * d / 64) s1 with
      | (t, false) => t
      | (t, true) =>
        let px := paused true t.core
        let stop := fun (unit p : Nat) =>
          logStop unit p (endBad 1 codeCheck 0 px (withCore t { dropUser t.core x with skCounted := none }))
        match slotBad t.core 0 x (256 * uoff) (16 * d), rowsBad t.core row0 rows with
        | some p, _ => stop 2 p
        | none, some p => stop 1 p
        | none, none =>
          let v := mkTile (skScores t.core bound d nc x uoff row0) true false false 0 0
          let k := passSlot (putTile t.core tile v) x
          endOk 1 c 1 px [] (withCore t { k with skCounted := none })
/-- SKSCORE on the SK ring. -/
def execSkscore (c : Cmd) (s : State) : Host.Outcome State Fault Refusal := .next (engineGo 1 c (effSkscore c) s)

/-- The sums s of a K-step, row-major, and a mask of the rows with a NaN or infinite product (R203). -/
def stepSums (g : Go) (c : Core) (pal meta_ a b : Nat) : List (Int × Int) × Nat :=
  let A := getSlot c (a / 64)
  let B := getSlot c (b / 64)
  let oa := 2048 * (a % 64)
  let ob := 2048 * (b % 64)
  let wa := matBits g.af
  let wb := matBits g.bf
  let rows := (List.range 16).map fun i => runVals g.af A.data.toNat A.lane.toNat (oa + 64 * wa * i) 64
  let col : Nat → List MVal := fun j =>
    if g.bf = 19 then cbVals pal B.data.toNat (ob + 128 * j)
    else if g.sp then runVals g.bf B.data.toNat B.lane.toNat (ob + 32 * wb * j) 32
    else runVals g.bf B.data.toNat B.lane.toNat (ob + 64 * wb * j) 64
  let cols := (List.range 128).map fun j => (col j, keptPos meta_ j)
  let out := rows.map fun r => cols.map fun q =>
    dotProd (if g.sp then q.2.map fun p => r.getD p none else r) q.1
  ((out.flatten).map (·.1), joinEls 1 (out.map fun r => if r.any (·.2) then 1 else 0))

/-- An uncorrectable word that a step of the nest reads in operand memory (R198). -/
def stepBad (g : Go) (c : Core) (a b : Nat) : Option Nat :=
  let one := fun (f u n : Nat) =>
    let lo := 256 * (u % 64)
    let r := 4 * matBits f
    match slotBad c 0 (u / 64) lo (256 * n) with
    | some p => some p
    | none => if matMx f ∨ g.sliced then
        (if g.sliced then (if n = 8 then slotBad c 1 (u / 64) (32 * (u % 64 / 8)) 32 else slotBad c 1 (u / 64) 0 256) else slotBad c 1 (u / 64) (lo / r) ((lo + 256 * n - 1) / r - lo / r + 1))
      else none
  match one g.af a (goUnitsA g) with
  | some p => some p
  | none => one g.bf b (goUnitsB g)

/-- The step of the nest at its indices takes its metadata entry (R209, R217), none while the queue is empty. -/
def stepMeta (g : Go) (n : Nest) (c : Core) : Option (Nest × Core) :=
  if !g.sp then some (n, c)
  else
    let l := imgLevels n.image
    let m := (l.findIdx fun x => x.mp)
    let key := n.idx.drop m
    if n.popped = some key then some (n, c)
    else
      match c.mdq with
      | [] => none
      | e :: r => some ({ n with held := some e, popped := some key },
          { c with mdq := r,
                   badSlots := c.badSlots.filterMap fun b =>
                     if b.1 = 2 then (if b.2.2 < 128 then none else some (2, 0, b.2.2 - 128)) else some b })

/-- The head metadata entry has an uncorrectable word (R198). -/
def metaBad (g : Go) (n : Nest) (c : Core) : Option Nat :=
  if g.sp && n.popped != some (n.idx.drop ((imgLevels n.image).findIdx fun x => x.mp)) then slotBad c 2 0 0 1024 else none

/-- One K-step of the nest of the MX or SK ring, once its slots, metadata and tokens are ready (R209). It sums in the command's
mode even where another engine has changed the tile's MODE since the start check, and writes MODE anew: R189 and R210 name
no later check. No other event falls between its zeroing and its chunk update, which R190 counts as two (log 62). A metadata
entry with an uncorrectable word stops the nest before it leaves the queue (log 91). -/
def nestStep (sk : Bool) (s : State) : State :=
  match getNest sk s.core with
  | none => s
  | some n =>
    if n.sliced then s else
      let g := goOf sk n.cmd
      let l := imgLevels n.image
      let a := ((imgABase n.image : Int) + dotIdx (lvA l) n.idx).toNat
      let b := ((imgBBase n.image : Int) + dotIdx (lvB l) n.idx).toNat
      let t := ((imgTBase n.image : Int) + dotIdx (lvT l) n.idx).toNat
      if (getSlot s.core (a / 64)).st ≠ .full ∨ (getSlot s.core (b / 64)).st ≠ .full then s
      else
        match metaBad g n s.core with
        | some p => nestCheck sk n 2 p s
        | none =>
          match stepMeta g n s.core with
          | none => s
          | some (n1, c1) =>
            match takeTokens sk (goWeight g) (withCore s (setNest sk c1 (some n1))) with
            | (u, false) => u
            | (u, true) =>
              let z := zeroes l n.idx
              match stepBad g u.core a b, (if z then none else tileBad u.core t) with
              | some p, _ => nestCheck sk n1 2 p u
              | none, some p => nestCheck sk n1 3 p u
              | none, none =>
                let q := stepSums g u.core n.pal.toNat ((n1.held.getD 0).toNat) a b
                let t0 := if z then zeroTile (goInt g) g.exp0 else getTile u.core t
                let t1 := if goInt g then chunkInt t0 (q.1.map (·.1)) else chunkScaled t0 q.1 q.2
                nestAdvance sk { n1 with detail := (n.detail + 1) % 2 ^ 48 } (withCore u (putTile u.core t t1))

/-- Steps, or pair steps, that a nest has left (R223, R235). -/
def stepsLeft (n : Nest) : Nat :=
  let l := (imgLevels n.image).map (·.count)
  let total := l.foldl (· * ·) 1
  let done := (l.zip n.idx).foldr (fun e acc => acc * e.1 + e.2) 0
  if n.sliced then
    let p := (goSliced n.cmd).sl * ((goSliced n.cmd).sl + 1) / 2
    (total - done) * p - n.pair
  else total - done

/-- A pre-emption stops the nest at its next step: more than 36,000 cycles of it are left (R223). -/
def nestLong (sk : Bool) (n : Nest) : Bool :=
  decide (36000 < stepsLeft n * goCycles (if n.sliced then goSliced n.cmd else goOf sk n.cmd))

/-- The nest waits at a read of a slot that is not FULL, or for metadata (R223). A pause for heat tokens is none of these waits. -/
def nestWaits (sk : Bool) (n : Nest) (c : Core) : Bool :=
  let l := imgLevels n.image
  let a := ((imgABase n.image : Int) + dotIdx (lvA l) n.idx).toNat
  let b := ((imgBBase n.image : Int) + dotIdx (lvB l) n.idx).toNat
  (getSlot c (a / 64)).st != .full || (getSlot c (b / 64)).st != .full || (!n.sliced && (stepMeta (goOf sk n.cmd) n c).isNone)

/-- The nests of a core that a pre-emption finds waiting or with much left of them, or that have come to such a wait since, stop at
their next step (R223, R235). -/
def markNests (c : Core) : Core :=
  [false, true].foldl (fun d sk =>
    match getNest sk d with
    | some n => setNest sk d (some { n with stop := n.stop || nestLong sk n || nestWaits sk n d })
    | none => d) c

/-- The nest may go on: its context runs, or a pre-emption lets it complete (R223). -/
def nestMay (sk : Bool) (s : State) : Bool :=
  (curSlot s).isSome || ((engSlot s).isSome && (match getNest sk s.core with | some n => !n.stop | none => false))

/-- A nest's step; during a pre-emption, a wait that it has come to stops it (R223). -/
def nestOn (sk : Bool) (f : State → State) (s : State) : State :=
  if !nestMay sk s then s
  else if (curSlot s).isSome then f s
  else let t := f s; withCore t (markNests t.core)

/-- NEST_STEP (R209) of the MX nest, or of the SK nest. -/
def execNestStep (sk : Bool) (s : State) : Host.Outcome State Fault Refusal := .next (nestOn sk (nestStep sk) s)

/-- Pair π of the pair order (R226), for π below s(s + 1)/2. -/
def pairOf (pi : Nat) : Nat × Nat :=
  let rec go : Nat → Nat → Nat → Nat × Nat
    | 0, _, r => (1 + r, 1)
    | f + 1, d, r => if r < d - 1 then (1 + r, d - 1 - r) else go f (d + 1) (r - (d - 1))
  go 16 2 pi

/-- Slice `p` of an element as truncation gives it, or none for a bad element (R225): format 12 or 13 of R132, exponent ε. -/
def sliceOf (f x : Nat) (ep : Int) (p : Nat) : Option Int :=
  match fdec (fmtOf f) x with
  | .fin neg m e =>
    -- |x|·2^(−ε) = m·2^(e − ε) = num / 2^k
    let k := ep - e
    if m = 0 then some 0
    else if k < 0 ∨ 2 ^ k.toNat ≤ m then none
    else
      let y := m * 2 ^ (7 * p) / 2 ^ k.toNat % 128
      some (if neg then -(y : Int) else y)
  | _ => none

/-- Elements of a sliced A or B block: K positions per run, format, bits (R229). -/
def slicedK (af : Nat) : Nat := if af = 20 then 32 else 16
def slicedFmt (af : Nat) : Nat := if af = 20 then 12 else 13

/-- Slices of number `p` of the runs of a block at unit `u`: 16 rows of A, or 128 columns of B, with the run's exponents in
the scale lane (R229). -/
def sliceRuns (c : Core) (af u runs lane0 p : Nat) : List (List (Option Int)) :=
  let x := getSlot c (u / 64)
  let d := x.data.toNat / 2 ^ (2048 * (u % 64))
  let w := if af = 20 then 32 else 64
  (List.range runs).map fun i =>
    let ep := signed 16 (x.lane.toNat / 2 ^ (8 * (lane0 + 2 * i)) % 65536)
    let q := d / 2 ^ (w * slicedK af * i) % 2 ^ (w * slicedK af)
    (List.range (slicedK af)).map fun k => sliceOf (slicedFmt af) (q / 2 ^ (w * k) % 2 ^ w) ep p

/-- Bad elements of a block (R225, R231). -/
def badCount (l : List (List (Option Int))) : Nat := (l.flatten.filter fun e => e.isNone).length

/-- One pair step of an MMSL nest (R230). Its zeroing and its chunk update are two tile events (R190); nothing comes between
them here, which is one of the interleavings that R190 allows (log 62). -/
def pairStep (s : State) : State :=
  match getNest false s.core with
  | none => s
  | some n =>
    if !n.sliced then s else
      let g := goSliced n.cmd
      let l := imgLevels n.image
      let a := ((imgABase n.image : Int) + dotIdx (lvA l) n.idx).toNat
      let b := ((imgBBase n.image : Int) + dotIdx (lvB l) n.idx).toNat
      let t0 := ((imgTBase n.image : Int) + dotIdx (lvT l) n.idx).toNat
      let pq := pairOf n.pair
      let t := t0 + pq.1 + pq.2 - 2
      if (getSlot s.core (a / 64)).st ≠ .full ∨ (getSlot s.core (b / 64)).st ≠ .full then s
      else
        match takeTokens false (goWeight g) s with
        | (u, false) => u
        | (u, true) =>
          let z := pq.1 == 1 && zeroes l n.idx
          match stepBad g u.core a b, (if z then none else tileBad u.core t) with
          | some p, _ => nestCheck false n 2 p u
          | none, some p => nestCheck false n 3 p u
          | none, none =>
            let as_ := sliceRuns u.core g.af a 16 (32 * (a % 64 / 8)) pq.1
            let bs := sliceRuns u.core g.af b 128 0 pq.2
            let exc0 := n.detail / 2 ^ 32
            let exc := if n.pair = 0 then Nat.min (exc0 + badCount as_ + badCount bs) 65535 else exc0
            let sums := as_.flatMap fun r => bs.map fun q =>
              (List.zipWith (fun x y => (x.getD 0 : Int) * y.getD 0) r q).foldl (· + ·) 0
            let base := if z then zeroTile true 0 else getTile u.core t
            let n1 := { n with detail := (n.detail % 2 ^ 32 + 1) % 2 ^ 32 + 2 ^ 32 * exc }
            let v := withCore u (putTile u.core t (chunkInt base sums))
            if n.pair + 1 = g.sl * (g.sl + 1) / 2 then nestAdvance false n1 v
            else withCore v (setNest false v.core (some { n1 with pair := n.pair + 1 }))

/-- PAIR_STEP (R230). -/
def execPairStep (s : State) : Host.Outcome State Fault Refusal := .next (nestOn false pairStep s)

/-- `n` refills of a column (R219, R409): what TOKCTL holds takes effect with them, REFILL unless APPLIED is limited or the column
throttled, and CAP truncates the pool. -/
def refill (n : Nat) (c : Column) : Column :=
  let applied := if c.throttled then c.applied else if c.limited then Nat.min c.applied c.refill else c.refill
  { c with limitOn := c.limit, refillOn := c.refill, applied := applied, pool := Nat.min c.cap (c.pool + n * applied),
           refilled := c.refilled + n }

/-- TOKEN_REFILL (R219, R409): the refill of one microsecond that has begun and has not been done. -/
def execTokenRefill (col : BitVec 3) (s : State) : Host.Outcome State Fault Refusal :=
  .next (
    let c := getCol s col.toNat
    if c.refilled < devNs s / 1000 then setCol s col.toNat (refill 1 c) else s)

/-- TOKEN_GRANT (R220): the head request is granted once the pool holds it; its wait is counted as paused (R221). -/
def execTokenGrant (col : BitVec 3) (s : State) : Host.Outcome State Fault Refusal :=
  .next (
    let c := getCol s col.toNat
    match c.tokq with
    | [] => s
    | r :: rest =>
      if r.tokens ≤ c.pool then
        let s1 := setCol s col.toNat { c with pool := c.pool - r.tokens, tokq := rest }
        let k := getCore s1 r.core
        let w := s.clock - r.since
        setCore s1 r.core (if r.sk then { k with grantSK := true, pausedSK := k.pausedSK + w }
                           else { k with grantMX := true, pausedMX := k.pausedMX + w })
      else s)

end Sys2Proof.Machine
end

