-- ==== Sys2Proof/Machine/Copy.lean ====
section
/-! DEFINITION. The copy commands of the CP ring (R416 to R420, R429, R430). A command copies its sectors in ascending
order, one of the orders that R417 allows; a fault in translation writes nothing. -/
namespace Sys2Proof.Machine

/-- End of the rows that commands may name: the ring rows lie above (R171, R416). -/
def rowsEnd : Nat := 512 * 6096

/-- A row operand: a row in bits [12:0], the other bits zero, `n` bytes within the rows (R416). -/
def rowOk (p : Word) (n : Nat) : Bool := decide (p.toNat < 8192) && decide (512 * p.toNat + n ≤ rowsEnd)

/-- A side of `n` sectors: a row, or a 64-byte-aligned virtual address (R416). -/
def sideOk (rows : Bool) (p : Word) (n : Nat) : Bool := if rows then rowOk p (64 * n) else p.toNat % 64 == 0

/-- Byte address of a side: a scratchpad byte offset, or a virtual address. -/
def sideBase (rows : Bool) (p : Word) : Nat := if rows then 512 * p.toNat else p.toNat

/-- A side's address moved, modulo 2^64 on the virtual side. -/
def sideMove (a : Nat) (d : Int) : Nat := wrapTo 64 ((a : Int) + d)

/-- A 64-byte sector of a side is read: scratchpad bytes, where an uncorrectable word counts only when it lies in the sector (R181;
log 84), or memory. -/
def sideRead (slot kh : Nat) (rows : Bool) (a : Nat) (s : State) : Except (Nat × Nat × Bool) (Nat × State) :=
  if rows then
    match s.core.badRows.find? (fun e => e.1 == a / 512 && decide (a % 512 ≤ 8 * e.2) && decide (8 * e.2 < a % 512 + 64)) with
    | some e => .error (codeCheck, e.1 * 2 ^ 16 + e.2, true)
    | none => .ok (readScratch s.core a 64, s)
  else
    match engLoad s slot kh a 64 with
    | .error e => .error (e, a, false)
    | .ok v => .ok (v, touchVa slot a s)

/-- A 64-byte sector of a side is written: a masked row write (R164), or memory. -/
def sideWrite (slot kh : Nat) (rows : Bool) (a v : Nat) (s : State) : Except (Nat × Nat × Bool) State :=
  if rows then .ok (withCore s (writeScratch s.core a 64 v))
  else
    match engStore s slot kh a 64 v with
    | .error e => .error (e, a, false)
    | .ok t => .ok t

/-- `n` sectors copied from `a` to `d`, in ascending order; at a fault what was written stays (R417). -/
def copyRun (slot kh : Nat) (sr dr : Bool) : Nat → Nat → Nat → State → State × Option (Nat × Nat × Bool)
  | 0, _, _, s => (s, none)
  | n + 1, a, d, s =>
    match sideRead slot kh sr a s with
    | .error e => (s, some e)
    | .ok (v, t) =>
      match sideWrite slot kh dr d v t with
      | .error e => (t, some e)
      | .ok u => copyRun slot kh sr dr n (sideMove a 64) (sideMove d 64) u

/-- The translations of a virtual side (R417), nothing for a row side. -/
def sideCheck (s : State) (slot kh : Nat) (rows : Bool) (u : Use) (n a : Nat) : Except (Nat × Nat) Unit :=
  if rows then .ok () else engCheck s slot kh u n a

/-- CPY (R416, R417). -/
def effCpy (c : Cmd) (slot : Nat) (s : State) : State :=
  let a := c.arg.toNat
  let sr := bits a 39 39 == 1
  let dr := bits a 38 38 == 1
  let n := bits a 37 20 + 1
  let kh := bits a 19 10
  if bits a 9 0 ≠ 0 ∨ c.p2 ≠ 0 ∨ c.p3 ≠ 0 ∨ !sideOk sr c.p0 n ∨ !sideOk dr c.p1 n then illegal 2 s
  else
    match sideCheck s slot kh sr .read n c.p0.toNat, sideCheck s slot kh dr .write n c.p1.toNat with
    | .error e, _ => memBad 2 slot e 0 s s
    | .ok _, .error e => memBad 2 slot e 0 s s
    | .ok _, .ok _ =>
      match copyRun slot kh sr dr n (sideBase sr c.p0) (sideBase dr c.p1) s with
      | (t, some e) => ownBad 2 1 slot 0 e s t
      | (t, none) => endOk 2 c (64 * n) 0 [] t
/-- CPY on the CP ring. -/
def execCpy (c : Cmd) (s : State) : Host.Outcome State Fault Refusal := .next (engineGo 2 c (effCpy c) s)

/-- Rows of a CPYS copied (R418). -/
def copyRows (slot kh : Nat) (sr dr : Bool) (n : Nat) (sp dp : Int) :
    Nat → Nat → Nat → State → State × Option (Nat × Nat × Bool)
  | 0, _, _, s => (s, none)
  | r + 1, a, d, s =>
    match copyRun slot kh sr dr n a d s with
    | (t, some e) => (t, some e)
    | (t, none) => copyRows slot kh sr dr n sp dp r (sideMove a sp) (sideMove d dp) t

/-- The translations of the rows of a pitched side (R418). -/
def rowsCheck (s : State) (slot kh : Nat) (rows : Bool) (u : Use) (n : Nat) (p : Int) : Nat → Nat → Except (Nat × Nat) Unit
  | 0, _ => .ok ()
  | r + 1, a =>
    match sideCheck s slot kh rows u n a with
    | .error e => .error e
    | .ok _ => rowsCheck s slot kh rows u n p r (sideMove a p)

/-- A base and a pitch of CPYS: aligned, and within the rows on a scratchpad side (R418). -/
def pitchOk (rows : Bool) (base pitch : Word) (n r : Nat) : Bool :=
  let p := signed 64 pitch.toNat
  let far := ((r : Int) - 1) * p
  pitch.toNat % 64 == 0 && base.toNat % 64 == 0 &&
    (!rows || (decide (base.toNat < 2 ^ 22) && decide (0 ≤ (base.toNat : Int) + min 0 far) &&
      decide ((base.toNat : Int) + max 0 far + 64 * n ≤ rowsEnd)))

/-- CPYS (R418). -/
def effCpys (c : Cmd) (slot : Nat) (s : State) : State :=
  let a := c.arg.toNat
  let sr := bits a 39 39 == 1
  let dr := bits a 38 38 == 1
  let n := bits a 37 30 + 1
  let r := bits a 29 18 + 1
  let kh := bits a 17 8
  let sp := signed 64 c.p2.toNat
  let dp := signed 64 c.p3.toNat
  if bits a 7 0 ≠ 0 ∨ !pitchOk sr c.p0 c.p2 n r ∨ !pitchOk dr c.p1 c.p3 n r then illegal 2 s
  else
    match rowsCheck s slot kh sr .read n sp r c.p0.toNat, rowsCheck s slot kh dr .write n dp r c.p1.toNat with
    | .error e, _ => memBad 2 slot e 0 s s
    | .ok _, .error e => memBad 2 slot e 0 s s
    | .ok _, .ok _ =>
      match copyRows slot kh sr dr n sp dp r c.p0.toNat c.p1.toNat s with
      | (t, some e) => ownBad 2 1 slot 0 e s t
      | (t, none) => endOk 2 c (64 * n * r) 0 [] t
/-- CPYS on the CP ring. -/
def execCpys (c : Cmd) (s : State) : Host.Outcome State Fault Refusal := .next (engineGo 2 c (effCpys c) s)

/-- Sectors of a side written into an operand slot from byte `off`: the bytes written, and a fault. -/
def opRun (slot kh x : Nat) (sr : Bool) : Nat → Nat → Nat → Nat → State → State × Nat × Option (Nat × Nat × Bool)
  | 0, _, _, cnt, s => (s, cnt, none)
  | n + 1, a, off, cnt, s =>
    match sideRead slot kh sr a s with
    | .error e => (s, cnt, some e)
    | .ok (v, t) => opRun slot kh x sr n (sideMove a 64) (off + 64) (cnt + 64) (withCore t (fillBytes t.core x off 64 v))

/-- `n` sectors of a side as one number. -/
def sideNum (slot kh : Nat) (sr : Bool) : Nat → Nat → State → Except (Nat × Nat × Bool) (Nat × State)
  | 0, _, s => .ok (0, s)
  | n + 1, a, s =>
    match sideRead slot kh sr a s with
    | .error e => .error e
    | .ok (v, t) =>
      match sideNum slot kh sr n (sideMove a 64) t with
      | .error e => .error e
      | .ok (w, u) => .ok (v + 2 ^ 512 * w, u)

/-- Metadata entries appended from rows (R419). -/
def mdqRows (slot : Nat) : Nat → Nat → Nat → State → State × Nat × Option (Nat × Nat × Bool)
  | 0, _, cnt, s => (s, cnt, none)
  | n + 1, a, cnt, s =>
    if 256 ≤ s.core.mdq.length then (s, cnt, none)
    else
      match sideNum slot 0 true 16 a s with
      | .error e => (s, cnt, some e)
      | .ok (v, t) => mdqRows slot n (a + 1024) (cnt + 1) (withCore t (mdqPush t.core v))

/-- CPYOP with MQ = 0: a slot fill (R419). -/
def cpyopFill (c : Cmd) (slot : Nat) (s : State) : State :=
  let a := c.arg.toNat
  let sr := bits a 39 39 == 1
  let x := bits a 37 33
  let uoff := bits a 32 27
  let n := bits a 26 15 + 1
  let kh := bits a 14 5
  let soff := bits c.p2.toNat 9 0
  let scnt := bits c.p2.toNat 20 10
  if bits a 4 0 ≠ 0 ∨ c.p3 ≠ 0 ∨ bits c.p2.toNat 63 21 ≠ 0 ∨ !sideOk sr c.p0 n ∨ 16384 < 256 * uoff + 64 * n ∨
     1024 < soff + scnt ∨ (scnt = 0 ∧ c.p1 ≠ 0) then illegal 2 s
  else if !canFill s.core x then s
  else
    match sideCheck s slot kh sr .read n c.p0.toNat with
    | .error e => memBad 2 slot e 0 s s
    | .ok _ =>
      match opRun slot kh x sr n (sideBase sr c.p0) (256 * uoff) 0 s with
      | (t, cnt, some e) => ownBad 2 1 slot cnt e s t
      | (t, cnt, none) =>
        match engReadB t slot kh scnt c.p1.toNat with
        | .error e => memBad 2 slot e cnt s t
        | .ok v =>
          let t1 := touchSectors slot ((scnt + 63) / 64) c.p1.toNat t
          let k := fillLane t1.core x soff scnt v
          endOk 2 c cnt 0 [x] (withCore t1 (setSlot k x { getSlot k x with fill := true }))

/-- CPYOP with MQ = 1: metadata entries appended (R419). -/
def cpyopMq (c : Cmd) (slot : Nat) (s : State) : State :=
  let a := c.arg.toNat
  let sr := bits a 39 39 == 1
  let n := bits a 26 15 + 1
  let kh := bits a 14 5
  if bits a 37 27 ≠ 0 ∨ bits a 4 0 ≠ 0 ∨ c.p1 ≠ 0 ∨ c.p2 ≠ 0 ∨ c.p3 ≠ 0 ∨ n % 16 ≠ 0 ∨ !sideOk sr c.p0 n then illegal 2 s
  else if !sr then mdqRun 2 c slot kh (n / 16) c.p0.toNat s
  else
    let d := appendedOf s.core 2
    match mdqRows slot (n / 16 - d) (512 * c.p0.toNat + 1024 * d) d s with
    | (t, cnt, some e) => ownBad 2 1 slot cnt e s t
    | (t, cnt, none) =>
      if cnt = n / 16 then endMq 2 c cnt t
      else withCore t (setRing t.core 2 { getRing t.core 2 with appended := cnt })

/-- CPYOP (R419). -/
def effCpyop (c : Cmd) (slot : Nat) (s : State) : State :=
  if bits c.arg.toNat 38 38 = 1 then cpyopMq c slot s else cpyopFill c slot s
/-- CPYOP on the CP ring. -/
def execCpyop (c : Cmd) (s : State) : Host.Outcome State Fault Refusal := .next (engineGo 2 c (effCpyop c) s)

/-- `n` sectors of a side set to one value. -/
def fillRun (slot kh : Nat) (dr : Bool) (v : Nat) : Nat → Nat → State → State × Option (Nat × Nat × Bool)
  | 0, _, s => (s, none)
  | n + 1, d, s =>
    match sideWrite slot kh dr d v s with
    | .error e => (s, some e)
    | .ok t => fillRun slot kh dr v n (sideMove d 64) t

/-- CPYFILL (R420). -/
def effCpyfill (c : Cmd) (slot : Nat) (s : State) : State :=
  let a := c.arg.toNat
  let dr := bits a 38 38 == 1
  let n := bits a 37 20 + 1
  let kh := bits a 19 10
  if bits a 39 39 ≠ 0 ∨ bits a 9 0 ≠ 0 ∨ c.p0 ≠ 0 ∨ c.p3 ≠ 0 ∨ !sideOk dr c.p1 n then illegal 2 s
  else
    match sideCheck s slot kh dr .write n c.p1.toNat with
    | .error e => memBad 2 slot e 0 s s
    | .ok _ =>
      match fillRun slot kh dr (joinEls 64 (List.replicate 8 c.p2.toNat)) n (sideBase dr c.p1) s with
      | (t, some e) => ownBad 2 1 slot 0 e s t
      | (t, none) => endOk 2 c (64 * n) 0 [] t
/-- CPYFILL on the CP ring. -/
def execCpyfill (c : Cmd) (s : State) : Host.Outcome State Fault Refusal := .next (engineGo 2 c (effCpyfill c) s)

/-- The translations of a gather's sources (R430). -/
def gatherCheck (s : State) (slot kh : Nat) (off n : Nat) : List Nat → Except (Nat × Nat) Unit
  | [] => .ok ()
  | a :: r =>
    if a = 0 then gatherCheck s slot kh off n r
    else
      match engCheck s slot kh .read n ((a + off) % 2 ^ 64) with
      | .error e => .error e
      | .ok _ => gatherCheck s slot kh off n r

/-- The pieces of a gather, in list order (R430). -/
def gatherRun (slot kh : Nat) (dr : Bool) (off n : Nat) : List Nat → Nat → State → State × Option (Nat × Nat × Bool)
  | [], _, s => (s, none)
  | a :: r, d, s =>
    match (if a = 0 then fillRun slot kh dr 0 n d s else copyRun slot kh false dr n ((a + off) % 2 ^ 64) d s) with
    | (t, some e) => (t, some e)
    | (t, none) => gatherRun slot kh dr off n r (sideMove d (64 * n)) t

/-- CPYG (R429, R430). -/
def effCpyg (c : Cmd) (slot : Nat) (s : State) : State :=
  let a := c.arg.toNat
  let lr := bits a 39 39 == 1
  let dr := bits a 38 38 == 1
  let nd := bits a 37 32 + 1
  let sum := bits a 31 31
  let n := bits a 30 20 + 1
  let kh := bits a 19 10
  let off := c.p2.toNat
  if bits a 9 0 ≠ 0 ∨ c.p3 ≠ 0 ∨ off % 64 ≠ 0 ∨ 2 ^ 32 ≤ off ∨ (if lr then !rowOk c.p0 (32 * nd) else c.p0.toNat % 64 ≠ 0) ∨
     !sideOk dr c.p1 (n * nd) then illegal 2 s
  else
    match sideNum slot 0 lr ((nd + 1) / 2) (sideBase lr c.p0) s with
    | .error e => ownBad 2 1 slot 0 e s s
    | .ok (l, s1) =>
      let as_ := (List.range nd).map fun d => l / 2 ^ (256 * d + 64 * sum) % 2 ^ 64
      if (List.range nd).any (fun d => l / 2 ^ (256 * d) % 2 ^ 6 != 0 || l / 2 ^ (256 * d + 64) % 2 ^ 6 != 0) then illegal 2 s1
      else
        match gatherCheck s1 slot kh off n as_, sideCheck s1 slot kh dr .write (n * nd) c.p1.toNat with
        | .error e, _ => memBad 2 slot e 0 s s1
        | .ok _, .error e => memBad 2 slot e 0 s s1
        | .ok _, .ok _ =>
          match gatherRun slot kh dr off n as_ (sideBase dr c.p1) s1 with
          | (t, some e) => ownBad 2 1 slot 0 e s t
          | (t, none) => endOk 2 c (64 * n * nd) 0 [] t
/-- CPYG on the CP ring. -/
def execCpyg (c : Cmd) (s : State) : Host.Outcome State Fault Refusal := .next (engineGo 2 c (effCpyg c) s)

end Sys2Proof.Machine
end

