-- ==== Sys2Proof/Machine/Kv.lean ====
section
/-! DEFINITION. The block store of a column (R318 to R329): storage of frames and quarters, block records, rows and
summaries in memory, and requantisation with its epochs. `Kw` is a state with the store that a command works on; the store
goes back into the context when the command's store event takes place. -/
namespace Sys2Proof.Machine

/-- A state and the store of the column that a command changes. -/
structure Kw where
  s : State
  kv : KvStore
  /-- a frame of the spill reserve has been taken (R324) -/
  spill : Bool
deriving DecidableEq, Repr

/-- Head dimension, bytes of a frame and of a summary (R318 to R320). -/
def StoreRec.d (r : StoreRec) : Nat := 64 * 2 ^ r.dc
def StoreRec.fb (r : StoreRec) : Nat := 256 * r.kvh * r.d
def StoreRec.sb (r : StoreRec) : Nat := 38 * r.kvh * r.d

/-- A survivor bitmap of all ones (R320). -/
def survAll : Word := 0xFFFFFFFFFFFFFFFF

/-- Quarters that a format takes, as a mask from quarter 0 (R319). -/
def fmtMask (fmt : Nat) : Nat := match fmt with | 0 => 15 | 1 => 3 | _ => 1

/-- First quarter at which a block of the format fits a partly used frame (R323). -/
def fitQ (mask fmt : Nat) : Option Nat :=
  (match fmt with | 0 => [] | 1 => [0, 2] | _ => [0, 1, 2, 3]).find? fun q => Nat.land (mask / 2 ^ q) (fmtMask fmt) == 0

/-- The lowest-numbered partly used frame with room, and the quarter (R323). -/
def partRoom (used : Sparse Nat) (fmt : Nat) : Option (Nat × Nat) :=
  used.findSome? fun p => (fitQ p.2 fmt).map fun q => (p.1, q)

/-- The lowest number from `i` that neither list holds. -/
def lowestFree (a b : List Nat) : Nat → Nat → Nat
  | 0, i => i
  | n + 1, i => if a.contains i || b.contains i then lowestFree a b n (i + 1) else i

/-- The frame that an allocation takes, and whether it came from the reserve (R323). -/
def takeFrame (r : StoreRec) (kv : KvStore) : Nat × Bool :=
  let us := kv.used.map (·.1)
  let f := lowestFree us kv.reserve (us.length + kv.reserve.length) 0
  if f < r.nframe then (f, false) else
    match kv.reserve with
    | g :: _ => (g, true)
    | [] => (f, false)

/-- Storage of one block taken (R323): the number 4f + q of its first quarter, whether it opens a new frame, whether that came
from the reserve, and the store. -/
def allocKv (r : StoreRec) (fmt : Nat) (kv : KvStore) : Nat × Bool × Bool × KvStore :=
  match partRoom kv.used fmt with
  | some (f, q) => (4 * f + q, false, false, { kv with used := Sparse.set 0 kv.used f (Sparse.get 0 kv.used f + 2 ^ q * fmtMask fmt) })
  | none =>
    let t := takeFrame r kv
    (4 * t.1, true, t.2, { kv with used := Sparse.set 0 kv.used t.1 (fmtMask fmt), reserve := kv.reserve.filter (· != t.1) })

/-- Storage of one block taken by a command: the number 4f + q of its first quarter (R323). -/
def allocQ (r : StoreRec) (fmt : Nat) (w : Kw) : Nat × Kw :=
  let a := allocKv r fmt w.kv
  (a.1, { w with spill := w.spill || a.2.2.1, kv := a.2.2.2 })

/-- Storage given back: a frame whose quarters are all unused is freed, to the reserve while that holds fewer than 64
(R323). -/
def freeQ (n fmt : Nat) (kv : KvStore) : KvStore :=
  let f := n / 4
  let m := Sparse.get 0 kv.used f - 2 ^ (n % 4) * fmtMask fmt
  { kv with used := Sparse.set 0 kv.used f m,
            reserve := if m = 0 ∧ kv.reserve.length < 64 then (kv.reserve.filter (· < f)) ++ f :: kv.reserve.filter (f < ·)
                       else kv.reserve }

/-- New frames that a list of allocations opens, one after another as a command makes them; beyond the pool where it has none
(R324). -/
def needFrames (r : StoreRec) : List Nat → KvStore → Nat
  | [], _ => 0
  | fmt :: l, kv =>
    let a := allocKv r fmt kv
    (if a.2.1 then 1 else 0) + needFrames r l a.2.2.2

/-- Free frames of the pool and the reserve. -/
def freeFrames (r : StoreRec) (kv : KvStore) : Nat := r.nframe - kv.used.length

/-- The needs of a command can be reserved (R324); otherwise the frames needed. -/
def reserveOk (r : StoreRec) (fmts : List Nat) (kv : KvStore) : Option Nat :=
  let n := needFrames r fmts kv
  if n ≤ freeFrames r kv then none else some n

def blankRec : BlockRec := { surv := 0, addr := 0, fmt := 3, ref := 0, gen := 0 }
def getRec (kv : KvStore) (i : Nat) : BlockRec := Sparse.get blankRec kv.recs i
def putRec (kv : KvStore) (i : Nat) (b : BlockRec) : KvStore := { kv with recs := Sparse.set blankRec kv.recs i b }

/-- Number 4f + q of a record's storage. -/
def recQ (r : StoreRec) (b : BlockRec) : Nat := (b.addr - r.poolbase) / (r.fb / 4)
/-- Storage address of quarter 4f + q (R319). -/
def qAddr (r : StoreRec) (n : Nat) : Nat := r.poolbase + r.fb / 4 * n
/-- Summary address of a record (R320). -/
def sumAddr (r : StoreRec) (b : BlockRec) : Nat := r.sumbase + r.sb * recQ r b

/-- A new record with storage of its own. -/
def allocRec (r : StoreRec) (fmt : Nat) (surv : Word) (w : Kw) : Nat × Kw :=
  let a := allocQ r fmt w
  let kv := a.2.kv
  (kv.nextRec, { a.2 with kv := { putRec kv kv.nextRec { surv := surv, addr := qAddr r a.1, fmt := fmt, ref := 1, gen := 0 }
                                  with nextRec := kv.nextRec + 1 } })

/-- A record loses one reference, and its storage with the last (R323). -/
def unref (r : StoreRec) (i : Nat) (kv : KvStore) : KvStore :=
  let b := getRec kv i
  if b.ref ≤ 1 then freeQ (recQ r b) b.fmt { kv with recs := Sparse.erase kv.recs i }
  else putRec kv i { b with ref := b.ref - 1, gen := (b.gen + 1) % 2 ^ 32 }

/-- Key of a table entry. -/
def tabKey (r : StoreRec) (l b : Nat) : Nat := l * r.maxb + b
def getSeq (kv : KvStore) (q : Nat) : SeqDesc := Sparse.get SeqDesc.empty kv.seqs q
def putSeq (kv : KvStore) (q : Nat) (d : SeqDesc) : KvStore := { kv with seqs := Sparse.set SeqDesc.empty kv.seqs q d }
/-- The record of a block of a sequence, none when the block is absent. -/
def tabRec (r : StoreRec) (kv : KvStore) (q l b : Nat) : Option Nat := Sparse.find (getSeq kv q).tab (tabKey r l b)
def setTab (r : StoreRec) (kv : KvStore) (q l b i : Nat) : KvStore :=
  let d := getSeq kv q
  putSeq kv q { d with tab := Sparse.insert (Sparse.erase d.tab (tabKey r l b)) (tabKey r l b) i }
def clearTab (r : StoreRec) (kv : KvStore) (q l b : Nat) : KvStore :=
  let d := getSeq kv q
  putSeq kv q { d with tab := Sparse.erase d.tab (tabKey r l b) }
def setWet (kv : KvStore) (q l i : Nat) : KvStore :=
  let d := getSeq kv q
  putSeq kv q { d with wet := Sparse.insert (Sparse.erase d.wet l) l i }

/-- The wet blocks of a sequence are freed (R333, R345). -/
def freeWet (r : StoreRec) (q : Nat) (kv : KvStore) : KvStore :=
  let d := getSeq kv q
  let k := d.wet.foldl (fun k p => unref r p.2 k) kv
  putSeq k q { getSeq k q with wet := [] }

/-- `n` bytes of the store's areas from a virtual address; their banks are reached (R264). -/
def kvRead (slot va n : Nat) (w : Kw) : Except (Nat × Nat) (Nat × Kw) :=
  (if va % 64 = 0 ∧ n % 64 = 0 then engReadS w.s slot 0 (n / 64) va else engReadB w.s slot 0 n va).map fun v =>
    (v, { w with s := touchSectors slot ((va % 64 + n + 63) / 64) (va / 64 * 64) w.s })

/-- `n` bytes written from any address, one access for each 64-byte sector that holds some of them (R141, R295): in at most
`k` accesses. -/
def putPieces (slot kh : Nat) : Nat → Nat → Nat → Nat → State → Except (Nat × Nat) State
  | 0, _, _, _, s => .ok s
  | k + 1, n, va, v, s =>
    if n = 0 then .ok s
    else
      let m := Nat.min n (64 - va % 64)
      match engStore s slot kh va m (v % 2 ^ (8 * m)) with
      | .error e => .error (e, va)
      | .ok t => putPieces slot kh k (n - m) ((va + m) % 2 ^ 64) (v / 2 ^ (8 * m)) t

/-- `n` bytes written from any address. -/
def putBytes (slot n va v : Nat) (s : State) : Except (Nat × Nat) State := putPieces slot 0 (n / 64 + 2) n va v s

/-- `n` bytes of the store's areas written. -/
def kvWrite (slot va n v : Nat) (w : Kw) : Except (Nat × Nat) Kw :=
  if va % 64 = 0 ∧ n % 64 = 0 then (engWriteS slot 0 (n / 64) va v w.s).map fun t => { w with s := t }
  else (putBytes slot n va v w.s).map fun t => { w with s := t }

/-- Bytes of a row of a format (R319). -/
def rowLen (r : StoreRec) (fmt : Nat) : Nat := 2 * r.d / 2 ^ fmt

/-- Address of the row of head `g`, slot `s`: the key row, or the value row (R319). -/
def kvRowAddr (r : StoreRec) (b : BlockRec) (val : Bool) (g s : Nat) : Nat :=
  b.addr + (if val then 64 * r.kvh * rowLen r b.fmt else 0) + rowLen r b.fmt * (64 * g + s)

/-- Offset in a summary of the scale bytes of a row (R329). -/
def scaleOff (r : StoreRec) (val : Bool) (g s : Nat) : Nat :=
  34 * r.kvh * r.d + 4 * r.d * g + (if val then 2 * r.d else 0) + r.d / 32 * s

/-- Slot of a position of a block (R328). -/
def slotAt (surv : Word) (p : Nat) : Nat := popcount p (surv.toNat % 2 ^ p)

/-- Element patterns of a row. -/
def rowPats (r : StoreRec) (fmt n : Nat) : List Nat := splitEls (16 / 2 ^ fmt) r.d n

/-- Value of an element of a stored row, with the scale byte of its group (R126, R329). -/
def kvVal (fmt x sc : Nat) : FVal :=
  match fmt with
  | 0 => fdec (fmtOf 11) x
  | 1 => fdec (fmtOf 8) x
  | _ => if sc = 255 then .nan false 1 else
      match fdec (fmtOf 14) x with
      | .fin n m e => .fin n m (e + ((sc : Int) - 127))
      | v => v

/-- Values of a row whose scale bytes are `sc`. -/
def rowValues (r : StoreRec) (fmt n sc : Nat) : List FVal :=
  (rowPats r fmt n).zipIdx.map fun p => kvVal fmt p.1 (sc / 2 ^ (8 * (p.2 / 32)) % 256)

/-- A row of a block and its scale bytes, which are zero outside MXFP4. -/
def readRow (slot : Nat) (r : StoreRec) (b : BlockRec) (val : Bool) (g s : Nat) (w : Kw) :
    Except (Nat × Nat) (Nat × Nat × Kw) := do
  let n ← kvRead slot (kvRowAddr r b val g s) (rowLen r b.fmt) w
  let sc ← if b.fmt = 2 then kvRead slot (sumAddr r b + scaleOff r val g s) (r.d / 32) n.2 else .ok (0, n.2)
  return (n.1, sc.1, sc.2)

/-- v·2^k rounded down, and up. -/
def floorDy (v e : Int) : Int := if 0 ≤ e then v * 2 ^ e.toNat else v / (2 ^ (-e).toNat : Nat)
def ceilDy (v e : Int) : Int := -floorDy (-v) e

/-- Minimum, maximum and sketch contribution of a key element (R329). -/
def sumEl (r : StoreRec) (v : FVal) : Int × Int × Int :=
  match v with
  | .nan _ _ => (0, 0, 0)
  | .inf true => (-128, -128, -8)
  | .inf false => (127, 127, 7)
  | .fin neg m e =>
    let x : Int := if neg then -(m : Int) else m
    (sat (floorDy x (e + r.ksh)) (-128) 127, sat (ceilDy x (e + r.ksh)) (-128) 127,
     sat (rneDy (x, e) (4 - r.ksh)).1 (-8) 7)

/-- Bound bytes of a head: minima, then maxima. -/
def boundNum (l : List (Int × Int)) : Nat := joinEls 8 (l.map (fun p => wrapTo 8 p.1) ++ l.map (fun p => wrapTo 8 p.2))

/-- Elementwise least minima and greatest maxima of rows. -/
def boundMerge (a b : List (Int × Int)) : List (Int × Int) :=
  List.zipWith (fun x y => (min x.1 y.1, max x.2 y.2)) a b

/-- Bounds of a head as its summary holds them. -/
def boundOf (d n : Nat) : List (Int × Int) :=
  let l := (splitEls 8 (2 * d) n).map (signed 8)
  (l.take d).zip (l.drop d)

/-- The rows at the given slots of a head, as summary contributions. -/
def headRows (slot : Nat) (r : StoreRec) (b : BlockRec) (g : Nat) : List Nat → Kw →
    Except (Nat × Nat) (List (Nat × List (Int × Int × Int)) × Kw)
  | [], w => .ok ([], w)
  | s :: l, w => do
    let q ← readRow slot r b false g s w
    let x ← headRows slot r b g l q.2.2
    return ((s, (rowValues r b.fmt q.1 q.2.1).map (sumEl r)) :: x.1, x.2)

/-- The bound of a set of rows, zero without one (R329). -/
def rowsBound (d : Nat) (l : List (Nat × List (Int × Int × Int))) : List (Int × Int) :=
  match l with
  | [] => List.replicate d (0, 0)
  | x :: r => r.foldl (fun a y => boundMerge a (y.2.map fun e => (e.1, e.2.1))) (x.2.map fun e => (e.1, e.2.1))

/-- The sketch bytes of one row. -/
def sketchNum (l : List (Int × Int × Int)) : Nat := joinEls 4 (l.map fun e => wrapTo 4 e.2.2)

/-- Kept positions of a block below a limit (R329). -/
def keptBelow (surv : Word) (lim : Nat) : List Nat := (List.range 64).filter fun p => decide (p < lim) && surv.getLsbD p

/-- The bound and sketch areas recomputed whole (R329); `lim` is LEN minus the block's first position. -/
def summarise (slot : Nat) (r : StoreRec) (b : BlockRec) (lim : Nat) (w : Kw) : Except (Nat × Nat) Kw :=
  let slots := (keptBelow b.surv lim).map (slotAt b.surv)
  (List.range r.kvh).foldlM (fun w g => do
    let h ← headRows slot r b g slots w
    let rows := h.1
    let w1 ← kvWrite slot (sumAddr r b + 2 * r.d * g) (2 * r.d) (boundNum (rowsBound r.d rows)) h.2
    let sk := (List.range 64).map fun s => match rows.find? (fun x => x.1 == s) with | some x => sketchNum x.2 | none => 0
    kvWrite slot (sumAddr r b + 2 * r.kvh * r.d + 32 * r.d * g) (32 * r.d) (joinEls (4 * r.d) sk) w1) w

/-- An append's rows merged into the summary (R329): the slots written, and whether the block held a kept position below
LEN before. -/
def mergeSum (slot : Nat) (r : StoreRec) (b : BlockRec) (slots : List Nat) (fresh : Bool) (w : Kw) : Except (Nat × Nat) Kw :=
  (List.range r.kvh).foldlM (fun w g => do
    let h ← headRows slot r b g slots w
    let rows := h.1
    let old ← kvRead slot (sumAddr r b + 2 * r.d * g) (2 * r.d) h.2
    let nb := rowsBound r.d rows
    let w1 ← kvWrite slot (sumAddr r b + 2 * r.d * g) (2 * r.d)
      (boundNum (if fresh then nb else boundMerge (boundOf r.d old.1) nb)) old.2
    rows.foldlM (fun w x =>
      kvWrite slot (sumAddr r b + 2 * r.kvh * r.d + 32 * r.d * g + r.d / 2 * x.1) (r.d / 2) (sketchNum x.2) w) w1) w

/-- A summary set to zero. -/
def zeroSum (slot : Nat) (r : StoreRec) (b : BlockRec) (w : Kw) : Except (Nat × Nat) Kw :=
  kvWrite slot (sumAddr r b) r.sb 0 w

/-- A block copied whole into storage of its own, in its format, with its SURV and summary (R339): the new record. -/
def copyRec (slot : Nat) (r : StoreRec) (i : Nat) (w : Kw) : Except (Nat × Nat) (Nat × Kw) := do
  let b := getRec w.kv i
  let n := r.fb / 2 ^ b.fmt
  let data ← kvRead slot b.addr n w
  let sm ← kvRead slot (sumAddr r b) r.sb data.2
  let a := allocRec r b.fmt b.surv sm.2
  let c := getRec a.2.kv a.1
  let w1 ← kvWrite slot c.addr n data.1 a.2
  let w2 ← kvWrite slot (sumAddr r c) r.sb sm.1 w1
  return (a.1, { w2 with kv := unref r i w2.kv })

/-- A stored row as BF16 patterns (R327): exact. -/
def rowBf16 (r : StoreRec) (fmt n sc : Nat) : List Nat :=
  (rowValues r fmt n sc).map fun v =>
    match v with
    | .nan _ _ => dnan (fmtOf 11)
    | .inf neg => infPat (fmtOf 11) neg
    | .fin neg m e => if m = 0 then signBit (fmtOf 11) neg else (roundTo (fmtOf 11) .rne neg m 1 e).1

/-- An MXFP4 block expanded into a BF16 frame (R327): the new record, the old one loses a reference. -/
def expandRec (slot : Nat) (r : StoreRec) (i : Nat) (w : Kw) : Except (Nat × Nat) (Nat × Kw) := do
  let b := getRec w.kv i
  let sm ← kvRead slot (sumAddr r b) r.sb w
  let a := allocRec r 0 b.surv sm.2
  let c := getRec a.2.kv a.1
  let w1 ← ((List.range r.kvh).flatMap fun g => (List.range (popcount 64 b.surv.toNat)).flatMap fun s =>
      [(false, g, s), (true, g, s)]).foldlM (fun w (x : Bool × Nat × Nat) => do
        let q ← readRow slot r b x.1 x.2.1 x.2.2 w
        kvWrite slot (kvRowAddr r c x.1 x.2.1 x.2.2) (2 * r.d) (joinEls 16 (rowBf16 r b.fmt q.1 q.2.1)) q.2.2) a.2
  let w2 ← kvWrite slot (sumAddr r c) r.sb sm.1 w1
  return (a.1, { w2 with kv := unref r i w2.kv })

/-- A block becomes eligible at a length (R325). -/
def eligibleAt (b len : Nat) : Bool := decide (64 * (b + 1) + 128 ≤ len)

/-- The blocks that a rise of LEN makes eligible join the queue (R325): one that was eligible before the rise does not join it again
(log 91). -/
def queueNew (r : StoreRec) (q old len : Nat) (kv : KvStore) : KvStore :=
  if !r.req then kv else
    (List.range r.nl).foldl (fun kv l => (List.range (len / 64)).foldl (fun kv b =>
      if eligibleAt b len && !eligibleAt b old then
        match tabRec r kv q l b with
        | some i => if (getRec kv i).fmt = 0 ∧ !kv.queue.contains i then { kv with queue := kv.queue ++ [i] } else kv
        | none => kv
      else kv) kv) kv

/-- LEN set, with what a rise queues. -/
def setLen (r : StoreRec) (q len : Nat) (kv : KvStore) : KvStore :=
  let d := getSeq kv q
  queueNew r q d.len len (putSeq kv q { d with len := len })

/-- The append format of a layer (R331): `n` blocks from `b` downwards are looked at, of which a layer has MAXB. -/
def appendFmt (r : StoreRec) (kv : KvStore) (q l : Nat) : Nat → Nat → Nat
  | 0, _ => 0
  | n + 1, b =>
    match (if b < r.maxb then tabRec r kv q l b else none) with
    | some i => if (getRec kv i).fmt = 1 then 1 else 0
    | none => appendFmt r kv q l n (b - 1)

/-- A hold dropped, if one is held (R326). -/
def dropHold (k : Nat) (kv : KvStore) : KvStore :=
  match Sparse.find kv.holds k with
  | none => kv
  | some e => { kv with holds := Sparse.erase kv.holds k, h0 := if e then kv.h0 else kv.h0 - 1,
                        h1 := if e then kv.h1 - 1 else kv.h1 }

/-- A hold taken in the epoch in force (R326). -/
def takeHold (k : Nat) (kv : KvStore) : KvStore :=
  let c := dropHold k kv
  { c with holds := Sparse.insert (Sparse.erase c.holds k) k c.epoch, h0 := if c.epoch then c.h0 else c.h0 + 1,
           h1 := if c.epoch then c.h1 + 1 else c.h1 }

/-- The store of a column of a context. -/
def getKv (s : State) (slot col : Nat) : KvStore :=
  match getCtx s slot with | some c => Sparse.get KvStore.empty c.kv col | none => KvStore.empty
def putKv (s : State) (slot col : Nat) (k : KvStore) : State :=
  modCtx s slot fun c => { c with kv := Sparse.set KvStore.empty c.kv col k }

/-- A row in 32-element MXFP4 groups: elements and scales (R138, R325). -/
def encodeRow (r : StoreRec) (n : Nat) : Nat × Nat :=
  let l := (List.range (r.d / 32)).map fun k => mxfp4Block (splitEls 16 32 (n / 2 ^ (512 * k)))
  (joinEls 128 (l.map fun p => joinEls 4 p.2), joinEls 8 (l.map (·.1)))

/-- Step 2 of R325: every row of the BF16 block `b` encoded into the quarter of `c`, whose summary takes the bound and
sketch areas. -/
def encodeBlock (slot : Nat) (r : StoreRec) (b c : BlockRec) (w : Kw) : Except (Nat × Nat) Kw := do
  let sm ← kvRead slot (sumAddr r b) (34 * r.kvh * r.d) w
  let w1 ← kvWrite slot (sumAddr r c) (34 * r.kvh * r.d) sm.1 sm.2
  ((List.range r.kvh).flatMap fun g => (List.range 64).flatMap fun s => [(false, g, s), (true, g, s)]).foldlM
    (fun w (x : Bool × Nat × Nat) => do
      let q ← readRow slot r b x.1 x.2.1 x.2.2 w
      let e := encodeRow r q.1
      let w2 ← kvWrite slot (kvRowAddr r c x.1 x.2.1 x.2.2) (r.d / 2) e.1 q.2.2
      kvWrite slot (sumAddr r c + scaleOff r x.1 x.2.1 x.2.2) (r.d / 32) e.2 w2) w1

/-- One step of the requantisation engine (R325): it notes the head block's GEN and allocates a quarter; then it encodes, which
writes the quarter and its summary, and commits, or drops the block when GEN has changed, or when a fault keeps it from encoding:
an uncorrectable sector is logged with `unit` as its core (R396; log 87). A block that is BF16 no more has no BF16 rows to encode. -/
def requantStep (slot unit : Nat) (r : StoreRec) (w : Kw) : Kw :=
  match w.kv.queue, w.kv.enc with
  | [], _ => w
  | i :: rest, none =>
    match Sparse.find w.kv.recs i with
    | none => { w with kv := { w.kv with queue := rest } }
    | some b =>
      if (reserveOk r [2] w.kv).isSome then w
      else
        let a := allocQ r 2 w
        { a.2 with kv := { a.2.kv with enc := some (b.gen, a.1) } }
  | i :: rest, some (gen, n) =>
    let give := fun (w : Kw) => { w with kv := freeQ n 2 { w.kv with queue := rest, enc := none } }
    match Sparse.find w.kv.recs i with
    | none => give w
    | some b =>
      if b.fmt ≠ 0 then give w
      else
        let c : BlockRec := { b with addr := qAddr r n, fmt := 2, gen := (b.gen + 1) % 2 ^ 32 }
        match encodeBlock slot r b c w with
        | .error e => if e.1 = codeRetry then w
          else if e.1 ≠ codeCheck then give w
          else let p := checkPlace w.s slot e.2 (64 - e.2 % 64); { give w with s := logMc w.s (mcEntry 2 p.1 unit slot p.2) }
        | .ok w1 => if b.gen ≠ gen then give w1 else
          { w1 with kv := { putRec w1.kv i c with queue := rest, enc := none, pending := w1.kv.pending ++ [recQ r b / 4] } }

/-- The context in a slot runs, its agents have not been stopped for its save (R386), and its store of a column has a record. -/
def kvActive (s : State) (slot col : Nat) : Option StoreRec :=
  match getCtx s slot with
  | some c => if c.running && (getPart s c.part).phase != .saving then (Sparse.get KvStore.empty c.kv col).cfg else none
  | none => none

/-- REQUANTISE_BLOCK (R325, R348): the engine of a column translates through that column's TLB (R287). -/
def execRequantiseBlock (slot col : BitVec 3) (s : State) : Host.Outcome State Fault Refusal :=
  .next (match kvActive s slot.toNat col.toNat with
    | none => s
    | some r =>
      if !r.req then s else
        asUnit col.toNat (fun s =>
          let w := requantStep slot.toNat (16 * col.toNat) r { s := s, kv := getKv s slot.toNat col.toNat, spill := false }
          putKv w.s slot.toNat col.toNat w.kv) s)

/-- EPOCH_FLIP (R326). -/
def execEpochFlip (slot col : BitVec 3) (s : State) : Host.Outcome State Fault Refusal :=
  .next (if (kvActive s slot.toNat col.toNat).isNone then s else
    let k := getKv s slot.toNat col.toNat
    if (if k.epoch then k.h0 else k.h1) = 0 ∧ k.pending ≠ [] ∧ k.draining = [] then
      putKv s slot.toNat col.toNat { k with epoch := !k.epoch, draining := k.pending, pending := [] }
    else s)

/-- DRAINING_FREE (R326). -/
def execDrainingFree (slot col : BitVec 3) (s : State) : Host.Outcome State Fault Refusal :=
  .next (if (kvActive s slot.toNat col.toNat).isNone then s else
    let k := getKv s slot.toNat col.toNat
    if (if k.epoch then k.h0 else k.h1) = 0 ∧ k.draining ≠ [] then
      putKv s slot.toNat col.toNat (k.draining.foldl (fun k f => freeQ (4 * f) 0 k) { k with draining := [] })
    else s)

end Sys2Proof.Machine
end

