-- ==== Sys2Proof/Machine/Ez.lean ====
section
/-! DEFINITION. The EZ ring's commands: the block commands (R339 to R342) and the easels with their token trees, checks,
commits and batches (R330 to R336, R343 to R347). Every check precedes every change (R337). -/
namespace Sys2Proof.Machine

/-- How an EZ command ends. -/
inductive EzOut where
  /-- it completes: the new store, DETAIL without bit 47, STATX -/
  | done (w : Kw) (detail : Nat) (statx : Word)
  /-- it stops with a code, changing nothing: code, DETAIL, STATX -/
  | stop (code detail : Nat) (statx : Word)
  /-- it waits at the ring head for a FREE easel (R8) -/
  | wait
  /-- an access of its own faulted: the fault with its address, and the store as it stands -/
  | fault (e : Nat × Nat) (w : Kw)
  /-- a scratchpad row that it reads is uncorrectable: its place (R181) -/
  | row (place : Nat)

def ezIllegal : EzOut := .stop codeIllegal 0 0
def ezSlot : EzOut := .stop codeSlot 0 0

/-- A command that works on the store of the focused core's column (R318, R337); a context without a store record has no
sequence, so every command that names one is ILLEGAL. -/
def ezRun (c : Cmd) (f : StoreRec → Kw → EzOut) (slot : Nat) (s : State) : State :=
  let col := colOf s.coreNo
  let kv := getKv s slot col
  match kv.cfg with
  | none => illegal 4 s
  | some r =>
    match f r { s := s, kv := kv, spill := false } with
    | .done w detail statx =>
      endOk 4 c (detail % 2 ^ 47 + if w.spill then 2 ^ 47 else 0) statx [] (putKv w.s slot col w.kv)
    | .stop code detail statx => endBad 4 code detail statx s
    | .wait => s
    | .fault e w => memBad 4 slot e 0 s (putKv w.s slot col w.kv)
    | .row p => logStop 1 p (endBad 4 codeCheck 0 0 s)

/-- Parameters within their masks (R337). -/
def parmsOk (c : Cmd) (m0 m1 m2 m3 : Nat) : Bool :=
  c.p0.toNat == Nat.land c.p0.toNat m0 && c.p1.toNat == Nat.land c.p1.toNat m1 &&
    c.p2.toNat == Nat.land c.p2.toNat m2 && c.p3.toNat == Nat.land c.p3.toNat m3

/-- Layers that a command names, none when they exceed NL (R337). -/
def layersOf (r : StoreRec) (c : Cmd) : Option (List Nat) :=
  let l0 := bits c.arg.toNat 39 32
  let n := bits c.arg.toNat 31 24 + 1
  if r.nl < l0 + n then none else some ((List.range n).map (· + l0))

/-- The outcome of a chain of accesses: at a fault, the store before the command. -/
def ezTry (w0 : Kw) (x : Except (Nat × Nat) EzOut) : EzOut :=
  match x with
  | .ok o => o
  | .error e => .fault e w0

/-- The stop for want of storage (R324). -/
def ezPool (r : StoreRec) (kv : KvStore) (n : Nat) : EzOut := .stop codePool n (.ofNat 64 (n - freeFrames r kv))

/-- Layers and blocks of a range. -/
def blockPairs (ls : List Nat) (b0 n : Nat) : List (Nat × Nat) := ls.flatMap fun l => (List.range n).map fun b => (l, b0 + b)

/-- An absent block allocated: a new record, its summary zero (R339). -/
def allocBlock (slot : Nat) (r : StoreRec) (q fmt : Nat) (w : Kw) (p : Nat × Nat) : Except (Nat × Nat) Kw := do
  let a := allocRec r fmt survAll w
  let w2 ← zeroSum slot r (getRec a.2.kv a.1) a.2
  return { w2 with kv := setTab r w2.kv q p.1 p.2 a.1 }

/-- BTALLOC (R339). -/
def ezBtalloc (c : Cmd) (slot : Nat) (r : StoreRec) (w : Kw) : EzOut :=
  let q := bits c.p0.toNat 15 0
  let fmt := bits c.p0.toNat 16 16
  let b0 := bits c.arg.toNat 23 12
  let n := bits c.arg.toNat 11 0 + 1
  match layersOf r c with
  | none => ezIllegal
  | some ls =>
    if !parmsOk c 0x1FFFF 0 0 0 || decide (r.nseq ≤ q) || decide (r.maxb < b0 + n) then ezIllegal
    else
      let todo := (blockPairs ls b0 n).filter fun p => (tabRec r w.kv q p.1 p.2).isNone
      match reserveOk r (todo.map fun _ => fmt) w.kv with
      | some k => ezPool r w.kv k
      | none => ezTry w do
        let w1 ← todo.foldlM (allocBlock slot r q fmt) w
        return .done w1 todo.length 0
/-- BTALLOC on the EZ ring. -/
def execBtalloc (c : Cmd) (s : State) : Host.Outcome State Fault Refusal :=
  .next (engineGo 4 c (fun slot s => ezRun c (ezBtalloc c slot) slot s) s)

/-- BTFREE (R339). -/
def ezBtfree (c : Cmd) (r : StoreRec) (w : Kw) : EzOut :=
  let q := bits c.p0.toNat 15 0
  let pos := c.p1.toNat
  match layersOf r c with
  | none => ezIllegal
  | some ls =>
    if !parmsOk c 0xFFFF 0x7FFFF 0 0 || bits c.arg.toNat 23 0 != 0 || decide (r.nseq ≤ q) || decide (64 * r.maxb < pos) then
      ezIllegal
    else if (getSeq w.kv q).st ≠ .none then ezSlot
    else
      let b0 := (pos + 63) / 64
      let kv := (blockPairs ls b0 (r.maxb - b0)).foldl (fun kv p =>
        match tabRec r kv q p.1 p.2 with
        | some i => unref r i (clearTab r kv q p.1 p.2)
        | none => kv) w.kv
      .done { w with kv := setLen r q (Nat.min (getSeq kv q).len pos) kv } 0 0
/-- BTFREE on the EZ ring. -/
def execBtfree (c : Cmd) (s : State) : Host.Outcome State Fault Refusal :=
  .next (engineGo 4 c (fun slot s => ezRun c (ezBtfree c) slot s) s)

/-- BTSHARE (R339). -/
def ezBtshare (c : Cmd) (r : StoreRec) (w : Kw) : EzOut :=
  let q := bits c.p0.toNat 15 0
  let d := bits c.p0.toNat 31 16
  let n := bits c.arg.toNat 11 0 + 1
  match layersOf r c with
  | none => ezIllegal
  | some ls =>
    let ps := blockPairs ls 0 n
    let drops := ps.filterMap fun p => tabRec r w.kv d p.1 p.2
    let adds := ps.filterMap fun p => tabRec r w.kv q p.1 p.2
    if !parmsOk c 0xFFFFFFFF 0 0 0 || bits c.arg.toNat 23 12 != 0 || decide (r.nseq ≤ q) || decide (r.nseq ≤ d) || q == d ||
       decide (r.maxb < n) || adds.any (fun i => decide (255 + drops.count i < (getRec w.kv i).ref + adds.count i)) then
      ezIllegal
    else if (getSeq w.kv d).st ≠ .none then ezSlot
    else
      let k1 := ps.foldl (fun kv p =>
        match tabRec r kv d p.1 p.2 with
        | some i => unref r i (clearTab r kv d p.1 p.2)
        | none => kv) w.kv
      let k2 := ps.foldl (fun kv p =>
        match tabRec r kv q p.1 p.2 with
        | some i =>
          let b := getRec kv i
          putRec (setTab r kv d p.1 p.2 i) i { b with ref := b.ref + 1, gen := (b.gen + 1) % 2 ^ 32 }
        | none => kv) k1
      .done { w with kv := setLen r d (Nat.min (getSeq k2 q).len (64 * n)) k2 } 0 0
/-- BTSHARE on the EZ ring. -/
def execBtshare (c : Cmd) (s : State) : Host.Outcome State Fault Refusal :=
  .next (engineGo 4 c (fun slot s => ezRun c (ezBtshare c) slot s) s)

/-- Blocks of the named layers that are shared (R339). -/
def sharedLayers (r : StoreRec) (kv : KvStore) (q b : Nat) (ls : List Nat) : List Nat :=
  ls.filter fun l => match tabRec r kv q l b with | some i => decide (1 < (getRec kv i).ref) | none => false

/-- Format of a present block. -/
def tabFmt (r : StoreRec) (kv : KvStore) (q l b : Nat) : Nat :=
  match tabRec r kv q l b with | some i => (getRec kv i).fmt | none => 0

/-- A block of a sequence made private by a copy (R339). -/
def privatise (slot : Nat) (r : StoreRec) (q l b : Nat) (w : Kw) : Except (Nat × Nat) Kw :=
  match tabRec r w.kv q l b with
  | none => .ok w
  | some i => do
    let p ← copyRec slot r i w
    return { p.2 with kv := setTab r p.2.kv q l b p.1 }

/-- BTCOW (R339). -/
def ezBtcow (c : Cmd) (slot : Nat) (r : StoreRec) (w : Kw) : EzOut :=
  let q := bits c.p0.toNat 15 0
  let b := bits c.arg.toNat 11 0
  match layersOf r c with
  | none => ezIllegal
  | some ls =>
    if !parmsOk c 0xFFFF 0 0 0 || bits c.arg.toNat 23 12 != 0 || decide (r.nseq ≤ q) || decide (r.maxb ≤ b) then ezIllegal
    else
      let todo := sharedLayers r w.kv q b ls
      match reserveOk r (todo.map fun l => tabFmt r w.kv q l b) w.kv with
      | some k => ezPool r w.kv k
      | none => ezTry w do
        let w1 ← todo.foldlM (fun w l => privatise slot r q l b w) w
        return .done w1 todo.length 0
/-- BTCOW on the EZ ring. -/
def execBtcow (c : Cmd) (s : State) : Host.Outcome State Fault Refusal :=
  .next (engineGo 4 c (fun slot s => ezRun c (ezBtcow c slot) slot s) s)

/-- The kept rows of a block packed in ascending order, MXFP4 scales with them (R328, R340). -/
def packRows (slot : Nat) (r : StoreRec) (b : BlockRec) (keep : Word) (w : Kw) : Except (Nat × Nat) Kw :=
  ((List.range 64).filter fun p => keep.getLsbD p).foldlM (fun w p =>
    (List.range r.kvh).foldlM (fun w g =>
      [false, true].foldlM (fun w v => do
        let q ← readRow slot r b v g (slotAt b.surv p) w
        let w1 ← kvWrite slot (kvRowAddr r b v g (slotAt keep p)) (rowLen r b.fmt) q.1 q.2.2
        if b.fmt = 2 then kvWrite slot (sumAddr r b + scaleOff r v g (slotAt keep p)) (r.d / 32) q.2.1 w1 else .ok w1) w) w) w

/-- One layer's block evicted to the kept positions: private first, then packed and summarised (R340). -/
def evictLayer (slot : Nat) (r : StoreRec) (q b : Nat) (keep : Word) (todo : List Nat) (w : Kw) (l : Nat) :
    Except (Nat × Nat) Kw := do
  let w1 ← if todo.contains l then privatise slot r q l b w else .ok w
  match tabRec r w1.kv q l b with
  | none => .ok w1
  | some i =>
    let x := getRec w1.kv i
    let w2 ← packRows slot r x keep w1
    let y := { x with surv := keep, gen := (x.gen + 1) % 2 ^ 32 }
    summarise slot r y ((getSeq w2.kv q).len - 64 * b) { w2 with kv := putRec w2.kv i y }

/-- BTEVICT (R340). -/
def ezBtevict (c : Cmd) (slot : Nat) (r : StoreRec) (w : Kw) : EzOut :=
  let q := bits c.p0.toNat 15 0
  let b := bits c.arg.toNat 11 0
  match layersOf r c with
  | none => ezIllegal
  | some ls =>
    if !parmsOk c 0xFFFF (2 ^ 64 - 1) 0 0 || bits c.arg.toNat 23 12 != 0 || decide (r.nseq ≤ q) || decide (r.maxb ≤ b) ||
       decide ((getSeq w.kv q).len < 64 * (b + 1)) ||
       ls.any (fun l => match tabRec r w.kv q l b with
         | some i => c.p1 &&& (getRec w.kv i).surv != c.p1
         | none => true) then ezIllegal
    else
      let todo := sharedLayers r w.kv q b ls
      match reserveOk r (todo.map fun l => tabFmt r w.kv q l b) w.kv with
      | some k => ezPool r w.kv k
      | none => ezTry w do
        let w1 ← ls.foldlM (evictLayer slot r q b c.p1 todo) w
        return .done w1 todo.length 0
/-- BTEVICT on the EZ ring. -/
def execBtevict (c : Cmd) (s : State) : Host.Outcome State Fault Refusal :=
  .next (engineGo 4 c (fun slot s => ezRun c (ezBtevict c slot) slot s) s)

/-- A present block's summary recomputed (R341). -/
def sumBlock (slot : Nat) (r : StoreRec) (q : Nat) (w : Kw) (p : Nat × Nat) : Except (Nat × Nat) Kw :=
  match tabRec r w.kv q p.1 p.2 with
  | some i => summarise slot r (getRec w.kv i) ((getSeq w.kv q).len - 64 * p.2) w
  | none => .ok w

/-- SUMUPD (R341). -/
def ezSumupd (c : Cmd) (slot : Nat) (r : StoreRec) (w : Kw) : EzOut :=
  let q := bits c.p0.toNat 15 0
  let b0 := bits c.arg.toNat 23 12
  let n := bits c.arg.toNat 11 0 + 1
  match layersOf r c with
  | none => ezIllegal
  | some ls =>
    if !parmsOk c 0xFFFF 0 0 0 || decide (r.nseq ≤ q) || decide (r.maxb < b0 + n) then ezIllegal
    else ezTry w do
      let w1 ← (blockPairs ls b0 n).foldlM (sumBlock slot r q) w
      return .done w1 0 0
/-- SUMUPD on the EZ ring. -/
def execSumupd (c : Cmd) (s : State) : Host.Outcome State Fault Refusal :=
  .next (engineGo 4 c (fun slot s => ezRun c (ezSumupd c slot) slot s) s)

/-- A row that a command reads, or the place of its uncorrectable word (R181). -/
def ezRow (s : State) (r : Nat) : Except Nat Nat :=
  match rowsBad s.core r 1 with
  | some p => .error p
  | none => .ok (getRow s.core r).toNat

/-- `n` bytes written to rows from row `r` (R164): `k` rows remain. -/
def putRowsK (s : State) : Nat → Nat → Nat → Nat → State
  | 0, _, _, _ => s
  | k + 1, r, n, v =>
    putRowsK (withCore s (writeRow s.core r (.ofNat 4096 v) ((List.range 512).map fun i => decide (i < n)))) k (r + 1)
      (n - 512) (v / 2 ^ 4096)

/-- `n` bytes written to rows from row `r`, the bytes beyond them left alone. -/
def putRowBytes (s : State) (r n v : Nat) : State := putRowsK s ((n + 511) / 512) r n v

/-- A walk's descriptor (R342); an absent block has the format tag 3 (R319). -/
def walkDesc (r : StoreRec) (kv : KvStore) (num : Nat) (i : Option Nat) : Nat :=
  match i with
  | none => 2 ^ 224 * num + 3 * 2 ^ 192
  | some i =>
    let b := getRec kv i
    pack [(64, b.addr), (64, sumAddr r b), (64, b.surv.toNat), (8, b.fmt), (8, b.ref), (16, popcount 64 b.surv.toNat), (32, num)]

/-- Sectors of a list written to memory, a last half sector as it is. -/
def putList (slot : Nat) (va n v : Nat) (w : Kw) : Kw × Option (Nat × Nat) :=
  match putSectors slot 0 (n / 64) va v w.s with
  | (t, some e) => ({ w with s := t }, some e)
  | (t, none) =>
    if n % 64 = 0 then ({ w with s := t }, none)
    else
      let a := va + n / 64 * 64
      match engStore t slot 0 a (n % 64) (v / 2 ^ (8 * (n / 64 * 64))) with
      | .error e => ({ w with s := t }, some (e, a))
      | .ok u => ({ w with s := u }, none)

/-- A list walk, once checked: the hold is taken, the descriptors are read at one point and written (R342). -/
def walkList (slot : Nat) (r : StoreRec) (key : Nat) (dst : Bool) (dest : Nat) (items : List (Nat × Option Nat)) (w : Kw) :
    EzOut :=
  let w1 := { w with kv := takeHold key w.kv }
  let v := joinEls 256 (items.map fun p => walkDesc r w1.kv p.1 p.2)
  let n := 32 * items.length
  if dst then .done { w1 with s := putRowBytes w1.s dest n v } items.length 0
  else
    match putList slot dest n v w1 with
    | (w2, none) => .done w2 items.length 0
    | (w2, some e) => .fault e w2

/-- BTWALK (R342). -/
def ezBtwalk (c : Cmd) (slot : Nat) (r : StoreRec) (w : Kw) : EzOut :=
  let a := c.arg.toNat
  let mode := bits a 39 38
  let key := w.s.coreNo * 8 + bits a 37 35
  let sel := bits a 34 33
  let dst := bits a 32 32 == 1
  let q := bits c.p0.toNat 15 0
  let layer := bits c.p0.toNat 23 16
  let n := if sel = 0 then bits c.p1.toNat 23 12 + 1 else if sel = 1 then bits c.p1.toNat 5 0 + 1 else r.nl
  let irow := bits c.p1.toNat 18 6
  if mode = 1 then
    if bits a 34 0 ≠ 0 ∨ !parmsOk c 0 0 0 0 then ezIllegal
    else .done { w with kv := dropHold key w.kv } 0 0
  else if mode ≠ 0 ∨ sel = 3 ∨ bits a 31 0 ≠ 0 ∨ r.nseq ≤ q ∨
     !parmsOk c (if sel = 2 then 0xFFFF else 0xFFFFFF) (if sel = 0 then 0xFFFFFF else if sel = 1 then 0x7FFFF else 0)
       (2 ^ 64 - 1) 0 ∨
     (sel ≠ 2 ∧ r.nl ≤ layer) ∨ (sel = 0 ∧ r.maxb < bits c.p1.toNat 11 0 + n) ∨ (sel = 1 ∧ 6096 ≤ irow) ∨
     (if dst then !rowOk c.p2 (32 * n) else c.p2.toNat % 64 ≠ 0) then ezIllegal
  else if sel = 0 then
    walkList slot r key dst c.p2.toNat ((List.range n).map fun k =>
      (bits c.p1.toNat 11 0 + k, tabRec r w.kv q layer (bits c.p1.toNat 11 0 + k))) w
  else if sel = 1 then
    match ezRow w.s irow with
    | .error p => .row p
    | .ok row =>
      walkList slot r key dst c.p2.toNat ((splitEls 16 n row).map fun b =>
        (b, if b < r.maxb then tabRec r w.kv q layer b else none)) w
  else
    walkList slot r key dst c.p2.toNat ((List.range n).map fun l => (l, Sparse.find (getSeq w.kv q).wet l)) w
/-- BTWALK on the EZ ring. -/
def execBtwalk (c : Cmd) (s : State) : Host.Outcome State Fault Refusal :=
  .next (engineGo 4 c (fun slot s => ezRun c (ezBtwalk c slot) slot s) s)

def getEasel (kv : KvStore) (e : Nat) : Easel := Sparse.get Easel.free kv.easels e
def putEasel (kv : KvStore) (e : Nat) (z : Easel) : KvStore := { kv with easels := Sparse.set Easel.free kv.easels e z }

/-- The lowest-numbered FREE easel of the column's 512 (R330, R343). -/
def freeEasel (kv : KvStore) : Option Nat := (List.range 512).find? fun e => (getEasel kv e).st == .free

/-- An easel is bound to its sequence (R334, R343, R344): the class, whether C0MAX lowered it, and the new store. -/
def bindEasel (s : State) (e : Nat) (z : Easel) (kv : KvStore) : KvStore × Nat :=
  let n := (kv.easels.filter fun p => p.2.st != .free && p.2.cls == 0).length
  let low := z.cls == 0 && decide ((getCol s (colOf s.coreNo)).c0max < n + 1)
  let z1 := if low then { z with cls := 1 } else z
  let d := getSeq kv z.seq
  ({ putEasel (putSeq kv z.seq { d with st := .live }) e { z1 with st := .ready } with ready := kv.ready ++ [e] },
   if low then 2 ^ 46 else 0)

/-- EZOPEN (R343). -/
def ezEzopen (c : Cmd) (r : StoreRec) (w : Kw) : EzOut :=
  let p := c.p0.toNat
  let q := bits p 15 0
  let rule := bits p 19 18
  let l0 := bits p 50 32
  if c.arg ≠ 0 ∨ !parmsOk c (0x3FFFFFF + 2 ^ 32 * 0x7FFFF) 0xFFFFFF 0xFFFFFFFF (2 ^ 64 - 1) ∨ r.nseq ≤ q ∨ rule = 3 ∨
     (rule = 1 ∧ c.p3 = 0) then ezIllegal
  else if (getSeq w.kv q).st ≠ .none then ezSlot
  else if (blockPairs (List.range r.nl) 0 ((l0 + 63) / 64)).any
      (fun x => decide (r.maxb ≤ x.2) || (tabRec r w.kv q x.1 x.2).isNone) then ezIllegal
  else
    match freeEasel w.kv with
    | none => .wait
    | some e =>
      let z : Easel := { st := .ready, seq := q, cls := bits p 17 16, rule := rule, nodes := bits p 25 20 + 1,
                         root := c.p1.toNat, len := l0, theta := c.p2.toNat, rng := c.p3, deficit := 0, tree := [] }
      let k := bindEasel w.s e z (setLen r q l0 w.kv)
      .done { w with kv := k.1 } k.2 (.ofNat 64 e)
/-- EZOPEN on the EZ ring. -/
def execEzopen (c : Cmd) (s : State) : Host.Outcome State Fault Refusal :=
  .next (engineGo 4 c (fun slot s => ezRun c (ezEzopen c) slot s) s)

/-- A parked easel's record (R344). -/
def parkNum (z : Easel) : Nat :=
  pack [(16, z.seq), (8, z.cls), (8, z.rule), (8, z.nodes - 1), (24, z.root), (32, z.len), (32, z.theta), (64, z.rng.toNat),
    (16, z.deficit)]

/-- EZPARK (R344). -/
def ezEzpark (c : Cmd) (slot : Nat) (_ : StoreRec) (w : Kw) : EzOut :=
  let e := bits c.arg.toNat 39 31
  let z := getEasel w.kv e
  if bits c.arg.toNat 30 0 ≠ 0 ∨ !parmsOk c (2 ^ 64 - 1) 0 0 0 ∨ c.p0.toNat % 128 ≠ 0 then ezIllegal
  else if z.st ≠ .ready then ezSlot
  else
    match putSectors slot 0 2 c.p0.toNat (parkNum z) w.s with
    | (t, some x) => .fault x { w with s := t }
    | (t, none) =>
      let d := getSeq w.kv z.seq
      let k := putEasel (putSeq w.kv z.seq { d with st := .parked }) e Easel.free
      .done { w with s := t, kv := { k with ready := k.ready.filter (· != e) } } 0 0
/-- EZPARK on the EZ ring. -/
def execEzpark (c : Cmd) (s : State) : Host.Outcome State Fault Refusal :=
  .next (engineGo 4 c (fun slot s => ezRun c (ezEzpark c slot) slot s) s)

/-- EZRESUME (R344). -/
def ezEzresume (c : Cmd) (slot : Nat) (r : StoreRec) (w : Kw) : EzOut :=
  if c.arg ≠ 0 ∨ !parmsOk c (2 ^ 64 - 1) 0 0 0 ∨ c.p0.toNat % 128 ≠ 0 then ezIllegal
  else
    match engReadS w.s slot 0 2 c.p0.toNat with
    | .error x => .fault x w
    | .ok v =>
      match unpack [16, 8, 8, 8, 24, 32, 32, 64, 16] v with
      | [q, cls, rule, nodes, root, len, theta, rng, deficit] =>
        if v / 2 ^ 208 ≠ 0 ∨ r.nseq ≤ q ∨ 3 < cls ∨ 2 < rule ∨ 63 < nodes ∨ (rule = 1 ∧ rng = 0) then ezIllegal
        else if (getSeq w.kv q).st ≠ .parked ∨ (getSeq w.kv q).len ≠ len then ezSlot
        else
          match freeEasel w.kv with
          | none => .wait
          | some e =>
            let z : Easel := { st := .ready, seq := q, cls := cls, rule := rule, nodes := nodes + 1, root := root, len := len,
                               theta := theta, rng := .ofNat 64 rng, deficit := deficit, tree := [] }
            let k := bindEasel w.s e z w.kv
            .done { w with s := touchSectors slot 2 c.p0.toNat w.s, kv := k.1 } k.2 (.ofNat 64 e)
      | _ => ezIllegal
/-- EZRESUME on the EZ ring. -/
def execEzresume (c : Cmd) (s : State) : Host.Outcome State Fault Refusal :=
  .next (engineGo 4 c (fun slot s => ezRun c (ezEzresume c slot) slot s) s)

/-- EZCLOSE (R345). -/
def ezEzclose (c : Cmd) (r : StoreRec) (w : Kw) : EzOut :=
  let e := bits c.arg.toNat 39 31
  let z := getEasel w.kv e
  if bits c.arg.toNat 30 0 ≠ 0 ∨ !parmsOk c 0 0 0 0 then ezIllegal
  else if z.st = .free then ezSlot
  else
    let k := freeWet r z.seq w.kv
    let d := getSeq k z.seq
    let k2 := putEasel (putSeq k z.seq { d with st := .none }) e Easel.free
    .done { w with kv := { k2 with ready := k2.ready.filter (· != e) } } 0 0
/-- EZCLOSE on the EZ ring. -/
def execEzclose (c : Cmd) (s : State) : Host.Outcome State Fault Refusal :=
  .next (engineGo 4 c (fun slot s => ezRun c (ezEzclose c) slot s) s)

/-- Formats of the wet blocks of an easel, one per layer (R331). -/
def wetFmts (r : StoreRec) (kv : KvStore) (z : Easel) : List Nat :=
  (List.range r.nl).map fun l => appendFmt r kv z.seq l (z.len / 64 + 1) (z.len / 64)

/-- An easel taken into the batch (R335). The summary of a wet block that it allocates stays as the storage last held it, scales and
all, until R329 changes it (log 91). -/
def takeEasel (r : StoreRec) (e : Nat) (w : Kw) : Kw :=
  let z := getEasel w.kv e
  let w1 := ((wetFmts r w.kv z).zipIdx).foldl (fun w p =>
    let a := allocRec r p.1 survAll w
    { a.2 with kv := setWet a.2.kv z.seq p.2 a.1 }) w
  { w1 with kv := { putEasel w1.kv e { z with st := .draft } with ready := w1.kv.ready.filter (· != e) } }

/-- Where the choice of a batch stands (R335). -/
structure Choice where
  w : Kw
  batch : List Nat
  left : Nat
  cap : Nat
  stopped : Bool
  /-- frames that the easel at which choosing stopped needed -/
  want : Option Nat

/-- The easel's wet blocks can be reserved, else choosing stops there (R335). -/
def choiceTake (r : StoreRec) (e : Nat) (h : Choice) : Choice :=
  let z := getEasel h.w.kv e
  match reserveOk r (wetFmts r h.w.kv z) h.w.kv with
  | some n => { h with stopped := true, want := some n }
  | none => { h with w := takeEasel r e h.w, batch := h.batch ++ [e], left := h.left - z.nodes }

/-- Class 0 in order of entry to READY (R335). -/
def chooseZero (r : StoreRec) (maxe : Nat) (h : Choice) : Choice :=
  (h.w.kv.ready.filter fun e => (getEasel h.w.kv e).cls == 0).foldl (fun h e =>
    if h.stopped then h
    else if maxe ≤ h.batch.length then { h with stopped := true }
    else choiceTake r e h) h

def getPtr (kv : KvStore) (c : Nat) : Nat := match c with | 1 => kv.ptr1 | 2 => kv.ptr2 | _ => kv.ptr3
def setPtr (kv : KvStore) (c n : Nat) : KvStore :=
  match c with | 1 => { kv with ptr1 := n } | 2 => { kv with ptr2 := n } | _ => { kv with ptr3 := n }

/-- One class of the deficit round robin (R335). -/
def chooseClass (r : StoreRec) (maxe c quant : Nat) (h : Choice) : Choice :=
  let p := getPtr h.w.kv c
  let es := (List.range 512).map (fun k => (p + k) % 512)
  (es.filter fun e => (getEasel h.w.kv e).st == .ready && (getEasel h.w.kv e).cls == c).foldl (fun h e =>
    if h.stopped then h
    else
      let z0 := getEasel h.w.kv e
      let z := { z0 with deficit := Nat.min (z0.deficit + quant) 65535 }
      let h1 := { h with w := { h.w with kv := putEasel h.w.kv e z } }
      if maxe ≤ h.batch.length then { h1 with stopped := true }
      else
        let h2 :=
          if z.nodes ≤ z.deficit ∧ z.nodes ≤ h1.left ∧ z.nodes ≤ h1.cap then
            let t := choiceTake r e h1
            if t.stopped then t
            else
              let y := getEasel t.w.kv e
              { t with w := { t.w with kv := putEasel t.w.kv e { y with deficit := y.deficit - z.nodes } },
                       cap := t.cap - z.nodes }
          else h1
        if h2.stopped then h2
        else { h2 with w := { h2.w with kv := setPtr h2.w.kv c ((e + 1) % 512) } }) h

/-- The 16-byte entry of a batch member (R346). -/
def batchEntry (kv : KvStore) (e : Nat) : Nat :=
  let z := getEasel kv e
  pack [(16, e), (16, z.seq), (32, z.len), (24, z.root), (8, z.nodes - 1), (8, z.cls), (8, z.rule), (16, 0)]

/-- EZNEXT (R335, R346). -/
def ezEznext (c : Cmd) (r : StoreRec) (w : Kw) : EzOut :=
  let maxe := bits c.arg.toNat 39 34 + 1
  let lrow := bits c.arg.toNat 33 21
  let nb := c.p0.toNat
  let col := getCol w.s (colOf w.s.coreNo)
  if bits c.arg.toNat 20 0 ≠ 0 ∨ !parmsOk c 0xFFF 0 0 0 ∨ nb = 0 ∨ 6096 < lrow + 3 then ezIllegal
  else
    let h0 : Choice := { w := w, batch := [], left := nb, cap := nb * (65536 - col.refloss % 65536) / 65536,
                         stopped := false, want := none }
    let h := chooseClass r maxe 3 col.q3 (chooseClass r maxe 2 col.q2 (chooseClass r maxe 1 col.q1 (chooseZero r maxe h0)))
    match h.batch, h.want with
    | [], some n => ezPool r w.kv n
    | _, _ =>
      let kv := h.w.kv
      let r0 := joinEls 16 ((h.batch ++ List.replicate 256 0xFFFF).take 256)
      let r1 := joinEls 128 (h.batch.map (batchEntry kv))
      .done { h.w with s := putRowBytes h.w.s lrow 1536 (r0 + 2 ^ 4096 * r1) } 0 (.ofNat 64 h.batch.length)
/-- EZNEXT on the EZ ring. -/
def execEznext (c : Cmd) (s : State) : Host.Outcome State Fault Refusal :=
  .next (engineGo 4 c (fun slot s => ezRun c (ezEznext c) slot s) s)

/-- A list has a repeated member. -/
def hasDup : List Nat → Bool
  | [] => false
  | x :: r => r.contains x || hasDup r

/-- The batch list and the rows of EZTREE or EZCHECK (R347), or how the command ends. -/
def batchRows (c : Cmd) (w : Kw) : Except EzOut (List (Nat × Nat)) :=
  let n := bits c.arg.toNat 39 34 + 1
  let lrow := bits c.arg.toNat 33 21
  let drow := bits c.arg.toNat 20 8
  if bits c.arg.toNat 7 0 ≠ 0 ∨ 6096 ≤ lrow ∨ 6096 < drow + n then .error ezIllegal
  else
    match ezRow w.s lrow with
    | .error p => .error (.row p)
    | .ok l =>
      let es := splitEls 16 n l
      if es.any (fun e => decide (511 < e)) || hasDup es then .error ezIllegal
      else
        match rowsBad w.s.core drow n with
        | some p => .error (.row p)
        | none => .ok (es.zip ((List.range n).map fun k => (getRow w.s.core (drow + k)).toNat))

/-- The nodes of a posted tree row (R347). -/
def treeNodes (row n : Nat) : List TreeNode :=
  (List.range n).map fun i =>
    let x := row / 2 ^ (64 * i) % 2 ^ 64
    { token := x % 2 ^ 24, parent := x / 2 ^ 24 % 256, q := x / 2 ^ 32 }

/-- A tree row that EZTREE accepts (R331, R347). -/
def treeOk (z : Easel) (n row : Nat) : Bool :=
  let t := treeNodes row n
  decide (n ≤ z.nodes) && row / 2 ^ (64 * n) == 0 &&
    (match t with | x :: _ => x.token == z.root && x.parent == 255 | [] => false) &&
    (t.zipIdx.drop 1).all (fun p => decide (p.1.parent < p.2))

/-- EZTREE (R347). -/
def ezEztree (c : Cmd) (_ : StoreRec) (w : Kw) : EzOut :=
  let n := c.p0.toNat + 1
  if !parmsOk c 0x3F 0 0 0 then ezIllegal
  else
    match batchRows c w with
    | .error o => o
    | .ok l =>
      if l.any (fun p => (getEasel w.kv p.1).st != .draft) then ezSlot
      else if l.any (fun p => !treeOk (getEasel w.kv p.1) n p.2) then ezIllegal
      else
        .done { w with kv := l.foldl (fun kv p =>
          putEasel kv p.1 { getEasel kv p.1 with st := .check, tree := treeNodes p.2 n }) w.kv } 0 0
/-- EZTREE on the EZ ring. -/
def execEztree (c : Cmd) (s : State) : Host.Outcome State Fault Refusal :=
  .next (engineGo 4 c (fun slot s => ezRun c (ezEztree c) slot s) s)

/-- draw()'s next generator state (R332). -/
def xorshift (s : Nat) : Nat :=
  let a := Nat.xor s (s * 2 ^ 13 % 2 ^ 64)
  let b := Nat.xor a (a / 2 ^ 7)
  Nat.xor b (b * 2 ^ 17 % 2 ^ 64)

/-- x < y for signed dyadic numbers. -/
def dyLt (x y : Int × Int) : Bool := decide ((addDy x (-y.1, y.2)).1 < 0)

/-- Signed value of a finite FP32 pattern. -/
def dyOf (v : FVal) : Int × Int := match v with | .fin n m e => (if n then -(m : Int) else m, e) | _ => (0, 0)

/-- a ≥ b for FP32 values that are numbers. -/
def fvGe (a b : FVal) : Bool :=
  match a, b with
  | .nan _ _, _ => false
  | _, .nan _ _ => false
  | .inf na, .inf nb => !na || nb
  | .inf na, _ => !na
  | _, .inf nb => nb
  | x, y => !dyLt (dyOf x) (dyOf y)

/-- accept(p, q, u) of R332, u being k / 2^24. -/
def acceptNode (p q : FVal) (k : Nat) : Bool :=
  match p, q with
  | .nan _ _, _ => false
  | _, .nan _ _ => false
  | .inf n, .inf _ => !n
  | .inf n, _ => !n
  | p, .inf _ => dyLt (0, 0) (dyOf p)
  | p, q =>
    if dyLt (dyOf p) (0, 0) then false
    else if !dyLt (0, 0) (dyOf q) then dyLt (0, 0) (dyOf p)
    else dyLt ((k : Int) * (dyOf q).1, (dyOf q).2 - 24) (dyOf p)

/-- What a check posts for a node: p_i and NEXT_i (R332). -/
def postOf (row i : Nat) : Nat × Nat := (row / 2 ^ (64 * i) % 2 ^ 32, row / 2 ^ (64 * i + 32) % 2 ^ 24)

/-- The first accepted child of node `x`, the draws of sample mode on the way (R332). -/
def firstChild (z : Easel) (row x : Nat) : List (TreeNode × Nat) → Nat → Option Nat × Nat
  | [], g => (none, g)
  | (t, y) :: r, g =>
    if y = 0 ∨ t.parent ≠ x then firstChild z row x r g
    else
      let g2 := if z.rule = 1 then xorshift g else g
      let p := fdec (fmtOf 12) (postOf row y).1
      let ok := match z.rule with
        | 0 => t.token == (postOf row x).2
        | 1 => acceptNode p (fdec (fmtOf 12) t.q) (g2 / 2 ^ 40)
        | _ => fvGe p (fdec (fmtOf 12) z.theta)
      if ok then (some y, g2) else firstChild z row x r g2

/-- The acceptance walk (R332): the path after node `x`, and the generator. -/
def walkPath (z : Easel) (row : Nat) : Nat → Nat → Nat → List Nat × Nat
  | 0, _, g => ([], g)
  | f + 1, x, g =>
    match firstChild z row x z.tree.zipIdx g with
    | (none, g2) => ([], g2)
    | (some y, g2) =>
      let r := walkPath z row f y g2
      (y :: r.1, r.2)

/-- What the acceptance of an easel gives, cut to the room that the sequence has (R332, R333): path and generator. -/
def checkPath (r : StoreRec) (z : Easel) (row : Nat) : List Nat × Nat :=
  let p := walkPath z row 64 0 z.rng.toNat
  ((0 :: p.1).take (64 * r.maxb - z.len), p.2)

/-- Storage that a commit of `n` positions takes (R333): formats, and the references that copies have dropped so far. -/
def commitNeeds (r : StoreRec) (kv : KvStore) (z : Easel) (n : Nat) (gone : List Nat) : List Nat × List Nat :=
  (List.range r.nl).foldl (fun (acc : List Nat × List Nat) l =>
    let b0 := z.len / 64
    (List.range ((z.len + n - 1) / 64 - b0 + 1)).foldl (fun (acc : List Nat × List Nat) k =>
      match tabRec r kv z.seq l (b0 + k) with
      | none => (acc.1 ++ [appendFmt r kv z.seq l (b0 + 1) b0], acc.2)
      | some i =>
        let b := getRec kv i
        let shared := 1 < b.ref - acc.2.count i
        if b.fmt = 2 then (acc.1 ++ [0], if shared then acc.2 ++ [i] else acc.2)
        else if shared then (acc.1 ++ [b.fmt], acc.2 ++ [i]) else acc) acc) ([], gone)

/-- A target block ready to be appended to: allocated, copied or expanded as R333 says. -/
def targetBlock (slot : Nat) (r : StoreRec) (q l b fmt : Nat) (w : Kw) : Except (Nat × Nat) (Nat × Kw) :=
  match tabRec r w.kv q l b with
  | none => do
    let a := allocRec r fmt survAll w
    let w1 ← zeroSum slot r (getRec a.2.kv a.1) a.2
    return (a.1, { w1 with kv := setTab r w1.kv q l b a.1 })
  | some i =>
    let x := getRec w.kv i
    if x.fmt = 2 then do
      let p ← expandRec slot r i w
      return (p.1, { p.2 with kv := setTab r p.2.kv q l b p.1 })
    else if 1 < x.ref then do
      let p ← copyRec slot r i w
      return (p.1, { p.2 with kv := setTab r p.2.kv q l b p.1 })
    else .ok (i, w)

/-- A row converted from a wet block's format into its target's (R333): kind 2 of the tolerant pages is BF16 into E4M3. -/
def convRow (r : StoreRec) (wf tf n : Nat) : Nat :=
  if wf = tf then n
  else if tf = 1 then joinEls 8 ((rowPats r 0 n).map (tolStore 2))
  else joinEls 16 ((rowPats r 1 n).map (tolLoad 2))

/-- One position appended (R328, R333): the slot it went to. -/
def appendRow (slot : Nat) (r : StoreRec) (wet : BlockRec) (node i p : Nat) (w : Kw) : Except (Nat × Nat) (Nat × Kw) := do
  let b := getRec w.kv i
  let sv := if b.surv = survAll then survAll else (.ofNat 64 (b.surv.toNat % 2 ^ p + 2 ^ p) : Word)
  let sl := slotAt sv p
  let w1 ← (List.range r.kvh).foldlM (fun w g => [false, true].foldlM (fun w v => do
    let q ← readRow slot r wet v g node w
    kvWrite slot (kvRowAddr r b v g sl) (rowLen r b.fmt) (convRow r wet.fmt b.fmt q.1) q.2.2) w) w
  return (sl, { w1 with kv := putRec w1.kv i { b with surv := sv, gen := (b.gen + 1) % 2 ^ 32 } })

/-- The positions of a path that fall into block `b`: node and position in the block. -/
def pathIn (len b : Nat) (path : List Nat) : List (Nat × Nat) :=
  (path.zipIdx.filter fun p => (len + p.2) / 64 == b).map fun p => (p.1, (len + p.2) % 64)

/-- One layer of a commit (R333 steps 1 and 2). -/
def commitLayer (slot : Nat) (r : StoreRec) (z : Easel) (path : List Nat) (w : Kw) (l : Nat) : Except (Nat × Nat) Kw := do
  let b0 := z.len / 64
  let fmt := appendFmt r w.kv z.seq l (b0 + 1) b0
  let wet := match Sparse.find (getSeq w.kv z.seq).wet l with | some i => getRec w.kv i | none => blankRec
  (List.range ((z.len + path.length - 1) / 64 - b0 + 1)).foldlM (fun w k => do
    let t ← targetBlock slot r z.seq l (b0 + k) fmt w
    let fresh := (keptBelow (getRec t.2.kv t.1).surv (z.len - 64 * (b0 + k))).isEmpty
    let a ← (pathIn z.len (b0 + k) path).foldlM (fun (acc : List Nat × Kw) (p : Nat × Nat) => do
      let x ← appendRow slot r wet p.1 t.1 p.2 acc.2
      return (acc.1 ++ [x.1], x.2)) ([], t.2)
    mergeSum slot r (getRec a.2.kv t.1) a.1 fresh a.2) w

/-- The commit of one easel (R333). -/
def commitEasel (slot : Nat) (r : StoreRec) (e : Nat) (row : Nat) (w : Kw) : Except (Nat × Nat) (Nat × Kw) := do
  let z := getEasel w.kv e
  let cp := checkPath r z row
  let last := cp.1.getLastD 0
  let t := (postOf row last).2
  let w1 ← (List.range r.nl).foldlM (commitLayer slot r z cp.1) w
  let len := z.len + cp.1.length
  let k := setLen r z.seq len (freeWet r z.seq w1.kv)
  let k2 := putEasel k e { z with st := .ready, len := len, root := t, rng := .ofNat 64 cp.2, tree := [] }
  return (pack [(16, cp.1.length), (24, t), (8, 0), (16, last), (32, len), (32, 0)],
    { w1 with kv := { k2 with ready := k2.ready ++ [e] } })

/-- Commits in list order; the entries of R347. -/
def commitAll (slot : Nat) (r : StoreRec) : List (Nat × Nat) → Kw → Except (Nat × Nat) (List Nat × Kw)
  | [], w => .ok ([], w)
  | (e, row) :: l, w => do
    let x ← commitEasel slot r e row w
    let y ← commitAll slot r l x.2
    return (x.1 :: y.1, y.2)

/-- EZCHECK (R332, R333, R347). Beyond its entries it writes zero into the two rows, as R346 has it for EZNEXT (log 86). -/
def ezEzcheck (c : Cmd) (slot : Nat) (r : StoreRec) (w : Kw) : EzOut :=
  let rrow := c.p0.toNat
  if !parmsOk c 0x1FFF 0 0 0 || decide (6096 < rrow + 2) then ezIllegal
  else
    match batchRows c w with
    | .error o => o
    | .ok l =>
      if l.any (fun p => (getEasel w.kv p.1).st != .check) then ezSlot
      else if l.any (fun p => (List.range 64).any (fun i => p.2 / 2 ^ (64 * i + 56) % 256 != 0) ||
          decide (64 * r.maxb ≤ (getEasel w.kv p.1).len)) then ezIllegal
      else
        let needs := l.foldl (fun (acc : List Nat × List Nat) p =>
          let z := getEasel w.kv p.1
          let x := commitNeeds r w.kv z (checkPath r z p.2).1.length acc.2
          (acc.1 ++ x.1, x.2)) ([], [])
        match reserveOk r needs.1 w.kv with
        | some k => ezPool r w.kv k
        | none => ezTry w do
          let x ← commitAll slot r l w
          return .done { x.2 with s := putRowBytes x.2.s rrow 1024 (joinEls 128 x.1) } 0 0
/-- EZCHECK on the EZ ring. -/
def execEzcheck (c : Cmd) (s : State) : Host.Outcome State Fault Refusal :=
  .next (engineGo 4 c (fun slot s => ezRun c (ezEzcheck c slot) slot s) s)

end Sys2Proof.Machine
end

