-- ==== Sys2Proof/Machine/Lanes.lean ====
section
/-! DEFINITION. The memory sequencer (R245 to R258): the XS commands, and the transfer instructions that a lane performs at
its PC. The context and its partition are those of the column that the lane serves. A transfer issues, and
begins once its slot members can take it; its bytes are then in place, and LANE_TRANSFER_COMPLETE completes its fills. -/
namespace Sys2Proof.Machine

/-- Slot of the context that runs on the partition of the column that lane `l` serves (R245). -/
def laneSlot (s : State) (l : Nat) : Option Nat := partSlot s (l / partWidth s)

/-- The XS entry that started the lane's program, while it waits for it: its ring's head (R246). -/
def ownsLane (s : State) (v : Lane) : Bool :=
  let g := getRing (getCore s v.owner.1) 5
  g.rseq == v.owner.2 && !g.stopped && (match g.results with | r :: _ => r.busy | [] => false)

/-- The owning XRUN completes or stops with `r` (R246, R257). -/
def finishRun (v : Lane) (code detail : Nat) (statx : Word) (s : State) : State :=
  if ownsLane s v then
    let c := getCore s v.owner.1
    let g := getRing c 5
    setCore s v.owner.1 (setRing c 5 { g with results := g.results.map fun r =>
      { r with code := code, detail := detail, statx := statx, busy := false } })
  else s

/-- A lane's step: the instruction performs `eff` while the lane is RUNNING in the context of its partition, and no XSTOP holds
it (R247); it translates through its column's TLB (R287). -/
def laneGo (l : Nat) (eff : Nat → Lane → State → State) (s : State) : State :=
  match laneSlot s l with
  | none => s
  | some slot =>
    let v := getLane s l
    if v.st == .running && v.slot == slot && !v.halt then asUnit l (eff slot v) s else s

/-- The instruction is performed and the lane goes on at `pc` (R246, R251). -/
def laneNext (l : Nat) (v : Lane) (pc : Word) (s : State) : State := setLane s l { v with pc := pc, exec := v.exec + 1 }

/-- The instruction stops the program, once the earlier ones have completed (R257). -/
def laneStop (l code : Nat) (v : Lane) (statx : Word) (s : State) : State :=
  if v.fly ≠ [] then s
  else finishRun v code (v.exec % 2 ^ 47) statx (setLane s l { v with st := .suspended })

/-- ILLEGAL at a transfer instruction (R43). -/
def laneIllegal (l : Nat) (v : Lane) (s : State) : State := laneStop l codeIllegal v v.pc s

/-- A fault of a lane's access (R257): an uncorrectable sector is logged, a request that waits for RETRY changes nothing. -/
def laneFault (l slot : Nat) (v : Lane) (e : Nat × Nat) (s : State) : State :=
  if e.1 = codeRetry ∨ v.fly ≠ [] then s
  else
    let p := checkPlace s slot e.2 32
    let t := if e.1 = codeCheck then logMc (touchVa slot e.2 s) (mcEntry 2 p.1 v.owner.1 slot p.2) else touchWalk s slot e.2
    laneStop l e.1 v (.ofNat 64 e.2) t

/-- The descriptor of a member for a transfer of `t` bytes, none where R249 faults with ILLEGAL. -/
def memberOf (c : Ctx) (t d : Nat) : Option Member :=
  let k := bits d 47 41
  let row := bits d 39 27
  let x := bits d 26 22
  let u := bits d 21 16
  if bits d 63 48 ≠ 0 ∨ bits d 15 0 ≠ 0 ∨ !inPart c k then none
  else if bits d 40 40 = 0 then
    if x ≠ 0 ∨ u ≠ 0 ∨ 512 * 6144 < 512 * row + t then none else some { core := k, slot := none, base := 512 * row }
  else if row ≠ 0 ∨ 16384 < 256 * u + t then none
  else some { core := k, slot := some x, base := 256 * u }

/-- Two members that name one slot, or overlapping rows of one core (R249). -/
def membersClash (t : Nat) (a b : Member) : Bool :=
  a.core == b.core &&
    match a.slot, b.slot with
    | some x, some y => x == y
    | none, none => decide (a.base / 512 ≤ (b.base + t - 1) / 512) && decide (b.base / 512 ≤ (a.base + t - 1) / 512)
    | _, _ => false

/-- Every pair of members is apart. -/
def membersApart (t : Nat) : List Member → Bool
  | [] => true
  | a :: r => r.all (fun b => !membersClash t a b) && membersApart t r

/-- The descriptors of a list, none when one of them is illegal. -/
def membersOf (c : Ctx) (t : Nat) : List Nat → Option (List Member)
  | [] => some []
  | d :: r =>
    match memberOf c t d, membersOf c t r with
    | some m, some l => some (m :: l)
    | _, _ => none

/-- The members of a multicast set record (R249). -/
def setRecord (c : Ctx) (t rec_ : Nat) : Option (List Member) :=
  let n := rec_ % 8
  if rec_ % 2 ^ 64 / 8 ≠ 0 ∨ n = 0 ∨ rec_ / 2 ^ (64 * (n + 1)) ≠ 0 then none
  else membersOf c t (splitEls 64 n (rec_ / 2 ^ 64))

/-- A sector written to a member at byte `b` of the transfer (R249). -/
def memberWrite (b x : Nat) (m : Member) (s : State) : State :=
  let c := getCore s m.core
  setCore s m.core (match m.slot with
    | none => writeScratch c (m.base + b) 64 x
    | some k => fillBytes c k (m.base + b) 64 x)

/-- `n` sectors from `src`, each read once through the pages translated and written to every member from byte `b` (R250). -/
def xferRow (slot kh : Nat) (pages : List (Nat × Leaf)) (ms : List Member) : Nat → Nat → Nat → State → State × Option (Nat × Nat)
  | 0, _, _, s => (s, none)
  | n + 1, src, b, s =>
    match readPages s slot kh pages 1 src with
    | .error e => (s, some e)
    | .ok x => xferRow slot kh pages ms n ((src + 64) % 2 ^ 64) (b + 64) (ms.foldl (fun s m => memberWrite b x m s) (touchVa slot src s))

/-- The rows of a transfer. -/
def xferRows (slot kh : Nat) (pages : List (Nat × Leaf)) (ms : List Member) (ns pitch : Nat) : Nat → Nat → Nat → State → State × Option (Nat × Nat)
  | 0, _, _, s => (s, none)
  | r + 1, src, b, s =>
    match xferRow slot kh pages ms ns src b s with
    | (t, some e) => (t, some e)
    | (t, none) => xferRows slot kh pages ms ns pitch r ((src + pitch) % 2 ^ 64) (b + 64 * ns) t

/-- The pages of a transfer's source, translated and the key presented (R250), added to a list. -/
def xferPages (s : State) (slot kh ns pitch : Nat) : Nat → Nat → List (Nat × Leaf) → Except (Nat × Nat) (List (Nat × Leaf))
  | 0, _, l => .ok l
  | r + 1, src, l =>
    match engCheck s slot kh .read ns src, leavesOf s slot ns src l with
    | .error e, _ => .error e
    | _, .error e => .error e
    | .ok _, .ok m => xferPages s slot kh ns pitch r ((src + pitch) % 2 ^ 64) m

def laneX (v : Lane) (n : Nat) : BitVec 32 := match n with | 0 => v.x0 | 1 => v.x1 | 2 => v.x2 | _ => v.x3
def setLaneX (v : Lane) (n : Nat) (x : BitVec 32) : Lane :=
  match n with | 0 => { v with x0 := x } | 1 => { v with x1 := x } | 2 => { v with x2 := x } | _ => { v with x3 := x }

/-- Fields and alignments of XMOV and XMC (R248). -/
def xferFieldsOk (w : XWords) : Bool :=
  let o := w.op.toNat
  w.flags == 0 && bits o 47 46 == 0 && bits o 18 0 == 0 && w.x1.toNat % 64 == 0 && w.x2.toNat % 64 == 0 &&
    w.x2.toNat / 2 ^ 32 % 64 == 0 && (bits o 21 21 == 1 || w.x2.toNat % 2 ^ 32 == 0)

/-- The lane stands where it stood when a transfer issued that has not begun: that one and what was issued after it is given
up, and issues again (R257, R258; log 66). -/
def laneBack (v : Lane) (p : XferPend) (n : Nat) : Lane :=
  { v with pc := p.pc, x0 := p.x0, x1 := p.x1, x2 := p.x2, x3 := p.x3, exec := p.exec, fly := v.fly.take n }

/-- The first transfer of a lane that has not begun does so once every slot member can begin its fill: the fills begin together,
and the bytes are copied. An uncorrectable sector, or a link that is down, stops the program there, once the earlier transfers have
completed (R250, R251, R257, R352). -/
def laneBegin (l slot : Nat) (s : State) : State :=
  let v := getLane s l
  let n := v.fly.findIdx fun f => f.pend.isSome
  match v.fly[n]? with
  | none => s
  | some f =>
    match f.pend with
    | none => s
    | some p =>
      if f.fills.any (fun f => !canFill (getCore s f.1) f.2) then s
      else
        match xferRows slot p.kh p.pages p.members p.ns p.pitch p.nr p.src 0 s with
        | (t, none) =>
          setLane (onSlots fillBegin f.fills t) l
            { v with fly := v.fly.set n { f with pend := none } }
        | (t, some e) => if n ≠ 0 ∨ e.1 = codeRetry then s else laneFault l slot (laneBack v p 0) e t

/-- The transfer to the members issues, once its checks have passed, and begins if it can (R250, R251); `tch` is what reading its
set record does. -/
def xferGo (l : Nat) (w : XWords) (src : Nat) (ms : List Member) (tch : State → State) (slot : Nat) (v : Lane) (s : State) : State :=
  let o := w.op.toNat
  let nr := bits o 45 40 + 1
  let ns := bits o 39 32 + 1
  let kh := bits o 31 22
  let pitch := w.x2.toNat / 2 ^ 32
  match xferPages s slot kh ns pitch nr src [] with
  | .error e => laneFault l slot v e s
  | .ok pages =>
    if 8 ≤ v.fly.length then s
    else
      let p : XferPend := { pc := v.pc, x0 := v.x0, x1 := v.x1, x2 := v.x2, x3 := v.x3, exec := v.exec, kh := kh, ns := ns, nr := nr,
                            pitch := pitch, src := src, members := ms, pages := pages }
      laneBegin l slot (laneNext l
        { v with fly := v.fly ++ [{ fills := ms.filterMap fun m => m.slot.map fun x => (m.core, x), pend := some p }] } (v.pc + 32) (tch s))

/-- Source of a transfer (R250). -/
def xferSrc (w : XWords) (v : Lane) : Nat :=
  let o := w.op.toNat
  if bits o 21 21 = 0 then w.x1.toNat
  else wrapTo 64 ((w.x1.toNat : Int) + signed 32 (w.x2.toNat % 2 ^ 32) * ((laneX v (bits o 20 19)).toNat : Int))

/-- Bytes of a transfer (R248). -/
def xferLen (w : XWords) : Nat := 64 * (bits w.op.toNat 39 32 + 1) * (bits w.op.toNat 45 40 + 1)

/-- XMOV (R248 to R250). -/
def effXmov (l : Nat) (w : XWords) (slot : Nat) (v : Lane) (s : State) : State :=
  match getCtx s slot with
  | none => s
  | some c =>
    match memberOf c (xferLen w) w.x3.toNat with
    | some m => if xferFieldsOk w then xferGo l w (xferSrc w v) [m] id slot v s else laneIllegal l v s
    | none => laneIllegal l v s
/-- XMOV in lane `lane`. -/
def execXmov (lane : BitVec 3) (w : XWords) (s : State) : Host.Outcome State Fault Refusal :=
  .next (laneGo lane.toNat (effXmov lane.toNat w) s)

/-- XMC (R248 to R250): the set record is read as one sector without a key handle. -/
def effXmc (l : Nat) (w : XWords) (slot : Nat) (v : Lane) (s : State) : State :=
  match getCtx s slot with
  | none => s
  | some c =>
    if !xferFieldsOk w || w.x3.toNat % 64 != 0 then laneIllegal l v s
    else
      match engLoad s slot 0 w.x3.toNat 64 with
      | .error e => laneFault l slot v (e, w.x3.toNat) s
      | .ok r =>
        match setRecord c (xferLen w) r with
        | none => laneIllegal l v s
        | some ms =>
          if membersApart (xferLen w) ms then xferGo l w (xferSrc w v) ms (touchVa slot w.x3.toNat) slot v s
          else laneIllegal l v s
/-- XMC in lane `lane`. -/
def execXmc (lane : BitVec 3) (w : XWords) (s : State) : Host.Outcome State Fault Refusal :=
  .next (laneGo lane.toNat (effXmc lane.toNat w) s)

/-- The transfer's words above the opcode are zero. -/
def xZero (w : XWords) : Bool := w.flags == 0 && w.op == 0 && w.x1 == 0 && w.x2 == 0 && w.x3 == 0

/-- XNOP (R256). -/
def effXnop (l : Nat) (w : XWords) (_ : Nat) (v : Lane) (s : State) : State :=
  if xZero w then laneNext l v (v.pc + 32) s else laneIllegal l v s
/-- XNOP in lane `lane`. -/
def execXnop (lane : BitVec 3) (w : XWords) (s : State) : Host.Outcome State Fault Refusal :=
  .next (laneGo lane.toNat (effXnop lane.toNat w) s)

/-- XLOOP (R252). -/
def effXloop (l : Nat) (w : XWords) (_ : Nat) (v : Lane) (s : State) : State :=
  let o := w.op.toNat
  let count := bits o 31 0
  let n := bits o 41 40
  if w.flags ≠ 0 ∨ bits o 47 42 ≠ 0 ∨ bits o 39 32 ≠ 0 ∨ count = 0 ∨ w.x2 ≠ 0 ∨ w.x3 ≠ 0 then laneIllegal l v s
  else
    let x := laneX v n + 1
    if x.toNat < count then laneNext l (setLaneX v n x) (v.pc + 32 * w.x1) s
    else laneNext l (setLaneX v n 0) (v.pc + 32) s
/-- XLOOP in lane `lane`. -/
def execXloop (lane : BitVec 3) (w : XWords) (s : State) : Host.Outcome State Fault Refusal :=
  .next (laneGo lane.toNat (effXloop lane.toNat w) s)

/-- XWAIT (R253). -/
def effXwait (l : Nat) (w : XWords) (slot : Nat) (v : Lane) (s : State) : State :=
  match getCtx s slot with
  | none => s
  | some c =>
    let o := w.op.toNat
    let k := bits o 47 41
    let ixe := bits o 37 37 == 1
    if w.flags ≠ 0 ∨ bits o 34 0 ≠ 0 ∨ !inPart c k ∨ w.x3 ≠ 0 ∨ (!ixe ∧ w.x2 ≠ 0) then laneIllegal l v s
    else
      let th := if ixe then w.x1 + w.x2 * (laneX v (bits o 36 35)).setWidth 64 else w.x1
      if th.toNat ≤ (getTl (getCore s k) (bits o 40 38)).toNat then laneNext l v (v.pc + 32) s else s
/-- XWAIT in lane `lane`. -/
def execXwait (lane : BitVec 3) (w : XWords) (s : State) : Host.Outcome State Fault Refusal :=
  .next (laneGo lane.toNat (effXwait lane.toNat w) s)

/-- XSIG (R254): after every earlier transfer. -/
def effXsig (l : Nat) (w : XWords) (slot : Nat) (v : Lane) (s : State) : State :=
  match getCtx s slot with
  | none => s
  | some c =>
    let o := w.op.toNat
    let k := bits o 47 41
    let t := bits o 40 39
    if w.flags ≠ 0 ∨ bits o 38 0 ≠ 0 ∨ !inPart c k ∨ t = 0 ∨ w.x1 ≠ 0 ∨ w.x2 ≠ 0 ∨ w.x3 ≠ 0 then laneIllegal l v s
    else if v.fly ≠ [] then s
    else laneNext l v (v.pc + 32) (setCore s k (raiseTl (getCore s k) (4 + t) 1))
/-- XSIG in lane `lane`. -/
def execXsig (lane : BitVec 3) (w : XWords) (s : State) : Host.Outcome State Fault Refusal :=
  .next (laneGo lane.toNat (effXsig lane.toNat w) s)

/-- The largest LOSS of the columns of a context's partition, at most half (R255, R276). -/
def partLoss (s : State) (c : Ctx) : Nat :=
  Nat.min 32768 ((List.range (2 ^ c.width)).foldl (fun m i => Nat.max m ((getCol s (c.part * 2 ^ c.width + i)).refloss % 65536)) 0)

/-- Lead of an XPHASE for a set, in units of 100 ns: longer for a set that the image lowers (R255). -/
def xLead (s : State) (c : Ctx) (img lead n : Nat) : Nat :=
  if img / 4 ^ n % 4 < phaseNow (gtimeOf s) c / 4 ^ n % 4 then
    (65536 * lead + (65536 - partLoss s c) - 1) / (65536 - partLoss s c)
  else lead

/-- XPHASE (R255). -/
def effXphase (l : Nat) (w : XWords) (slot : Nat) (v : Lane) (s : State) : State :=
  match getCtx s slot with
  | none => s
  | some c =>
    let o := w.op.toNat
    let img := w.x1.toNat
    if w.flags ≠ 0 ∨ bits o 47 13 ≠ 0 ∨ !phaseImageOk img ∨ w.x2 ≠ 0 ∨ w.x3 ≠ 0 then laneIllegal l v s
    else
      let now := gtimeOf s
      laneNext l v (v.pc + 32) (modCtx s slot fun d =>
        (List.range 16).foldl (fun d n => declSet s img (now + 100 * xLead s c img (bits o 12 0) n) d n) (phaseCommit s d))
/-- XPHASE in lane `lane`. -/
def execXphase (lane : BitVec 3) (w : XWords) (s : State) : Host.Outcome State Fault Refusal :=
  .next (laneGo lane.toNat (effXphase lane.toNat w) s)

/-- XEND (R246, R251, R256): after every earlier transfer, the XRUN completes and the lane becomes idle. -/
def effXend (l : Nat) (w : XWords) (_ : Nat) (v : Lane) (s : State) : State :=
  if !xZero w then laneIllegal l v s
  else if v.fly ≠ [] then s
  else finishRun v 0 ((v.exec + 1) % 2 ^ 47) 0 (setLane s l { v with st := .idle, pc := v.pc + 32, exec := v.exec + 1 })
/-- XEND in lane `lane`. -/
def execXend (lane : BitVec 3) (w : XWords) (s : State) : Host.Outcome State Fault Refusal :=
  .next (laneGo lane.toNat (effXend lane.toNat w) s)

/-- LANE, and the reserved bits of an XS command (R246). -/
def xsArg (c : Cmd) : Option Nat :=
  if bits c.arg.toNat 36 0 = 0 ∧ c.p1 = 0 ∧ c.p2 = 0 ∧ c.p3 = 0 then some (bits c.arg.toNat 39 37) else none

/-- XRUN begins: the entry stands begun and busy until its program ends (R246). -/
def xrunBegin (c : Cmd) (s : State) : State :=
  addResult 5 { code := 0, detail := 0, statx := 0, tag := 0, rtl := c.rtl.toNat, fills := [], busy := true, posted := false } s

/-- XRUN (R246). -/
def effXrun (c : Cmd) (slot : Nat) (s : State) : State :=
  match xsArg c, getCtx s slot with
  | some l, some x =>
    if c.p0.toNat % 32 ≠ 0 ∨ !inPart x (16 * l) then illegal 5 s
    else
      let v := getLane s l
      let me : Nat × Word := (s.coreNo, (getRing s.core 5).rseq)
      if v.st == .suspended && v.owner == me then xrunBegin c (setLane s l { v with st := .running })
      else if v.st == .idle then
        xrunBegin c (setLane s l { Lane.idle with st := .running, pc := c.p0, owner := me, slot := slot })
      else s
  | _, _ => illegal 5 s
/-- XRUN on the XS ring. -/
def execXrun (c : Cmd) (s : State) : Host.Outcome State Fault Refusal := .next (engineGo 5 c (effXrun c) s)

/-- The XRUN of a lane's program has ended and not yet completed (R33). -/
def runEnding (s : State) (v : Lane) : Bool :=
  let g := getRing (getCore s v.owner.1) 5
  g.rseq == v.owner.2 && !g.stopped && (match g.results with | r :: _ => !r.busy && !r.redo | [] => false)

/-- XSTOP's wait is over: the program that it found RUNNING has ended, and its XRUN has completed; another program that has started
since goes on (R247). Where a transfer in flight has stopped the program meanwhile, its XRUN has stopped with that code, and the lane
becomes IDLE (log 91). -/
def xstopEnd (l : Nat) (c : Cmd) (s : State) : State :=
  let v := getLane s l
  let t := if v.st == .suspended && s.core.xstop == some v.owner then setLane s l { v with st := .idle } else s
  endOk 5 c 0 0 [] (withCore t { t.core with xstop := none })

/-- XSTOP (R247): a RUNNING lane issues nothing further; XSTOP waits until that program has ended and its XRUN has completed. -/
def effXstop (c : Cmd) (slot : Nat) (s : State) : State :=
  match xsArg c, getCtx s slot with
  | some l, some x =>
    if c.p0 ≠ 0 ∨ !inPart x (16 * l) then illegal 5 s
    else
      let v := getLane s l
      match s.core.xstop with
      | some o =>
        if v.st == .running && v.owner == o || runEnding s { v with owner := o } then s else xstopEnd l c s
      | none =>
        match v.st with
        | .idle => if runEnding s v then s else endOk 5 c 0 0 [] s
        | .suspended => endOk 5 c 0 0 [] (setLane s l { v with st := .idle })
        | .running => setLane (withCore s { s.core with xstop := some v.owner }) l { v with halt := true }
  | _, _ => illegal 5 s
/-- XSTOP on the XS ring. -/
def execXstop (c : Cmd) (s : State) : Host.Outcome State Fault Refusal := .next (engineGo 5 c (effXstop c) s)

/-- A lane that an XSTOP holds, its transfers all complete: its XRUN completes as halted, and it becomes IDLE (R247). -/
def laneHalt (l : Nat) (s : State) : State :=
  let v := getLane s l
  if v.halt && v.fly == [] then
    finishRun v 0 (2 ^ 47 + v.exec % 2 ^ 47) v.pc (setLane s l { v with st := .idle, halt := false })
  else s

/-- A pre-emption ends a lane's transfers (R258): those that have begun complete, the others are given up, and an XSTOP that
waits begins again with its ring. -/
def laneOff (l : Nat) (s : State) : State :=
  let v := getLane s l
  let n := v.fly.findIdx fun f => f.pend.isSome
  let u := match (v.fly[n]?).bind fun f => f.pend with | some p => laneBack v p n | none => v
  onSlots fillDone (u.fly.flatMap fun f => f.fills) (setLane s l { u with fly := [], halt := false })

/-- LANE_TRANSFER_COMPLETE (R250): the `n`-th transfer in flight completes its fills together. -/
def execLaneTransferComplete (lane : BitVec 3) (n : BitVec 4) (s : State) : Host.Outcome State Fault Refusal :=
  .next (
    match engPartSlot s (lane.toNat / partWidth s) with
    | none => s
    | some _ => completeFly lane.toNat n.toNat s)

end Sys2Proof.Machine
end

