-- ==== Sys2Proof/Machine/Links.lean ====
section
/-! DEFINITION. What carries packets (R349 to R354, R374 to R377): the packet header, flits with their CRC, credits and
replay, the route and its virtual channels, and the Ethernet flows with their resends. -/
namespace Sys2Proof.Machine

/-- A peer id of domain, package and core (R359). -/
structure Peer where
  dom : Nat
  pkg : Nat
  core : Nat
deriving DecidableEq, Repr

/-- The peer that an id names, none when it is ILLEGAL (R359). -/
def peerOf (p : Nat) : Option Peer :=
  if bits p 31 30 ≠ 0 ∨ bits p 15 14 ≠ 0 ∨ bits p 7 7 ≠ 0 ∨ 12288 ≤ bits p 29 16 ∨ 2 ^ 32 ≤ p then none
  else some { dom := bits p 29 16, pkg := bits p 13 8, core := bits p 6 0 }

/-- The id of a core of this package (R359). -/
def peerId (s : State) (k : Nat) : Nat := pack [(7, k), (1, 0), (6, s.pkgNo.toNat), (2, 0), (14, s.domNo.toNat)]

/-- The peer stands in this package. -/
def peerHere (s : State) (p : Peer) : Bool := p.dom == s.domNo.toNat && p.pkg == s.pkgNo.toNat

/-- The 32 header bytes of a packet and its payload (R377). -/
def packetBytes (p : Packet) : List Byte :=
  toBytes 32 (pack [(8, p.op.toNat), (8, p.flg.toNat), (16, p.group.toNat), (32, p.job.toNat), (32, p.src.toNat),
    (32, p.dst.toNat), (64, p.addr.toNat), (48, p.step.toNat), (16, p.len.toNat)]) ++ p.payload

/-- The packet that bytes spell, none while they are not whole. -/
def bytesPacket (l : List Byte) : Option Packet :=
  match unpack [8, 8, 16, 32, 32, 32, 64, 48, 16] (ofBytes (l.take 32)) with
  | [op, flg, g, job, src, dst, addr, step, len] =>
    if l.length < 32 + len then none
    else some { op := .ofNat 8 op, flg := .ofNat 8 flg, group := .ofNat 16 g, job := .ofNat 32 job, src := .ofNat 32 src,
                dst := .ofNat 32 dst, addr := .ofNat 64 addr, step := .ofNat 48 step, len := .ofNat 16 len,
                payload := (l.drop 32).take len }
  | _ => none

/-- CRC-64 of R350, most significant bit first (log 16). -/
def crcBit (r b : Nat) : Nat :=
  let top := (r / 2 ^ 63 + b) % 2
  let sh := r * 2 % 2 ^ 64
  if top = 1 then Nat.xor sh 0x42F0E1EBA9EA3693 else sh
/-- The remainder after one byte. -/
def crcByte (r : Nat) (x : Byte) : Nat :=
  [7, 6, 5, 4, 3, 2, 1, 0].foldl (fun r i => crcBit r (x.toNat / 2 ^ i % 2)) r
/-- The CRC of a list of bytes. -/
def crc64 (l : List Byte) : Nat := l.foldl crcByte 0

/-- The bytes of a flit. -/
def flitBytes (f : BitVec 2048) : List Byte := toBytes 256 f.toNat

/-- The flit's CRC holds and its KIND is one of the three (R350). -/
def flitOk (f : BitVec 2048) : Bool :=
  decide (bits f.toNat 63 60 ≤ 2) && f.toNat / 2 ^ 1984 == crc64 ((flitBytes f).take 248)

/-- A flit of a kind, 1 data or 2 control, with the link's acknowledgement, its NAK and the credits that it returns for one
channel (R350, R351). -/
def mkFlit (kind : Nat) (l : Link) (q : FlitOut) : BitVec 2048 :=
  let r := match l.owed with | e :: _ => e | [] => (0, 0)
  let body := toBytes 8 (pack [(22, 0), (1, r.1 % 2), (1, r.1 / 2), (8, Nat.min 255 r.2), (1, if q.sop then 1 else 0),
    (1, q.vc % 2), (1, q.vc / 2), (1, if l.nak then 1 else 0), (12, (l.rxSeq + 4095) % 4096), (12, if kind = 1 then l.txSeq else 0),
    (4, kind)]) ++ (q.data ++ List.replicate 240 0).take 240
  .ofNat 2048 (ofBytes (body ++ toBytes 8 (crc64 body)))

/-- The credits that a flit returned are no longer owed: at most 255 at once (R350). -/
def creditsSent (l : Link) : Sparse Nat :=
  match l.owed with
  | e :: r => if 255 < e.2 then (e.1, e.2 - 255) :: r else r
  | [] => []

/-- The first waiting flit whose channel has credit, in a link that carries traffic. -/
def nextFlit (l : Link) : Option Nat :=
  if l.st ≠ .up ∨ 512 ≤ l.unacked.length then none
  else l.outq.findIdx? (fun q => decide (0 < Sparse.get 0 l.credits q.vc))

/-- Flits sent while a credit allows (R351, R354); `n` bounds them. -/
def pumpLink : Nat → Link → Link
  | 0, l => l
  | n + 1, l =>
    match nextFlit l with
    | none => l
    | some i =>
      match l.outq[i]? with
      | none => l
      | some q =>
        pumpLink n
          { l with outq := l.outq.eraseIdx i, unacked := l.unacked ++ [mkFlit 1 l q], wire := l.wire ++ [mkFlit 1 l q],
                   txSeq := (l.txSeq + 1) % 4096, nak := false, owed := creditsSent l,
                   credits := Sparse.set 0 l.credits q.vc (Sparse.get 0 l.credits q.vc - 1) }

/-- A control flit, where a NAK or credits wait and no data flit carries them (R350, R351). -/
def controlFlit (l : Link) : Link :=
  if l.st = .up ∧ (l.nak ∨ l.owed ≠ []) then
    { l with wire := l.wire ++ [mkFlit 2 l { vc := 0, sop := false, data := [] }], nak := false, owed := creditsSent l }
  else l

/-- The waiting flits of a port, sent as far as credit allows, and what the link still owes the other end. -/
def pump (s : State) (p : Nat) : State :=
  let l := getLink s p
  setLink s p ((List.range 4).foldl (fun l _ => controlFlit l) (pumpLink l.outq.length l))

/-- A packet cut into flits of one channel (R350). -/
def cutFlits (vc : Nat) : Nat → Bool → List Byte → List FlitOut
  | 0, _, _ => []
  | n + 1, sop, l =>
    { vc := vc, sop := sop, data := l.take 240 } :: (if l.length ≤ 240 then [] else cutFlits vc n false (l.drop 240))

/-- Response rather than request class: responses and RETRY (R354, R377). -/
def packetCls (p : Packet) : Nat := if 8 ≤ p.op.toNat then 1 else 0

/-- Domain and package of a packet's target. -/
def packetDst (p : Packet) : Nat × Nat := (bits p.dst.toNat 29 16, bits p.dst.toNat 13 8)

/-- The link that port `p` of this package leads over joins coordinates 3 and 0 (R354). -/
def dateline (s : State) (p : Nat) : Bool :=
  let c := s.pkgNo.toNat / 4 ^ (p / 2) % 4
  if p % 2 = 0 then c == 3 else c == 0

/-- A packet put on port `p`; `vc1` when it arrived on VC1 in the same dimension (R354). -/
def sendPort (p : Nat) (vc1 : Bool) (k : Packet) (s : State) : State :=
  let vc := 2 * packetCls k + (if vc1 || dateline s p then 1 else 0)
  let b := packetBytes k
  let l := getLink s p
  pump (setLink s p { l with outq := l.outq ++ cutFlits vc (b.length / 240 + 1) true b }) p

/-- Number of the flow of one class with a package of another domain (R374; log 17). -/
def flowNo (dom pkg cls : Nat) : Nat := (dom * 64 + pkg) * 2 + cls
def getFlow (s : State) (f : Nat) : Flow := Sparse.get Flow.fresh s.flows f
def setFlow (s : State) (f : Nat) (v : Flow) : State := { s with flows := Sparse.set Flow.fresh s.flows f v }

/-- Slot of the resident context with a JOB (R355). -/
def slotOfJob (s : State) (job : Nat) : Option Nat :=
  (s.ctxs.find? fun p => match p.2 with | some c => c.job == job | none => false).map (·.1)

/-- The key under which a job's datagrams are sealed, none where ENC is 0 (R367, R375). -/
def sealKey (s : State) (job : Nat) : Option Nat :=
  match (slotOfJob s job).bind (getCtx s) with
  | some c => if c.transport.getLsbD 0 then some c.jobKey.toNat else none
  | none => none

/-- The nonce of a datagram: the flow's identity, then its sequence number (R375; log 48). -/
def nonceOf (f : Nat) (out : Bool) (seq : Nat) : List Nat := splitEls 8 8 (Config.flowId f out).toNat ++ splitEls 8 4 seq

/-- A packet as the datagram of its flow that carries it: the payload sealed where ENC is 1 (R374, R375). -/
def datagramOf (s : State) (f : Nat) (k : Packet) : Datagram :=
  let seq := (getFlow s f).txSeq
  match sealKey s k.job.toNat with
  | none => { seq := seq, pkt := k, body := k.payload, tag := 0, sent := devNs s, resends := 0 }
  | some key =>
    let body := gcmCrypt key (nonceOf f true seq) (k.payload.map (·.toNat))
    { seq := seq, pkt := k, body := body.map (.ofNat 8), sent := devNs s, resends := 0,
      tag := gcmTag (aesKey (splitEls 8 32 key)) (nonceOf f true seq) body }

/-- A datagram's packet with its payload opened, none where its tag is wrong (R375). -/
def openDatagram (s : State) (f seq : Nat) (tag : BitVec 128) (k : Packet) : Option Packet :=
  match sealKey s k.job.toNat with
  | none => some k
  | some key =>
    let body := k.payload.map (·.toNat)
    if gcmTag (aesKey (splitEls 8 32 key)) (nonceOf f false seq) body = tag then
      some { k with payload := (gcmCrypt key (nonceOf f false seq) body).map (.ofNat 8) }
    else none

/-- A packet on its way: over the first link of its route, or as a datagram of its flow (R353, R374, R376). A request that no
route carries waits in the link agent for its issuer to be told (R349, R352). -/
def sendPacket (k : Packet) (s : State) : State :=
  let d := packetDst k
  if d.1 = s.domNo.toNat then
    match firstPort s.pkgNo.toNat d.2 with
    | some p =>
      if reachable s d.2 then sendPort p false k s
      else if packetCls k = 0 then { s with retryq := s.retryq ++ [k] } else s
    | none => s
  else
    let f := flowNo d.1 d.2 (packetCls k)
    let v := getFlow s f
    setFlow s f { v with txSeq := (v.txSeq + 1) % 2 ^ 32, unacked := v.unacked ++ [datagramOf s f k] }

/-- Packets sent one after another. -/
def sendAll (l : List Packet) (s : State) : State := l.foldl (fun s k => sendPacket k s) s

/-- Packets whose flits follow one another, after the bytes of one that are not its end: what remains of the last, and the whole
ones. -/
def wholePackets (buf : List Byte) (l : List FlitOut) : List Byte × List Packet :=
  l.foldl (fun (a : List Byte × List Packet) f =>
    let cur := if f.sop then f.data else a.1 ++ f.data
    match bytesPacket cur with
    | some k => ([], a.2 ++ [k])
    | none => (cur, a.2)) (buf, [])

/-- A sent flit as what it carried. -/
def flitOutOf (f : BitVec 2048) : FlitOut :=
  { vc := 2 * bits f.toNat 34 34 + bits f.toNat 33 33, sop := bits f.toNat 32 32 == 1, data := ((flitBytes f).drop 8).take 240 }

/-- Bytes kept of each channel's packet once flits of it are acknowledged. -/
def holdAcked (held : Sparse (List Byte)) (l : List FlitOut) : Sparse (List Byte) :=
  [0, 1, 2, 3].foldl (fun m vc =>
    Sparse.set [] m vc (wholePackets (Sparse.get [] m vc) (l.filter fun q => q.vc == vc)).1) held

/-- The packets that a link has not wholly delivered. -/
def undelivered (l : Link) : List Packet :=
  [0, 1, 2, 3].flatMap fun vc =>
    (wholePackets (Sparse.get [] l.held vc) ((l.unacked.map flitOutOf ++ l.outq).filter fun q => q.vc == vc)).2

/-- A link's ACK, NAK and CRD as a received flit gives them (R350, R351): a NAK sends again, in order, what is not
acknowledged. -/
def takeAck (f : Nat) (l : Link) : Link :=
  let n := (bits f 47 36 + 1 + 4096 - (l.txSeq + 4096 - l.unacked.length % 4096) % 4096) % 4096
  let ch := 2 * bits f 23 23 + bits f 22 22
  let n := if n ≤ l.unacked.length then n else 0
  { l with unacked := l.unacked.drop n, held := holdAcked l.held ((l.unacked.take n).map flitOutOf),
           wire := if bits f 35 35 = 1 then l.wire ++ l.unacked.drop n else l.wire,
           credits := Sparse.set 0 l.credits ch (Sparse.get 0 l.credits ch + bits f 31 24) }

/-- A data flit received in order: its payload joins the packet of its channel, which is answered when whole. -/
def takeData (f : BitVec 2048) (l : Link) : Link × Option Packet :=
  let ch := 2 * bits f.toNat 34 34 + bits f.toNat 33 33
  let pay := ((flitBytes f).drop 8).take 240
  let buf := if bits f.toNat 32 32 = 1 then pay else Sparse.get [] l.inbuf ch ++ pay
  let l1 := { l with rxSeq := (l.rxSeq + 1) % 4096, fails := 0, owed := Sparse.set 0 l.owed ch (Sparse.get 0 l.owed ch + 1) }
  match bytesPacket buf with
  | some k => ({ l1 with inbuf := Sparse.set [] l1.inbuf ch [] }, some k)
  | none => ({ l1 with inbuf := Sparse.set [] l1.inbuf ch buf }, none)

/-- A flit arrives at a port (R350 to R352): the link's new state, and the packet that it completes with its channel. -/
def takeFlit (f : BitVec 2048) (l : Link) : Link × Option (Packet × Bool) :=
  let bad := fun (l : Link) =>
    if 63 ≤ l.fails then ({ l with st := .retraining, fails := 0, nak := true } : Link)
    else { l with fails := l.fails + 1, nak := true }
  if l.st ≠ .up then (l, none)
  else if !flitOk f then (bad l, none)
  else if bits f.toNat 63 60 ≠ 1 then (takeAck f.toNat l, none)
  else if bits f.toNat 59 48 ≠ l.rxSeq then ({ l with nak := true }, none)
  else
    match takeData f (takeAck f.toNat l) with
    | (l2, some k) => (l2, some (k, bits f.toNat 33 33 == 1))
    | (l2, none) => (l2, none)

/-- Answer to a packet (log 18): its code and data, with the request's ADDR, GROUP and STEP. -/
def answerTo (k : Packet) (op code : Nat) (data : List Byte) : Packet :=
  { k with op := .ofNat 8 op, flg := 0, src := k.dst, dst := k.src, payload := .ofNat 8 code :: data,
           len := .ofNat 16 (data.length + 1) }

/-- The data of an answer with a fault's code: the address, and UNIT and WHERE of a machine check (R397). -/
def badData (addr : Nat) (place : Nat × Nat) : List Byte := toBytes 8 addr ++ toBytes 1 place.1 ++ toBytes 4 place.2

/-- Kind of a collective packet (log 18). -/
def pktKind (k : Packet) : Nat := ofBytes (k.payload.take 1)

/-- What ADDR of a request names (log 18): 0 a physical address, 1 a peer address, 2 a peer row, or nothing but a place in a reduced
transfer. -/
def pktForm (k : Packet) : Nat :=
  if k.op = 5 then (if 3 ≤ pktKind k then 2 else ofBytes ((k.payload.drop 3).take 1))
  else if k.op.toNat ≤ 3 then ofBytes (k.payload.take 1) else 2

/-- The virtual address of a request that is lost, as STATX and TVAL give it: zero where it has none (R34, R360). -/
def lostAddr (k : Packet) : Nat :=
  match pktForm k with
  | 0 => ofBytes ((k.payload.drop 16).take 8)
  | 1 => k.addr.toNat
  | _ => 0

/-- A request whose way over port `q` of this package is closed: its issuer is told (R349, R352). -/
def refuseLost (q : Nat) (k : Packet) (s : State) : State :=
  if packetCls k = 0 then sendPacket (answerTo k 8 codeCheck (badData (lostAddr k) (6, q))) s else s

/-- A packet that arrived on port `p` for another package of the domain goes on (R353, R354), where the next link carries
traffic. -/
def forwardPacket (p : Nat) (vc1 : Bool) (k : Packet) (s : State) : State :=
  match firstPort s.pkgNo.toNat (packetDst k).2 with
  | some q => if linkCarries s s.pkgNo.toNat q then sendPort q (vc1 && q / 2 == p / 2) k s else refuseLost q k s
  | none => s

/-- LINK_IDLE_TIMEOUT (R352): ten µs without a valid flit while traffic is pending. -/
def execLinkIdleTimeout (port : BitVec 3) (s : State) : Host.Outcome State Fault Refusal :=
  .next (
    let l := getLink s port.toNat
    if l.st == .up && (!l.outq.isEmpty || !l.unacked.isEmpty) then setLink s port.toNat { l with st := .retraining } else s)

/-- DATAGRAM_RESEND (R374): a datagram that has waited 50 µs for its acknowledgement is sent again; the requests of one that has
been resent 64 times end, in `lost`. -/
def resendFlow (f : Nat) (lost : List Packet → State → State) (s : State) : State :=
  let v := getFlow s f
  let due := fun (d : Datagram) => decide (d.sent + 50000 ≤ devNs s)
  let again := fun (d : Datagram) => if due d then { d with sent := devNs s, resends := d.resends + 1 } else d
  lost ((v.unacked.filter fun d => due d && decide (63 ≤ d.resends)).map (·.pkt))
    (setFlow s f { v with unacked := (v.unacked.filter fun d => !(due d && decide (63 ≤ d.resends))).map again })

/-- What an acknowledgement, the next sequence number that the other end expects, leaves of a flow (R374). -/
def ackFlow (ack : Nat) (v : Flow) : Flow :=
  let d := fun (seq : Nat) => (v.txSeq + 2 ^ 32 - seq % 2 ^ 32) % 2 ^ 32
  match v.unacked with
  | [] => v
  | o :: _ => if d ack ≤ d o.seq then { v with unacked := v.unacked.filter fun x => decide (d x.seq ≤ d ack) } else v

end Sys2Proof.Machine
end

