-- ==== Sys2Proof/Machine/Comm.lean ====
section
/-! DEFINITION. The comm sequencer (R359 to R373): the CM commands, the loop walker, and what answers from other packages
and aborts do to them. A command whose peer stands in this package acts on it at once; any other sends packets and waits
for their answers. How packets say what the spec's header leaves unsaid is the model's own convention (log 18). -/
namespace Sys2Proof.Machine

/-- Core `k` in focus for the length of a step. -/
def onCore (k : Nat) (f : State → State) (s : State) : State := focus s.coreNo (f (focus k s))

/-- Position of a package core in the partition of a context (R378). -/
def ctxPos (c : Ctx) (k : Nat) : Nat := k - 16 * 2 ^ c.width * c.part

/-- A core of a resident context, running or saved (R358). -/
def ctxCore (s : State) (slot k : Nat) : Core :=
  match getCtx s slot with
  | none => Core.blank
  | some c => if liveCtx s slot c then getCore s k else Sparse.get Core.blank c.saved (ctxPos c k)

/-- A core of a resident context, replaced where it stands. -/
def putCtxCore (slot k : Nat) (v : Core) (s : State) : State :=
  match getCtx s slot with
  | none => s
  | some c =>
    if liveCtx s slot c then setCore s k v
    else setCtx s slot (some { c with saved := Sparse.set Core.blank c.saved (ctxPos c k) v })

/-- A context switch saves the row (R180). -/
def rowSaved (lm row : Nat) : Bool := lm == 0 || decide (row < lm) || decide (6096 ≤ row)

/-- `n` rows of a core as one number; an uncorrectable word with its place (R181). -/
def rowsNum (c : Core) (row n : Nat) : Except (Nat × Nat × Bool) Nat :=
  match c.badRows.find? (fun e => decide (row ≤ e.1) && decide (e.1 < row + n)) with
  | some e => .error (codeCheck, e.1 * 2 ^ 16 + e.2, true)
  | none => .ok (joinEls 4096 ((List.range n).map fun i => (getRow c (row + i)).toNat))

/-- Rows of a core written; into a saved image only where the switch saved the row (R358). -/
def putRows (live : Bool) (c : Core) : Nat → Nat → Nat → Core
  | _, 0, _ => c
  | row, n + 1, v =>
    putRows live (if live || rowSaved c.livemark row then writeRowFull c row (.ofNat 4096 (v % 2 ^ 4096)) else c) (row + 1) n
      (v / 2 ^ 4096)

/-- `n` bytes read: rows of core `k` from row `a`, or memory from virtual address `a`. -/
def plRead (slot k : Nat) (rows : Bool) (a n : Nat) (s : State) : Except (Nat × Nat × Bool) (Nat × State) :=
  if rows then (rowsNum (ctxCore s slot k) a (n / 512)).map fun v => (v, s)
  else
    match (if a % 64 = 0 ∧ n % 64 = 0 then engReadS s slot 0 (n / 64) a else engReadB s slot 0 n a) with
    | .error e => .error (e.1, e.2, false)
    | .ok v => .ok (v, touchSectors slot ((a % 64 + n + 63) / 64) (a / 64 * 64) s)

/-- `n` bytes written from any address, one access for each 64-byte sector that holds some of them, in at most `k`; at a fault,
what was written stays. -/
def putSome (slot : Nat) : Nat → Nat → Nat → Nat → State → State × Option (Nat × Nat)
  | 0, _, _, _, s => (s, none)
  | k + 1, n, va, v, s =>
    if n = 0 then (s, none)
    else
      let m := Nat.min n (64 - va % 64)
      match engStore s slot 0 va m (v % 2 ^ (8 * m)) with
      | .error e => (s, some (e, va))
      | .ok t => putSome slot k (n - m) ((va + m) % 2 ^ 64) (v / 2 ^ (8 * m)) t

/-- `n` bytes written, likewise; what was written before a fault stays. -/
def plWrite (slot k : Nat) (rows : Bool) (a n v : Nat) (s : State) : State × Option (Nat × Nat × Bool) :=
  if rows then
    let live := match getCtx s slot with | some c => liveCtx s slot c | none => false
    (putCtxCore slot k (putRows live (ctxCore s slot k) a (n / 512) v) s, none)
  else if a % 64 = 0 ∧ n % 64 = 0 then
    match putSectors slot 0 (n / 64) a v s with
    | (t, none) => (t, none)
    | (t, some e) => (t, some (e.1, e.2, false))
  else
    match putSome slot (n / 64 + 2) n a v s with
    | (t, none) => (t, none)
    | (t, some e) => (t, some (e.1, e.2, false))

/-- ATOM's access at a home (R304, R363): the old value. -/
def atomAt (slot va n op v e : Nat) (s : State) : Except Nat (Nat × State) :=
  match translate s slot va .atomic with
  | .error x => .error x
  | .ok lf =>
    match keyFor s slot 0 lf with
    | .error x => .error x
    | .ok _ =>
      let pa := physOf lf va
      if !sectorsOk s pa n then .error codeCheck
      else
        let old := memNum s pa n
        let t := touch s slot va pa
        .ok (old, match atomNew op n old (v % 2 ^ (8 * n)) (e % 2 ^ (8 * n)) with | some x => storeNum t 0 va pa n x | none => t)

/-- What ADDR of a request names, as its payload says (log 18): 0 a physical address, 1 a peer address, 2 a peer row. -/
def formOf (rows : Bool) : Nat := if rows then 2 else 1

/-- The payload of a read, a write or an atomic: 24 bytes of what ADDR names, and of page attributes where that is a physical
address; then the data (log 18). -/
def reqData (rows : Bool) (data : List Byte) : List Byte := toBytes 24 (formOf rows) ++ data

/-- A packet of the focused core's context; of one that is no collective transfer, STEP holds the ring sequence number of its entry
(log 91). -/
def mkPacket (s : State) (op group dst : Nat) (addr : Word) (step : Nat) (payload : List Byte) : Packet :=
  { op := .ofNat 8 op, flg := 0, group := .ofNat 16 group, job := .ofNat 32 (((engSlot s).bind (getCtx s)).elim 0 (·.job)),
    src := .ofNat 32 (peerId s s.coreNo), dst := .ofNat 32 dst, addr := addr, step := .ofNat 48 step,
    len := .ofNat 16 payload.length, payload := payload }

/-- The way to a peer carries traffic; flows to other domains always do (R349, R374). -/
def peerReach (s : State) (p : Peer) : Bool := p.dom != s.domNo.toNat || reachable s p.pkg

/-- Ring sequence number of the entry that begins next. -/
def nextSeq (s : State) : Word := (getRing s.core 3).rseq + .ofNat 64 (nextIndex (getRing s.core 3))

/-- The entry stands begun, waiting for answers; `trans` while it has not finished translating (R310). -/
def cmBusy (m : Cmd) (puts trans : Bool) (s : State) : State :=
  addResult 3 { code := 0, detail := 0, statx := 0, tag := 0, rtl := m.rtl.toNat, fills := [], busy := true, posted := false,
                puts := puts, trans := trans } s

/-- The begun CM entry with ring sequence number `seq` still translates, or does so no more (R310). -/
def markTrans (seq : Word) (b : Bool) (c : Core) : Core :=
  let g := getRing c 3
  setRing c 3 { g with results := g.results.mapIdx fun i r => if seq = g.rseq + .ofNat 64 i then { r with trans := b } else r }

/-- The entry has run to its end. -/
def cmDone (m : Cmd) (puts : Bool) (detail : Nat) (statx : Word) (s : State) : State :=
  addResult 3 { code := 0, detail := detail, statx := statx, tag := 0, rtl := m.rtl.toNat, fills := [], busy := false,
                posted := false, puts := puts } s

/-- A begun CM entry that waited ends with a code, and with it what waited for it; the record of an NCOLL stays for a kill
(R399). -/
def finishCm (seq : Word) (code detail : Nat) (statx : Word) (c : Core) : Core :=
  let g := getRing c 3
  let i := (seq - g.rseq).toNat
  let c1 := { c with walkers := c.walkers.filter (fun w => w.seq != seq), cmwait := c.cmwait.filter (fun w => w.seq != seq) }
  match g.results[i]? with
  | none => c1
  | some r =>
    let r1 := { r with code := code, detail := detail, statx := statx, busy := false, trans := false, rtl := if code = 0 then r.rtl else 0,
                       coll := (c.walkers.find? fun w => w.seq == seq).map (·.record) }
    setRing c1 3 { g with results := g.results.set i r1 }

/-- UNIT and WHERE of a request that does not get to a package of a domain: the link of its route that carries no traffic, or
the Ethernet port of its flow (R352, R374, R397). -/
def lostPlace (s : State) (dom pkg : Nat) : Nat × Nat :=
  if dom = s.domNo.toNat then (6, ((deadHop s 6 s.pkgNo.toNat pkg).getD (0, 0)).2)
  else (6, 8 + (Config.ethPort (flowNo dom pkg 0)).toNat)

/-- A command to a peer that no route reaches completes with MACHINE_CHECK (R349, R352). -/
def cmLost (p : Peer) (statx : Word) (s : State) : State :=
  endBad 3 codeCheck 0 statx (logStop 6 (lostPlace s p.dom p.pkg).2 s)

/-- A command waits for the answers to packets, which `out` carries. Until the last answer, none of the later entries of the ring
moves data: any answer may show that the command stops, or bring what stands in co before theirs (R296, R310; log 26). -/
def cmSendBy (m : Cmd) (puts repeatable raised : Bool) (detail : Nat) (l todo : List (Nat × Packet)) (after out : List Packet)
    (s : State) : State :=
  let w : CmWait :=
    { seq := nextSeq s, sent := l, waiting := l, todo := todo, after := after, detail := detail, repeatable := repeatable,
      raised := raised }
  let t := cmBusy m puts true s
  sendAll out (withCore t { t.core with cmwait := t.core.cmwait ++ [w] })

/-- Packets sent by a command, which then waits for their answers: eight at a time are in flight (R361). -/
def cmSend (m : Cmd) (puts repeatable : Bool) (detail : Nat) (l : List (Nat × Packet)) (after : List Packet) (s : State) :
    State := cmSendBy m puts repeatable false detail (l.take 8) (l.drop 8) after ((l.take 8).map (·.2)) s

/-- NPUT within the package: rows in ascending order. -/
def nputRun (slot k : Nat) (dk : Bool) : Nat → Nat → Nat → State → State × Option (Nat × Nat × Bool)
  | 0, _, _, s => (s, none)
  | n + 1, lrow, p, s =>
    match plRead slot s.coreNo true lrow 512 s with
    | .error e => (s, some e)
    | .ok (v, t) =>
      match plWrite slot k (!dk) p 512 v t with
      | (u, some e) => (u, some e)
      | (u, none) => nputRun slot k dk n (lrow + 1) (if dk then (p + 512) % 2 ^ 64 else p + 1) u

/-- NGET within the package. -/
def ngetRun (slot k : Nat) (dk : Bool) : Nat → Nat → Nat → State → State × Option (Nat × Nat × Bool)
  | 0, _, _, s => (s, none)
  | n + 1, lrow, p, s =>
    match plRead slot k (!dk) p 512 s with
    | .error e => (s, some e)
    | .ok (v, t) =>
      match plWrite slot s.coreNo true lrow 512 v t with
      | (u, some e) => (u, some e)
      | (u, none) => ngetRun slot k dk n (lrow + 1) (if dk then (p + 512) % 2 ^ 64 else p + 1) u

/-- The fields of NPUT and NGET, none when they are ILLEGAL (R360, R361): first local row, rows, DK, peer. -/
def putFields (m : Cmd) : Option (Nat × Nat × Bool × Peer) :=
  let a := m.arg.toNat
  let lrow := bits a 39 27
  let n := bits a 26 20 + 1
  let dk := bits a 19 19 == 1
  match peerOf m.p0.toNat with
  | none => none
  | some p =>
    if bits a 18 0 ≠ 0 ∨ m.p2 ≠ 0 ∨ m.p3 ≠ 0 ∨ 6144 < lrow + n ∨ (!dk ∧ (8192 ≤ m.p1.toNat ∨ 6096 < m.p1.toNat + n)) ∨
        (dk ∧ (p.core ≠ 0 ∨ m.p1.toNat % 64 ≠ 0)) then none
    else some (lrow, n, dk, p)

/-- A stop inside the package: a fault, or an uncorrectable row (R360, R181). -/
def cmBad (slot : Nat) (e : Nat × Nat × Bool) (s0 s : State) : State := ownBad 3 1 slot 0 e s0 s

/-- Peer core in the partition of a context of this package (R360). -/
def corePeerOk (s : State) (slot k : Nat) : Bool := match getCtx s slot with | some c => inPart c k | none => false

/-- NPUT (R361). -/
def effNput (m : Cmd) (slot : Nat) (s : State) : State :=
  match putFields m with
  | none => illegal 3 s
  | some (lrow, n, dk, p) =>
    if peerHere s p then
      if !dk && !corePeerOk s slot p.core then illegal 3 s
      else
        match nputRun slot p.core dk n lrow m.p1.toNat s with
        | (t, some e) => cmBad slot e s t
        | (t, none) => cmDone m true (512 * n) 0 t
    else if !peerReach s p then cmLost p (if dk then m.p1 else 0) s
    else
      match rowsNum s.core lrow n with
      | .error e => cmBad slot e s s
      | .ok _ =>
        cmSend m true true (512 * n) ((List.range n).map fun i =>
          (0, mkPacket s 2 0 m.p0.toNat (.ofNat 64 (m.p1.toNat + (if dk then 512 * i else i))) (nextSeq s).toNat
            (reqData (!dk) (toBytes 512 (getRow s.core (lrow + i)).toNat)))) [] s
/-- NPUT on the CM ring. -/
def execNput (c : Cmd) (s : State) : Host.Outcome State Fault Refusal := .next (engineGo 3 c (effNput c) s)

/-- NGET (R361). -/
def effNget (m : Cmd) (slot : Nat) (s : State) : State :=
  match putFields m with
  | none => illegal 3 s
  | some (lrow, n, dk, p) =>
    if peerHere s p then
      if !dk && !corePeerOk s slot p.core then illegal 3 s
      else
        match ngetRun slot p.core dk n lrow m.p1.toNat s with
        | (t, some e) => cmBad slot e s t
        | (t, none) => cmDone m false (512 * n) 0 t
    else if !peerReach s p then cmLost p (if dk then m.p1 else 0) s
    else
      cmSend m false true (512 * n) ((List.range n).map fun i =>
        (lrow + i, mkPacket s 1 0 m.p0.toNat (.ofNat 64 (m.p1.toNat + (if dk then 512 * i else i))) (nextSeq s).toNat
          (reqData (!dk) (toBytes 4 512)))) [] s
/-- NGET on the CM ring. -/
def execNget (c : Cmd) (s : State) : Host.Outcome State Fault Refusal := .next (engineGo 3 c (effNget c) s)

/-- An earlier NPUT or NATOM of the ring has not completed (R311, R362). -/
def putsPending (c : Core) : Bool := (aheadOf (getRing c 3)).any fun r => r.puts && !r.posted

/-- A timeline TL5 to TL7 of a core of a context raised (R358, R362). -/
def raiseOn (slot k tls n : Nat) (s : State) : State := putCtxCore slot k (raiseTl (ctxCore s slot k) (4 + tls) n) s

/-- ADDR of a signal (log 18). -/
def addrSig (tls n : Nat) : Word := .ofNat 64 (pack [(2, tls), (9, n), (53, 0)])

/-- NSIG (R362). -/
def effNsig (m : Cmd) (slot : Nat) (s : State) : State :=
  let a := m.arg.toNat
  let tls := bits a 39 38
  let n := bits a 37 30 + 1
  match peerOf m.p0.toNat with
  | none => illegal 3 s
  | some p =>
    if bits a 29 0 ≠ 0 ∨ tls = 0 ∨ m.p1 ≠ 0 ∨ m.p2 ≠ 0 ∨ m.p3 ≠ 0 ∨ (peerHere s p ∧ !corePeerOk s slot p.core) then illegal 3 s
    else if putsPending s.core then holdEntry s
    else if peerHere s p then cmDone m false 0 0 (raiseOn slot p.core tls n s)
    else if !peerReach s p then cmLost p 0 s
    else cmSend m false false 0 [(0, mkPacket s 4 0 m.p0.toNat (addrSig tls n) (nextSeq s).toNat [])] [] s
/-- NSIG on the CM ring. -/
def execNsig (c : Cmd) (s : State) : Host.Outcome State Fault Refusal := .next (engineStart 3 c (effNsig c) s)

/-- NATOM (R363). -/
def effNatom (m : Cmd) (slot : Nat) (s : State) : State :=
  let a := m.arg.toNat
  let op := bits a 39 36
  let n := if bits a 35 35 = 1 then 8 else 4
  match peerOf m.p0.toNat with
  | none => illegal 3 s
  | some p =>
    if bits a 34 0 ≠ 0 ∨ 10 ≤ op ∨ p.core ≠ 0 ∨ m.p1.toNat % n ≠ 0 ∨ (op ≠ 5 ∧ m.p3 ≠ 0) then illegal 3 s
    else if peerHere s p then
      match atomAt slot m.p1.toNat n op m.p2.toNat m.p3.toNat s with
      | .error e => memBad 3 slot (e, m.p1.toNat) 0 s s
      | .ok (old, t) => cmDone m true 0 (.ofNat 64 old) t
    else if !peerReach s p then cmLost p m.p1 s
    else
      cmSend m true false 0 [(0, mkPacket s 3 0 m.p0.toNat m.p1 (nextSeq s).toNat
        (reqData false (toBytes 18 (pack [(8, op), (8, n), (64, m.p2.toNat), (64, m.p3.toNat)]))))] [] s
/-- NATOM on the CM ring. -/
def execNatom (c : Cmd) (s : State) : Host.Outcome State Fault Refusal := .next (engineGo 3 c (effNatom c) s)

/-- A collective record (R364). -/
structure Coll where
  group : Nat
  kind : Nat
  ety : Nat
  rop : Nat
  nlev : Nat
  sk : Nat
  dk : Nat
  len : Nat
  gsize : Nat
  rank : Nat
  p0 : Nat
  pself : Int
  sbase : Nat
  dbase : Nat
  mtab : Nat
  stl : Nat
  /-- COUNT, SSTR, DSTR and PC of the levels in use, innermost first -/
  levels : List (Nat × Int × Int × Int)
deriving DecidableEq, Repr

/-- Little-endian field of a record. -/
def recF (r : Row) (o n : Nat) : Nat := rowBytes r o n

/-- The fields of a record. -/
def collOf (r : Row) : Coll :=
  { group := recF r 0 2, kind := recF r 2 1, ety := recF r 3 1, rop := recF r 4 1, nlev := recF r 5 1, sk := recF r 6 1,
    dk := recF r 7 1, len := recF r 8 4, gsize := recF r 12 4, rank := recF r 16 4, p0 := recF r 20 4,
    pself := signed 32 (recF r 24 4), sbase := recF r 32 8, dbase := recF r 40 8, mtab := recF r 48 8, stl := recF r 56 1,
    levels := (List.range (Nat.min 4 (recF r 5 1))).map fun l =>
      (recF r (64 + 32 * l) 4, signed 64 (recF r (68 + 32 * l) 8), signed 64 (recF r (76 + 32 * l) 8),
        signed 32 (recF r (84 + 32 * l) 4)) }

/-- Least and greatest value of an affine address over the iterations (R210). -/
def affine (base : Nat) (l : List (Nat × Int)) : Int × Int :=
  l.foldl (fun b e =>
    let d := e.2 * ((e.1 : Int) - 1)
    (b.1 + min 0 d, b.2 + max 0 d)) ((base : Int), (base : Int))

/-- Rows `n` at a time from an affine row stay within `lim` (R364). -/
def rowsFit (base n lim : Nat) (l : List (Nat × Int)) : Bool :=
  let b := affine base l
  decide (0 ≤ b.1) && decide (b.2 + n ≤ lim)

/-- The record keeps the rules of R364. -/
def collOk (r : Row) (c : Coll) : Bool :=
  let red := c.kind == 1 || c.kind == 3
  decide (1 ≤ c.group) && decide (c.kind ≤ 3) && (if red then [4, 10, 11, 12, 13].contains c.ety else c.ety == 0) &&
    (if red then decide (c.rop ≤ 2) else c.rop == 0) && decide (1 ≤ c.nlev) && decide (c.nlev ≤ 4) && decide (c.sk ≤ 1) &&
    decide (c.dk ≤ 1) && decide (64 ≤ c.len) && decide (c.len ≤ 1048576) &&
    c.len % (if c.sk = 0 ∨ c.dk = 0 then 512 else 64) == 0 && decide (1 ≤ c.gsize) && decide (c.gsize ≤ 2 ^ 20) &&
    decide (c.rank < c.gsize) && recF r 28 4 == 0 && c.mtab % 4 == 0 && decide (c.stl ≤ 3) &&
    (decide (c.kind ≤ 1) || c.stl == 0) && recF r 57 7 == 0 && c.levels.all (fun l => decide (1 ≤ l.1)) &&
    ((List.range c.nlev).all fun l => recF r (88 + 32 * l) 8 == 0) &&
    r.toNat / 2 ^ (8 * (64 + 32 * c.nlev)) == 0 &&
    (c.sk == 1 || rowsFit c.sbase (c.len / 512) 6144 (c.levels.map fun l => (l.1, l.2.1))) &&
    (c.dk == 1 || rowsFit c.dbase (c.len / 512) (if c.kind = 3 then 6144 else 6096) (c.levels.map fun l => (l.1, l.2.2.1)))

/-- Iterations of a record (R365). -/
def collTotal (c : Coll) : Nat := c.levels.foldl (fun n l => n * l.1) 1

/-- Index tuple of an iteration counted from zero, i0 first. -/
def collIdx : List (Nat × Int × Int × Int) → Nat → List Nat
  | [], _ => []
  | l :: r, n => n % l.1 :: collIdx r (n / l.1)

/-- A sum of strides times indices. -/
def dot (l : List Int) (idx : List Nat) : Int := (List.zipWith (fun a (i : Nat) => a * (i : Int)) l idx).foldl (· + ·) 0

/-- Rank, source and destination of iteration `n` (R365). -/
def collStep (c : Coll) (n : Nat) : Nat × Nat × Nat :=
  let i := collIdx c.levels (n - 1)
  ((((c.p0 : Int) + c.pself * c.rank + dot (c.levels.map (·.2.2.2)) i) % (c.gsize : Int)).toNat,
    wrapTo 64 ((c.sbase : Int) + dot (c.levels.map (·.2.1)) i), wrapTo 64 ((c.dbase : Int) + dot (c.levels.map (·.2.2.1)) i))

/-- combine on one element (R365; log 19). -/
def combEl (ety rop x y : Nat) : Nat :=
  if ety = 4 then
    match rop with
    | 0 => (x + y) % 2 ^ 32
    | 1 => if signed 32 y < signed 32 x then y else x
    | _ => if signed 32 x < signed 32 y then y else x
  else if rop = 0 then (fAdd (fmtOf ety) .rne false x y).1
  else fMinMax (fmtOf ety) (rop == 2) x y

/-- combine on `n` bytes. -/
def combNum (ety rop n x y : Nat) : Nat :=
  let b := cvtBits ety
  joinEls b (List.zipWith (combEl ety rop) (splitEls b (8 * n / b) x) (splitEls b (8 * n / b) y))

/-- Every page of `n` bytes from a virtual address takes an atomic access (R141, R286): none with a tolerant kind does. -/
def atomicPages (s : State) (slot n va : Nat) : Except (Nat × Nat) Unit :=
  match engCheck s slot 0 .atomic 1 va with
  | .error e => .error e
  | .ok _ => engCheck s slot 0 .atomic ((va % 64 + n + 63) / 64 - 1) ((va / 64 * 64 + 64) % 2 ^ 64)

/-- A collective write at a destination of this package: PUT, or PUTRED's combine, an atomic read-modify-write of each sector
(R141, R365). -/
def collWrite (slot k kind ety rop : Nat) (rows : Bool) (a n v : Nat) (s : State) : State × Option (Nat × Nat × Bool) :=
  if kind = 1 then
    match (if rows then .ok () else atomicPages s slot n a) with
    | .error e => (s, some (e.1, e.2, false))
    | .ok _ =>
      match plRead slot k rows a n s with
      | .error e => (s, some e)
      | .ok (old, t) => plWrite slot k rows a n (combNum ety rop n old v) t
  else plWrite slot k rows a n v s

def getGroup (c : Core) (g : Nat) : Group := Sparse.get Group.fresh c.groups g
def setGroup (c : Core) (g : Nat) (v : Group) : Core := { c with groups := Sparse.set Group.fresh c.groups g v }

/-- A group is aborted on a core, whose thread gets its one trap when `trap` (R371). -/
def markAbort (g a : Nat) (trap : Bool) (c : Core) : Core :=
  let v := getGroup c g
  let c1 := setGroup c g { v with frozen := true, aborted := some a, trapped := v.trapped || trap }
  if trap && !v.trapped then { c1 with abortPend := c1.abortPend ++ [.ofNat 64 (g * 2 ^ 48 + a % 2 ^ 48)] } else c1

/-- The NCOLLs of a group stop with ABORT (R371). -/
def stopColls (g a : Nat) (c : Core) : Core :=
  (c.walkers.filter (fun w => recF w.record 0 2 == g)).foldl (fun c w => finishCm w.seq codeAbort (g * 2 ^ 32) (.ofNat 64 a) c) c

/-- A member core receives ABORT (R371); the issuer traps only when one of its own NCOLLs stops. -/
def abortCore (g a : Nat) (issuer : Bool) (c : Core) : Core :=
  if (getGroup c g).aborted.isSome then c
  else markAbort g a (!issuer || c.walkers.any (fun w => recF w.record 0 2 == g)) (stopColls g a c)

/-- STEP of a walker: every transfer up to it has completed (R365). -/
def walkerStep (w : Walker) : Nat :=
  (w.waiting.map (·.1) ++ w.refused.toList).foldl Nat.min w.next - 1

/-- A waiting packet stands for a part that the walker expects, rather than for a sent packet (R367). -/
def isMark (e : Nat × Packet) : Bool := e.2.op == 5 && e.2.src == e.2.dst

/-- No later entry of the ring moves data: the walker has steps to issue, a packet of its own unanswered, or a result to come that
will land at addresses of its own (R296, R310, R365; log 26). -/
def collXlat (w : Walker) : Bool :=
  let c := collOf w.record
  decide (w.next ≤ collTotal c) || w.waiting.any fun e => !isMark e || (c.kind == 3 && c.dk == 1)

/-- The walker's progress recorded, and its command completed after the last transfer (R365, R366). -/
def settle (w : Walker) (c : Core) : Core :=
  let r := collOf w.record
  let c1 := { c with walkers := c.walkers.map fun x => if x.seq == w.seq then w else x }
  let c2 := markTrans w.seq (collXlat w) (setGroup c1 r.group { getGroup c1 r.group with step := walkerStep w })
  if collTotal r < w.next ∧ w.waiting = [] ∧ w.refused = none then finishCm w.seq 0 (walkerStep w % 2 ^ 48) 0 c2 else c2

/-- NCOLL (R364, R367, R371): the record is read and checked, and the walker stands at its first iteration. The counters of a group
that has received STOP are frozen. -/
def effNcoll (m : Cmd) (slot : Nat) (s : State) : State :=
  let a := m.arg.toNat
  let row := bits a 39 27
  let fb := bits a 26 26 == 1
  if bits a 25 0 ≠ 0 ∨ m.p0 ≠ 0 ∨ m.p1 ≠ 0 ∨ m.p2 ≠ 0 ∨ m.p3 ≠ 0 ∨ 6144 ≤ row then illegal 3 s
  else
    match rowsNum s.core row 1 with
    | .error e => cmBad slot e s s
    | .ok _ =>
      let r := getRow s.core row
      let c := collOf r
      let tr := (getCtx s slot).elim 0 (·.transport.toNat)
      if !collOk r c ∨ (c.kind = 3 ∧ tr / 4 = 0 ∧ !fb) then illegal 3 s
      else if c.kind = 3 ∧ tr = 5 ∧ !fb then endBad 3 codeOpaque 0 0 s
      else
        match (getGroup s.core c.group).aborted with
        | some x =>
          let t := endBad 3 codeAbort (c.group * 2 ^ 32) (.ofNat 64 x) s
          withCore t (markAbort c.group x true t.core)
        | none =>
          let w : Walker := { seq := nextSeq s, record := r, next := 1, waiting := [], refused := none }
          let t := cmBusy m false true s
          let g := getGroup t.core c.group
          withCore t (setGroup { t.core with walkers := t.core.walkers ++ [w] } c.group
            { g with step := if g.frozen then g.step else 0 })
/-- NCOLL on the CM ring. -/
def execNcoll (c : Cmd) (s : State) : Host.Outcome State Fault Refusal := .next (engineGo 3 c (effNcoll c) s)

/-- A peer id of a table of 4-byte ids in memory; an error is a fault, or ILLEGAL for an id that is none (R359, R365). -/
def tablePeer (slot mtab rank : Nat) (s : State) : Except (Nat × Nat) Peer :=
  let va := (mtab + 4 * rank) % 2 ^ 64
  match engLoad s slot 0 va 4 with
  | .error e => .error (e, va)
  | .ok x => match peerOf x with | some p => .ok p | none => .error (codeIllegal, 0)

/-- What reading `n` bytes of a table from `va` on does to the banks, sector by sector, up to where an error `e` ends it: a fault,
whose own sector what stops the command reaches, or an entry that breaks a rule, which the model takes to be found once the whole
table is read (R263 to R265, R273; log 89). -/
def tableTouch (slot va n : Nat) (e : Option (Nat × Nat)) (s : State) : State :=
  let k := match e with
    | some e => if e.1 = codeIllegal then (va % 64 + n + 63) / 64 else e.2 / 64 - va / 64
    | none => (va % 64 + n + 63) / 64
  touchSectors slot k (va / 64 * 64) s

/-- The error that a reading ended in. -/
def errOf {α : Type} (r : Except (Nat × Nat) α) : Option (Nat × Nat) :=
  match r with
  | .error e => some e
  | .ok _ => none

/-- The id of a peer. -/
def Peer.id (p : Peer) : Nat := p.dom * 2 ^ 16 + p.pkg * 2 ^ 8 + p.core

/-- Bytes of a piece of a transfer that one packet does not hold (R377): whole rows (log 18). -/
def pieceLen : Nat := 65024

/-- The pieces of `n` bytes, offset and length: one as long as a packet holds them (R377). -/
def pieces (n : Nat) : List (Nat × Nat) :=
  if n ≤ 65535 then [(0, n)]
  else (List.range ((n + pieceLen - 1) / pieceLen)).map fun i => (i * pieceLen, Nat.min pieceLen (n - i * pieceLen))

/-- A collective packet: its kind (0 to 2 of R364; 3 a partial and 4 a final result of a reduction), ETYPE and ROP, what ADDR
names, the offset in the transfer, and the data or, for GET, the length (log 18). -/
def collPacket (s : State) (c : Coll) (p : Peer) (n kind off a : Nat) (data : List Byte) : Packet :=
  mkPacket s 5 c.group p.id (.ofNat 64 a) n
    (toBytes 8 (pack [(8, kind), (8, c.ety), (8, c.rop), (8, formOf (c.dk == 0)), (32, off)]) ++ data)

/-- A peer's address of piece `off` of a transfer to `d`. -/
def pieceAddr (rows : Bool) (d off : Nat) : Nat := if rows then d + off / 512 else (d + off) % 2 ^ 64

/-- Bytes `off` to `off + n − 1` of a number. -/
def numPiece (v off n : Nat) : Nat := v / 2 ^ (8 * off) % 2 ^ (8 * n)

/-- The command of walker `w` of the focused core stops (R35); where an address of its own must wait for another package, nothing of
the step has happened, in `s0`, and it is made again (R357). -/
def walkerBad (w : Walker) (slot : Nat) (e : Nat × Nat × Bool) (s0 s : State) : State :=
  if e.1 = codeRetry then s0
  else if e.2.2 then logStop 1 e.2.1 (withCore s (finishCm w.seq codeCheck 0 0 s.core))
  else
    let t := if e.1 = codeCheck then logMem slot e.2.1 (touchVa slot e.2.1 s)
             else if e.1 = codeIllegal then s else touchWalk s slot e.2.1
    withCore t (finishCm w.seq e.1 0 (if e.1 = codeIllegal then 0 else .ofNat 64 e.2.1) t.core)

/-- A transfer whose destination stands in this package. A member whose group is frozen refuses it (R370). -/
def stepHere (slot : Nat) (c : Coll) (p : Peer) (a d : Nat) (s : State) : State × Option (Nat × Nat × Bool) :=
  if (getGroup (ctxCore s slot p.core) c.group).frozen then (s, some (codeAbort, 0, false))
  else if c.kind = 2 then
    match plRead slot p.core (c.dk == 0) d c.len s with
    | .error e => (s, some e)
    | .ok (v, t) => plWrite slot s.coreNo (c.sk == 0) a c.len v t
  else
    match plRead slot s.coreNo (c.sk == 0) a c.len s with
    | .error e => (s, some e)
    | .ok (v, t) =>
      match collWrite slot p.core c.kind c.ety c.rop (c.dk == 0) d c.len v t with
      | (u, some e) => (u, some e)
      | (u, none) => (if c.stl = 0 then u else raiseOn slot p.core c.stl 1 u, none)

/-- The packets of a transfer to another package. -/
def stepPackets (slot : Nat) (c : Coll) (p : Peer) (n a d : Nat) (s : State) : Except (Nat × Nat × Bool) (List Packet × State) :=
  if c.kind = 2 then
    .ok ((pieces c.len).map (fun q =>
      collPacket s c p n 2 q.1 (pieceAddr (c.dk == 0) d q.1) (toBytes 4 q.2)), s)
  else
    (plRead slot s.coreNo (c.sk == 0) a c.len s).map fun v =>
      ((pieces c.len).map (fun q =>
        collPacket s c p n c.kind q.1 (pieceAddr (c.dk == 0) d q.1) (toBytes q.2 (numPiece v.1 q.1 q.2))),
        v.2)

/-- The walker's expectation of a part of its own: 3 a partial result, 4 the result. -/
def markPart (s : State) (c : Coll) (n kind off : Nat) : Nat × Packet :=
  (n, collPacket s c { dom := s.domNo.toNat, pkg := s.pkgNo.toNat, core := s.coreNo } n kind off off [])

/-- A step of a walker is refused by a member (R370): it never completes, and nothing more is expected of it. -/
def refuseStep (n : Nat) (w : Walker) : Walker :=
  { w with waiting := w.waiting.filter (fun x => !(isMark x && x.1 == n)), refused := some (w.refused.elim n (Nat.min n)) }

/-- A result piece, or a partial one, for a member (R367): into its core in this package, unless it lies outside the partition or
refuses (R360, R370); or sent, and then the packet that its acknowledgement answers. -/
def sendPart (slot : Nat) (c : Coll) (n off : Nat) (result : Bool) (data : List Byte) (p : Peer) (s : State) :
    State × List (Nat × Packet) × Option Nat :=
  if peerHere s p then
    let k := ctxCore s slot p.core
    if !corePeerOk s slot p.core then (s, [], some codeIllegal)
    else if (getGroup k c.group).frozen then (s, [], some codeAbort)
    else (putCtxCore slot p.core { k with chain := k.chain ++
           [{ result := result, group := c.group, step := n, off := off, data := data }] } s, [], none)
  else
    let k := collPacket s c p n (if result then 4 else 3) off off data
    (sendPacket k s, [(n, k)], none)

/-- Parts to several members: every packet sent, and the code of a refusal. -/
def sendParts (slot : Nat) (c : Coll) (n : Nat) (result : Bool) :
    List (Nat × List Byte × Peer) → State → State × List (Nat × Packet) × Option Nat
  | [], s => (s, [], none)
  | x :: r, s =>
    match sendPart slot c n x.1 result x.2.1 x.2.2 s with
    | (t, l, e) => match sendParts slot c n result r t with | (u, m, f) => (u, l ++ m, e.or f)

/-- A walker whose step has sent parts: they are awaited, a refusal leaves the step incomplete, and ILLEGAL stops the command. -/
def afterParts (slot n : Nat) (w : Walker) (o : State × List (Nat × Packet) × Option Nat) : State :=
  let v := { w with waiting := w.waiting ++ o.2.1 }
  match o.2.2 with
  | none => withCore o.1 (settle v o.1.core)
  | some e => if e = codeAbort then withCore o.1 (settle (refuseStep n v) o.1.core) else walkerBad w slot (e, 0, false) o.1 o.1

/-- Every peer of a member table. -/
def tablePeers (slot mtab : Nat) (s : State) : Nat → Nat → Except (Nat × Nat) (List Peer)
  | 0, _ => .ok []
  | n + 1, k =>
    match tablePeer slot mtab k s with
    | .error e => .error e
    | .ok p => (tablePeers slot mtab s n (k + 1)).map fun l => p :: l

/-- What reading a member table does to the banks. -/
def peersTouch (slot mtab n : Nat) (s : State) : State := tableTouch slot mtab (4 * n) (errOf (tablePeers slot mtab s n 0)) s

/-- The switches reduce: granted by the transport record, and every other member stands beyond the domain (R367). -/
def inSwitch (s : State) (slot : Nat) (c : Coll) (l : List Peer) : Bool :=
  let tr := (getCtx s slot).elim 0 (·.transport.toNat)
  (tr == 4 || tr == 6 || tr == 7) &&
    (l.zipIdx.all fun p => p.2 == c.rank || p.1.dom != s.domNo.toNat)

/-- A SWRED step issues (R367): rank 0 of a chain sends its pieces on, every other member waits for a partial or, in a
switched reduction, for the result. -/
def stepSwred (slot : Nat) (w : Walker) (c : Coll) (a d : Nat) (s : State) : State :=
  let n := w.next
  let s1 := peersTouch slot c.mtab c.gsize s
  match tablePeers slot c.mtab s c.gsize 0 with
  | .error e => walkerBad w slot (e.1, e.2, false) s s1
  | .ok l =>
    match plRead slot s.coreNo (c.sk == 0) a c.len s1 with
    | .error e => walkerBad w slot e s s1
    | .ok (v, t) =>
      let mark := fun (kind : Nat) => (pieces c.len).map fun q => markPart s c n kind q.1
      if c.gsize = 1 then
        match plWrite slot s.coreNo (c.dk == 0) d c.len v t with
        | (u, some e) => walkerBad w slot e s u
        | (u, none) => withCore u (settle { w with next := n + 1 } u.core)
      else if inSwitch s slot c l then
        match l[(c.rank + 1) % c.gsize]? with
        | none => s
        | some p =>
          let l := (pieces c.len).map fun q =>
            { collPacket t c p n 3 q.1 q.1 (toBytes q.2 (numPiece v q.1 q.2)) with flg := 1 }
          let u := sendAll l t
          withCore u (settle { w with next := n + 1, waiting := w.waiting ++ mark 4 ++ l.map fun k => (n, k) } u.core)
      else if c.rank = 0 then
        match l[1]? with
        | none => s
        | some p =>
          afterParts slot n { w with next := n + 1, waiting := w.waiting ++ mark 4 }
            (sendParts slot c n false ((pieces c.len).map fun q => (q.1, toBytes q.2 (numPiece v q.1 q.2), p)) t)
      else withCore t (settle { w with next := n + 1, waiting := w.waiting ++ mark 3 } t.core)

/-- The walker issues its next transfer (R365). -/
def walkerIssue (slot : Nat) (w : Walker) (s : State) : State :=
  let c := collOf w.record
  let n := w.next
  let x := collStep c n
  if c.kind = 3 then stepSwred slot w c x.2.1 x.2.2 s
  else
    let s0 := s
    let s := tableTouch slot ((c.mtab + 4 * x.1) % 2 ^ 64) 4 (errOf (tablePeer slot c.mtab x.1 s0)) s0
    match tablePeer slot c.mtab x.1 s0 with
    | .error e => walkerBad w slot (e.1, e.2, false) s0 s
    | .ok p =>
      if peerHere s p then
        if !corePeerOk s slot p.core then walkerBad w slot (codeIllegal, 0, false) s0 s
        else
          match stepHere slot c p x.2.1 x.2.2 s with
          | (t, some e) =>
            if e.1 = codeAbort then withCore t (settle (refuseStep n { w with next := n + 1 }) t.core) else walkerBad w slot e s0 t
          | (t, none) => withCore t (settle { w with next := n + 1 } t.core)
      else if !peerReach s p then
        let t := logStop 6 (lostPlace s p.dom p.pkg).2 s
        withCore t (finishCm w.seq codeCheck 0 (if c.dk = 1 then .ofNat 64 x.2.2 else 0) t.core)
      else
        match stepPackets slot c p n x.2.1 x.2.2 s with
        | .error e => walkerBad w slot e s0 s
        | .ok (l, t) =>
          let u := sendAll l t
          withCore u (settle { w with next := n + 1, waiting := w.waiting ++ l.map (fun k => (n, k)) } u.core)

/-- Offset of a collective packet in its transfer. -/
def pktOff (k : Packet) : Nat := ofBytes ((k.payload.drop 4).take 4)

/-- A part of a reduction that has arrived for a waiting piece of walker `w` (R367). -/
def partFor (c : Core) (w : Walker) : Option ((Nat × Packet) × ChainPart) :=
  w.waiting.findSome? fun e =>
    if !isMark e then none
    else (c.chain.find? fun q => q.group == recF w.record 0 2 && q.step == e.1 && q.off == pktOff e.2 &&
      q.result == (pktKind e.2 == 4)).map fun q => (e, q)

/-- The part is used: a result lands, and with it what was given to the switches is acknowledged; a partial is combined and goes
on, and the last member hands out the result. -/
def usePart (slot : Nat) (w : Walker) (e : Nat × Packet) (q : ChainPart) (s : State) : State :=
  let c := collOf w.record
  let n := e.1
  let x := collStep c n
  let t := withCore s { s.core with chain := s.core.chain.erase q }
  let len := q.data.length
  let left := w.waiting.erase e
  let land := fun (v : Nat) (u : State) => plWrite slot u.coreNo (c.dk == 0) (pieceAddr (c.dk == 0) x.2.2 q.off) len v u
  if q.result then
    match land (ofBytes q.data) t with
    | (u, some b) => walkerBad w slot b s u
    | (u, none) =>
      withCore u (settle { w with waiting := left.filter fun y => !(y.2.flg == 1 && y.1 == n && pktOff y.2 == q.off) } u.core)
  else
    match plRead slot s.coreNo (c.sk == 0) (pieceAddr (c.sk == 0) x.2.1 q.off) len t with
    | .error b => walkerBad w slot b s t
    | .ok (v, u) =>
      let r := combNum c.ety c.rop len (ofBytes q.data) v
      match tablePeers slot c.mtab u c.gsize 0, peersTouch slot c.mtab c.gsize u with
      | .error b, u => walkerBad w slot (b.1, b.2, false) s u
      | .ok l, u =>
        if c.rank + 1 < c.gsize then
          match l[c.rank + 1]? with
          | none => s
          | some p =>
            afterParts slot n { w with waiting := left ++ [markPart u c n 4 q.off] }
              (sendPart slot c n q.off false (toBytes len r) p u)
        else
          match land r u with
          | (z, some b) => walkerBad w slot b s z
          | (z, none) =>
            afterParts slot n { w with waiting := left } (sendParts slot c n true
              ((l.zipIdx.filter fun p => p.2 != c.rank).map fun p => (q.off, toBytes len r, p.1)) z)

/-- A walker may issue: steps remain, the group runs, and fewer than sixteen are in flight (R365, R370). -/
def mayIssue (c : Core) (w : Walker) : Bool :=
  let r := collOf w.record
  decide (w.next ≤ collTotal r) && !(getGroup c r.group).frozen && decide ((w.waiting.map (·.1)).eraseDups.length < 16)

/-- LOOP_WALKER_TRANSFER (R365, R367): an arrived part is used, or the first walker that may issues its next transfer. -/
def execLoopWalkerTransfer (s : State) : Host.Outcome State Fault Refusal :=
  .next (
    match engSlot s with
    | none => s
    | some slot =>
      match s.core.walkers.findSome? (fun w => (partFor s.core w).map fun x => (w, x)) with
      | some (w, e, q) => usePart slot w e q s
      | none =>
        match (if (curSlot s).isSome then s.core.walkers.find? (mayIssue s.core) else none) with
        | some w => walkerIssue slot w s
        | none => s)

/-- An expert entry (R368). -/
structure Expert where
  peer : Peer
  drow : Nat
  cap : Nat
  mg : Nat
  stl : Nat
deriving DecidableEq, Repr

/-- The expert entries of a table, each of 16 bytes; ILLEGAL for one that breaks R368. -/
def experts (slot trows : Nat) (s : State) : Nat → Nat → Except (Nat × Nat) (List Expert)
  | 0, _ => .ok []
  | n + 1, va =>
    match engLoad s slot 0 va 16 with
    | .error e => .error (e, va)
    | .ok x =>
      match unpack [32, 16, 16, 16, 8, 40] x with
      | [p, drow, cap, mg, stl, z] =>
        match peerOf p with
        | some q =>
          if cap = 0 ∨ 3 < stl ∨ z ≠ 0 ∨ 6096 < drow + trows * cap ∨ (peerHere s q ∧ !corePeerOk s slot q.core) then
            .error (codeIllegal, 0)
          else (experts slot trows s n ((va + 16) % 2 ^ 64)).map fun l => { peer := q, drow := drow, cap := cap, mg := mg, stl := stl } :: l
        | none => .error (codeIllegal, 0)
      | _ => .error (codeIllegal, 0)

/-- The tokens of an expert, in order: those within its capacity, and the number dropped (R368). -/
def tokensOf (masks : List Nat) (e cap : Nat) : List Nat × Nat :=
  let l := (masks.zipIdx.filter fun m => m.1.testBit e).map (·.2)
  (l.take cap, l.length - (l.take cap).length)

/-- NXPERT's deliveries to one expert: into its rows in this package, or the packets to send, each with the local row that it
carries. -/
def deliver (slot lrow trows : Nat) (x : Expert) : List Nat → Nat → State → State × List (Nat × Packet)
  | [], _, s => (s, [])
  | t :: r, j, s =>
    let src := lrow + trows * t
    let dst := x.drow + trows * j
    if peerHere s x.peer then
      let v := joinEls 4096 ((List.range trows).map fun i => (getRow s.core (src + i)).toNat)
      deliver slot lrow trows x r (j + 1) (plWrite slot x.peer.core true dst (512 * trows) v s).1
    else
      let l := (List.range trows).map fun i =>
        (src + i, mkPacket s 2 0 x.peer.id (.ofNat 64 (dst + i)) (nextSeq s).toNat
          (reqData true (toBytes 512 (getRow s.core (src + i)).toNat)))
      match deliver slot lrow trows x r (j + 1) s with
      | (u, m) => (u, l ++ m)

/-- The way by which a delivery leaves (R369): the first port inside the domain, or the Ethernet port and the multicast group;
none for one that shares its packet with no other. -/
def wayOf (s : State) (mg : Nat) (k : Packet) : Option (Bool × Nat × Nat) :=
  let d := packetDst k
  if d.1 = s.domNo.toNat then (firstPort s.pkgNo.toNat d.2).map fun p => (true, p, 0)
  else if mg = 0 then none else some (false, (Config.ethPort (flowNo d.1 d.2 0)).toNat, mg)

/-- One packet that stands for several writes of the same row (R369; log 18): after the 24 bytes of every write, their number,
and DST and ADDR of each, and then the row. -/
def replicate (l : List Packet) : List Packet :=
  match l with
  | [] => []
  | [k] => [k]
  | k :: _ =>
    let body := k.payload.take 24 ++ toBytes 2 l.length ++ l.flatMap (fun p => toBytes 4 p.dst.toNat ++ toBytes 8 p.addr.toNat) ++
      k.payload.drop 24
    [{ k with flg := 2, payload := body, len := .ofNat 16 body.length }]

/-- The writes that a packet stands for: itself, or those that it replicates. -/
def replicas (k : Packet) : List Packet :=
  if k.flg.getLsbD 1 then
    let n := ofBytes ((k.payload.drop 24).take 2)
    let data := k.payload.take 24 ++ k.payload.drop (26 + 12 * n)
    (List.range n).map fun i =>
      { k with flg := 0, dst := .ofNat 32 (ofBytes ((k.payload.drop (26 + 12 * i)).take 4)),
               addr := .ofNat 64 (ofBytes ((k.payload.drop (30 + 12 * i)).take 8)), payload := data, len := .ofNat 16 data.length }
  else [k]

/-- Deliveries as they leave (R369): those of one row that leave the same way share one packet, which for other domains travels on the
flow of its first owner and is copied by the last switch (log 17); at most `n` packets. -/
def shareWays (s : State) : Nat → List (Nat × Nat × Packet) → List Packet
  | 0, _ => []
  | _, [] => []
  | n + 1, x :: r =>
    match wayOf s x.2.1 x.2.2 with
    | none => x.2.2 :: shareWays s n r
    | some w =>
      let same := fun (y : Nat × Nat × Packet) => y.1 == x.1 && wayOf s y.2.1 y.2.2 == some w
      let all := x.2.2 :: (r.filter same).map (·.2.2)
      replicate all ++ shareWays s n (r.filter fun y => !same y)

/-- NXPERT (R368, R369). -/
def effNxpert (m : Cmd) (slot : Nat) (s : State) : State :=
  let a := m.arg.toNat
  let row := bits a 39 27
  if bits a 26 0 ≠ 0 ∨ m.p0 ≠ 0 ∨ m.p1 ≠ 0 ∨ m.p2 ≠ 0 ∨ m.p3 ≠ 0 ∨ 6144 < row + 5 then illegal 3 s
  else
    match rowsNum s.core row 5 with
    | .error e => cmBad slot e s s
    | .ok v =>
      let h : Row := .ofNat 4096 (v % 2 ^ 4096)
      let ntok := recF h 0 2
      let trows := recF h 2 1
      let nexp := recF h 3 1
      let lrow := recF h 4 2
      let etab := recF h 8 8
      let masks := splitEls 64 ntok (v / 2 ^ 4096)
      if ntok = 0 ∨ 256 < ntok ∨ trows = 0 ∨ 4 < trows ∨ nexp = 0 ∨ 64 < nexp ∨ recF h 6 2 ≠ 0 ∨ etab % 64 ≠ 0 ∨
          h.toNat / 2 ^ 128 ≠ 0 ∨ 6144 < lrow + trows * ntok ∨ masks.any (fun x => decide (2 ^ nexp ≤ x)) then illegal 3 s
      else
        match experts slot trows s nexp etab, tableTouch slot etab (16 * nexp) (errOf (experts slot trows s nexp etab)) s with
        | .error e, t => if e.1 = codeIllegal then illegal 3 t else memBad 3 slot e 0 s t
        | .ok xs, s =>
          match xs.find? (fun x => !peerReach s x.peer), rowsNum s.core lrow (trows * ntok) with
          | some x, _ => cmLost x.peer 0 s
          | none, .error e => cmBad slot e s s
          | none, .ok _ =>
            let jobs := xs.zipIdx.map fun p => (p.1, tokensOf masks p.2 p.1.cap)
            let out := jobs.foldl (fun (acc : State × List (Nat × Nat × Packet)) j =>
              let d := deliver slot lrow trows j.1 j.2.1 0 acc.1
              (d.1, acc.2 ++ d.2.map fun p => (p.1, j.1.mg, p.2))) (s, [])
            let sends := out.2.map fun p => (p.1, p.2.2)
            let dropped := (jobs.map fun j => j.2.2).foldl (· + ·) 0
            let sent := (jobs.map fun j => j.2.1.length).foldl (· + ·) 0
            let detail := dropped % 2 ^ 16 * 2 ^ 32 + sent
            let here := xs.filter fun x => peerHere s x.peer && x.stl != 0
            let far := (xs.filter fun x => !peerHere s x.peer && x.stl != 0).map fun x =>
              mkPacket s 4 0 x.peer.id (addrSig x.stl 1) (nextSeq s).toNat []
            let t := here.foldl (fun t x => raiseOn slot x.peer.core x.stl 1 t) out.1
            if out.2 = [] ∧ far = [] then cmDone m false detail 0 t
            else if out.2 = [] then
              cmSendBy m false false (!here.isEmpty) detail (far.map fun k => (0, k)) [] [] far t
            else cmSendBy m false here.isEmpty (!here.isEmpty) detail sends [] far (shareWays s out.2.length out.2) t
/-- NXPERT on the CM ring. -/
def execNxpert (c : Cmd) (s : State) : Host.Outcome State Fault Refusal := .next (engineGo 3 c (effNxpert c) s)

/-- Members that stand in this package: their core numbers. -/
def membersHere (s : State) (l : List Nat) : List Nat :=
  l.filterMap fun p => (peerOf p).bind fun q => if peerHere s q then some q.core else none

/-- A packet of a round from its initiator to a member: STOP, or ABORT with A in STEP (R370). -/
def roundPacket (s : State) (r : AbortRound) (op step p : Nat) : Packet :=
  { mkPacket s op r.group p 0 step [] with src := .ofNat 32 (peerId s r.core), job := .ofNat 32 r.job }

/-- The members of a round that stand in other packages. -/
def membersFar (s : State) (l : List Nat) : List Nat := l.filter fun p => (peerOf p).any fun q => !peerHere s q

/-- ABORT at the members that stand in this package, in the context of the round, and at its initiator, whose NABORT entry
completes (R370, R371). -/
def abortHere (slot : Nat) (r : AbortRound) (q : Word) (s : State) : State :=
  let a := r.least
  let t := (membersHere s r.members).foldl (fun t k => putCtxCore slot k (abortCore r.group a (k == r.core) (ctxCore t slot k)) t) s
  putCtxCore slot r.core (finishCm q 0 0 (.ofNat 64 a) (abortCore r.group a true (ctxCore t slot r.core))) t

/-- Phase two of an abort (R370, R371): ABORT with A to every member. The round of a kill outlives its context (R399), and only
members elsewhere are told. -/
def finishRound (r : AbortRound) (s : State) : State :=
  let u := match r.seq, slotOfJob s r.job with
    | some q, some slot => abortHere slot r q s
    | _, _ => s
  sendAll ((membersFar s r.members).map (roundPacket s r 7 r.least)) u

/-- A member's STEP reaches its initiator on core `core` of this package (R370). -/
def stopReply (core group member step : Nat) (s : State) : State :=
  { s with aborts := s.aborts.map fun r =>
      if r.core == core && r.group == group && r.awaiting.contains member then
        { r with awaiting := r.awaiting.erase member, least := Nat.min r.least step } else r }

/-- Rounds with nothing more to await enter their second phase (R370). -/
def settleRounds (s : State) : State :=
  (s.aborts.filter fun r => r.awaiting.isEmpty).foldl (fun t r => finishRound r { t with aborts := t.aborts.erase r }) s

/-- A member's own transfers of a group have ended (R370). -/
def groupQuiet (c : Core) (g : Nat) : Bool := c.walkers.all fun w => recF w.record 0 2 != g || w.waiting.isEmpty

/-- The STOPs that can be answered now are (R370). -/
def settleStops (s : State) : State :=
  let ready := s.stopsDue.filter fun d =>
    match slotOfJob s d.pkt.job.toNat with
    | some slot => groupQuiet (ctxCore s slot d.core) d.pkt.group.toNat
    | none => true
  settleRounds (ready.foldl (fun t d =>
    let step := match slotOfJob t d.pkt.job.toNat with
      | some slot => (getGroup (ctxCore t slot d.core) d.pkt.group.toNat).step
      | none => 0
    match peerOf d.pkt.src.toNat with
    | some p => if peerHere t p then stopReply p.core d.pkt.group.toNat d.pkt.dst.toNat step t
                else sendPacket (answerTo d.pkt 8 0 (toBytes 6 step)) t
    | none => t) { s with stopsDue := s.stopsDue.filter fun d => !ready.contains d })

/-- The reductions of a group in which a member waits for parts of others cannot complete once it refuses them (R367, R370). -/
def dropMarks (g : Nat) (w : Walker) : Walker :=
  if recF w.record 0 2 ≠ g then w else ((w.waiting.filter isMark).map (·.1)).foldl (fun w n => refuseStep n w) w

/-- A member core receives STOP (R370): the group freezes there, and the answer is due. -/
def takeStop (slot k : Nat) (pkt : Packet) (s : State) : State :=
  let c := ctxCore s slot k
  let g := pkt.group.toNat
  let t := putCtxCore slot k { setGroup c g { getGroup c g with frozen := true } with walkers := c.walkers.map (dropMarks g) } s
  { t with stopsDue := t.stopsDue ++ [{ core := k, pkt := pkt }] }

/-- Phase one of an abort (R370): STOP to every member, and to the initiator itself, whose own STEP counts. -/
def startRound (slot : Nat) (r0 : AbortRound) (s : State) : State :=
  let me := peerId s r0.core
  let stops := if r0.members.contains me then r0.members else me :: r0.members
  let r := { r0 with awaiting := stops, least := 2 ^ 48 - 1 }
  let u := sendAll ((membersFar s stops).map (roundPacket s r 6 0)) { s with aborts := s.aborts ++ [r] }
  settleStops ((stops.filter fun p => (peerOf p).any fun q => peerHere s q).foldl
    (fun u p => takeStop slot ((peerOf p).elim 0 (·.core)) (roundPacket s r 6 0 p) u) u)

/-- NABORT (R370, R372). -/
def effNabort (m : Cmd) (slot : Nat) (s : State) : State :=
  let a := m.arg.toNat
  let g := bits a 39 24
  if g = 0 ∨ bits a 23 0 ≠ 0 ∨ m.p2 ≠ 0 ∨ m.p3 ≠ 0 ∨ m.p0.toNat % 4 ≠ 0 ∨ m.p1 = 0 ∨ 2 ^ 20 < m.p1.toNat then illegal 3 s
  else
    match tablePeers slot m.p0.toNat s m.p1.toNat 0, peersTouch slot m.p0.toNat m.p1.toNat s with
    | .error e, t => if e.1 = codeIllegal then illegal 3 t else memBad 3 slot e 0 s t
    | .ok l, s =>
      if l.any (fun p => peerHere s p && !corePeerOk s slot p.core) then illegal 3 s
      else
        let ids := l.map Peer.id
        startRound slot { group := g, core := s.coreNo, job := (getCtx s slot).elim 0 (·.job), members := ids, awaiting := [],
                          least := 0, seq := some (nextSeq s) } (cmBusy m false false s)
/-- NABORT on the CM ring. -/
def execNabort (c : Cmd) (s : State) : Host.Outcome State Fault Refusal := .next (engineStart 3 c (effNabort c) s)

/-- STOP_REPLY_TIMEOUT (R370): members that have not answered the oldest round count as STEP 0. -/
def execStopReplyTimeout (s : State) : Host.Outcome State Fault Refusal :=
  .next (
    match s.aborts with
    | [] => s
    | r :: l => settleRounds { s with aborts := { r with least := 0, awaiting := [] } :: l })

end Sys2Proof.Machine
end

