-- ==== Sys2Proof/Machine/Packets.lean ====
section
/-! DEFINITION. Packets that arrive at this package (R356 to R358, R365, R370, R371): what a request does in its destination
context and the answer that goes back, and what an answer does to the command that waits for it. -/
namespace Sys2Proof.Machine

/-- What a load-store request keeps of its page, beside the address (R291, R356; log 18): it is an engine's, the handles of the
page and of the request, and the nominal address. -/
structure Attr where
  kind : Nat
  cls : Nat
  tol : Nat
  bset : Nat
  eng : Bool
  pkh : Nat
  kh : Nat
  va : Nat
deriving DecidableEq, Repr

/-- What ADDR of a request names (log 18): a physical address, a peer address, or a peer row. -/
inductive Target where
  | phys (pa : Nat) (at_ : Attr)
  | va (a : Nat)
  | row (r : Nat)
deriving DecidableEq, Repr

/-- The attributes of a request. -/
def attrOf (k : Packet) : Attr :=
  let f := fun (o n : Nat) => ofBytes ((k.payload.drop o).take n)
  { kind := f 1 1 % 4, cls := f 2 1 % 4, tol := f 3 1 % 5, bset := f 4 1 % 16, eng := f 5 1 == 1, pkh := f 6 2 % 1024,
    kh := f 8 2 % 1024, va := f 16 8 }

/-- The target of a request. -/
def targetOf (k : Packet) : Target :=
  match pktForm k with
  | 0 => .phys (bits k.addr.toNat 45 0) (attrOf k)
  | 1 => .va k.addr.toNat
  | _ => .row (bits k.addr.toNat 12 0)

/-- The data of a read, a write or an atomic request, after its 24 bytes. -/
def pktData (k : Packet) : List Byte := k.payload.drop 24

/-- Stored bytes before the nominal byte `va`, counted from its sector (R284). -/
def storedOff (t : Attr) (va : Nat) : Nat := if t.tol = 0 then va % 64 else va % 64 / tolA t.tol * tolD t.tol

/-- Stored bytes of a sector. -/
def storedSec (t : Attr) : Nat := if t.tol = 0 then 64 else 64 / tolA t.tol * tolD t.tol

/-- The page of a request as a leaf of one sector, whose first stored byte lies at `base` (R356). -/
def attrLeaf (t : Attr) (base : Nat) : Leaf :=
  { base := base, lg := 6, w := true, x := true, kind := t.kind, cls := t.cls, tol := t.tol, kh := t.pkh, bset := t.bset }

/-- The bank checks of R285 for `n` stored bytes of this package, in the destination context (R356). A doorbell's frame, reached
as S, passes for every context (R381), once its stack is repaired (R279). -/
def physOk (s : State) (slot pa n : Nat) (t : Attr) : Except Nat Unit :=
  if paPkg pa ≠ s.pkgNo.toNat then .error codeBank
  else if bfield (bankRec s (paBank pa)) 31 1 = 1 then .error codeVbus
  else if t.kind = 0 ∧ (doorFrames s).contains (pa / 65536 * 65536) then .ok ()
  else banksOk s slot t.bset [paBank pa, paBank (pa + n - 1)]

/-- Stored bytes of `n` nominal ones. -/
def storedLen (t : Attr) (n : Nat) : Nat :=
  if t.tol = 0 then n else (t.va % tolA t.tol + n + tolA t.tol - 1) / tolA t.tol * tolD t.tol

/-- `n` bytes of a load-store request read, sector by sector, in at most `k`: a scalar's as they are stored, an engine's by the
handle that it presents (R291, R293, R356). -/
def physRead (s : State) (slot : Nat) (t : Attr) : Nat → Nat → Nat → Nat → Except Nat Nat
  | 0, _, _, _ => .ok 0
  | k + 1, n, va, base =>
    if n = 0 then .ok 0
    else
      let m := Nat.min n (64 - va % 64)
      let pa := base + storedOff t va
      match (if t.eng then engLoadAt s slot t.kh va m (attrLeaf t base)
             else if sectorsOk s pa (storedLen { t with va := va } m) then .ok (loadNum s t.tol va pa m) else .error codeCheck) with
      | .error e => .error e
      | .ok x =>
        match physRead s slot t k (n - m) (va + m) (base + storedSec t) with
        | .error e => .error e
        | .ok r => .ok (x + 2 ^ (8 * m) * r)

/-- What such a read does to the banks of its sectors, up to the one that cannot be read (R263 to R265, R273). -/
def physTouch (slot : Nat) (t : Attr) : Nat → Nat → Nat → Nat → State → State
  | 0, _, _, _, s => s
  | k + 1, n, va, base, s =>
    if n = 0 then s
    else
      let m := Nat.min n (64 - va % 64)
      let pa := base + storedOff t va
      let u := touchBank s slot pa
      if sectorsOk s pa (storedLen { t with va := va } m) then physTouch slot t k (n - m) (va + m) (base + storedSec t) u else u

/-- `n` bytes of a load-store request written, likewise; at a fault, what was written stays. -/
def physWrite (slot : Nat) (t : Attr) : Nat → Nat → Nat → Nat → Nat → State → State × Option Nat
  | 0, _, _, _, _, s => (s, none)
  | k + 1, n, va, base, v, s =>
    if n = 0 then (s, none)
    else
      let m := Nat.min n (64 - va % 64)
      let pa := base + storedOff t va
      let u := touchBank s slot pa
      match (if t.eng then engStoreAt s u slot t.kh va m (v % 2 ^ (8 * m)) (attrLeaf t base)
             else .ok (storeNum u t.tol va pa m (v % 2 ^ (8 * m)))) with
      | .error e => (s, some e)
      | .ok w => physWrite slot t k (n - m) (va + m) (base + storedSec t) (v / 2 ^ (8 * m)) w

/-- How a request ends that cannot be performed: its code, the address, and UNIT and WHERE of a machine check (R360, R397). -/
abbrev PktBad := Nat × Nat × Nat × Nat

/-- The end of a request at a virtual or row side of this package. -/
def sideBad (s : State) (slot : Nat) (e : Nat × Nat × Bool) : PktBad :=
  if e.2.2 then (e.1, 0, 1, e.2.1)
  else if e.1 = codeCheck then (e.1, e.2.1, checkPlace s slot e.2.1 (64 - e.2.1 % 64))
  else (e.1, e.2.1, 0, 0)

/-- A read that a request asks for (R356, R358, R360). -/
def pktGet (slot core n : Nat) (g : Target) (s : State) : Except PktBad (Nat × State) :=
  match g with
  | .phys pa t =>
    match physOk s slot pa (storedLen t n) t with
    | .error e => .error (e, t.va, 0, 0)
    | .ok _ =>
      match physRead s slot t (n / 64 + 2) n t.va (pa - storedOff t t.va) with
      | .error e => .error (e, t.va, failPlace s pa (storedLen t n))
      | .ok x => .ok (x, physTouch slot t (n / 64 + 2) n t.va (pa - storedOff t t.va) s)
  | .va a =>
    match plRead slot core false a n s with
    | .error e => .error (sideBad s slot e)
    | .ok v => .ok v
  | .row r =>
    if !corePeerOk s slot core ∨ 6096 < r + n / 512 then .error (codeIllegal, 0, 0, 0)
    else match plRead slot core true r n s with
      | .error e => .error (sideBad s slot e)
      | .ok v => .ok v

/-- The same, which a link agent makes (log 89). -/
def pktRead (slot core n : Nat) (g : Target) (s : State) : Except PktBad (Nat × State) :=
  (pktGet slot core n g { s with unit := some noColumn }).map fun r => (r.1, { r.2 with unit := s.unit })

/-- A write that a request asks for (R356, R358, R360, R365). -/
def pktPut (slot core n v : Nat) (g : Target) (kind ety rop : Nat) (s : State) : State × Option PktBad :=
  match g with
  | .phys pa t =>
    match physOk s slot pa (storedLen t n) t with
    | .error e => (s, some (e, t.va, 0, 0))
    | .ok _ =>
      match physWrite slot t (n / 64 + 2) n t.va (pa - storedOff t t.va) v s with
      | (u, some e) => (u, some (e, t.va, failPlace s pa (storedLen t n)))
      | (u, none) => (if t.eng then u else doorbell u pa n v, none)
  | .va a =>
    match collWrite slot core kind ety rop false a n v s with
    | (t, some e) => (t, some (sideBad t slot e))
    | (t, none) => (t, none)
  | .row r =>
    if !corePeerOk s slot core ∨ 6096 < r + n / 512 then (s, some (codeIllegal, 0, 0, 0))
    else match collWrite slot core kind ety rop true r n v s with
      | (t, some e) => (t, some (sideBad t slot e))
      | (t, none) => (t, none)

/-- The same, for the core and the context that the request reaches (R397; log 89). -/
def pktWrite (slot core n v : Nat) (g : Target) (kind ety rop : Nat) (s : State) : State × Option PktBad :=
  let r := pktPut slot core n v g kind ety rop { s with behalf := some (core, slot), unit := some noColumn }
  ({ r.1 with behalf := s.behalf, unit := s.unit }, r.2)

/-- Core that a packet's DST names. -/
def pktCore (k : Packet) : Nat := bits k.dst.toNat 6 0

/-- What a load-store request that ends in a machine check does to the banks of the bytes that it has read (R263). -/
def refusePhys (k : Packet) (slot : Nat) (s : State) : State :=
  match targetOf k with
  | .phys pa t => if k.op = 1 then physTouch slot t (ofBytes (pktData k) / 64 + 2) (ofBytes (pktData k)) t.va (pa - storedOff t t.va) s
      else touchBank s slot pa
  | _ => s

/-- What a request that faults at a peer address does to the banks of the walk, and of the data where that failed (R263, R285). -/
def refuseTouch (k : Packet) (slot : Nat) (e : PktBad) (s : State) : State :=
  if pktForm k = 0 ∧ e.1 = codeCheck then refusePhys k slot s
  else if pktForm k ≠ 1 ∨ e.1 = codeIllegal ∨ e.1 = codeRetry then s
  else asUnit noColumn (fun s => if e.1 = codeCheck then touchVa slot e.2.1 s else touchWalk s slot e.2.1) s

/-- The answer that carries a fault's code and address; a machine check of this package's memory is logged here, and its place
goes with the answer (R397). A request whose own page must wait for another package is asked again (R357). -/
def refuse (k : Packet) (slot : Nat) (e : PktBad) (s0 : State) : State :=
  let s := refuseTouch k slot e s0
  if e.1 = codeRetry then sendPacket (answerTo k 9 k.op.toNat []) s
  else if e.1 = codeCheck then
    sendPacket (answerTo k 8 codeCheck (badData e.2.1 e.2.2)) (logMc s (mcEntry 2 e.2.2.1 (pktCore k) slot e.2.2.2))
  else sendPacket (answerTo k 8 e.1 (toBytes 8 e.2.1)) s

/-- A request completes with ILLEGAL (R360). -/
def refuseIllegal (k : Packet) (s : State) : State := sendPacket (answerTo k 8 codeIllegal (toBytes 8 0)) s

/-- A request that reaches this package is performed in its destination context; without one, RETRY goes back with the request's
OP (R355 to R357; log 18). -/
def atDest (k : Packet) (f : Nat → State → State) (s : State) : State :=
  if packetDst k ≠ (s.domNo.toNat, s.pkgNo.toNat) then s
  else match slotOfJob s k.job.toNat with
    | some slot => f slot s
    | none => sendPacket (answerTo k 9 k.op.toNat []) s

/-- A read request: its data says how many bytes (log 18). -/
def doRead (k : Packet) (slot : Nat) (s : State) : State :=
  let n := ofBytes (pktData k)
  match pktRead slot (pktCore k) n (targetOf k) s with
  | .error e => refuse k slot e s
  | .ok (v, t) => sendPacket (answerTo k 8 0 (toBytes n v)) t
/-- READ_PACKET (R356). -/
def execReadPacket (pkt : Packet) (s : State) : Host.Outcome State Fault Refusal := .next (atDest pkt (doRead pkt) s)

/-- A write request. -/
def doWrite (k : Packet) (slot : Nat) (s : State) : State :=
  match pktWrite slot (pktCore k) (pktData k).length (ofBytes (pktData k)) (targetOf k) 0 0 0 s with
  | (t, some e) => refuse k slot e t
  | (t, none) => sendPacket (answerTo k 8 0 []) t
/-- The writes of a packet that stand in this package, each with its own acknowledgement (R369). -/
def doWrites (k : Packet) (s : State) : State := (replicas k).foldl (fun t p => atDest p (doWrite p) t) s
/-- WRITE_PACKET (R356, R369). -/
def execWritePacket (pkt : Packet) (s : State) : Host.Outcome State Fault Refusal := .next (doWrites pkt s)

/-- An atomic at an address of this package (R304, R356): none on a tolerant page (R286). -/
def physAtomic (slot pa n op v e : Nat) (t : Attr) (s : State) : Except PktBad (Nat × State) :=
  match physOk s slot pa n t with
  | .error x => .error (x, t.va, 0, 0)
  | .ok _ =>
    if t.tol ≠ 0 then .error (codeProt, t.va, 0, 0)
    else if !sectorsOk s pa n then .error (codeCheck, t.va, failPlace s pa n)
    else
      let old := memNum s pa n
      let u := touchBank s slot pa
      .ok (old, match atomNew op n old (v % 2 ^ (8 * n)) (e % 2 ^ (8 * n)) with | some x => storeNum u 0 pa pa n x | none => u)

/-- An atomic request: operation, size, operand and expected value stand in its data (log 18). -/
def doAtomic (k : Packet) (slot : Nat) (s : State) : State :=
  match unpack [8, 8, 64, 64] (ofBytes (pktData k)) with
  | [op, n, v, e] =>
    match (match targetOf k with
      | .va a =>
        let t := { s with unit := some noColumn }
        match atomAt slot a n op v e t with
        | .error x => (Except.error (sideBad t slot (x, a, false)) : Except PktBad (Nat × State))
        | .ok r => .ok (r.1, { r.2 with unit := s.unit })
      | .phys pa t => physAtomic slot pa n op v e t s
      | .row _ => .error (codeIllegal, 0, 0, 0)) with
    | .error x => refuse k slot x s
    | .ok (old, t) => sendPacket (answerTo k 8 0 (toBytes 8 old)) t
  | _ => refuseIllegal k s
/-- ATOMIC_PACKET (R356). -/
def execAtomicPacket (pkt : Packet) (s : State) : Host.Outcome State Fault Refusal := .next (atDest pkt (doAtomic pkt) s)

/-- A signal: a timeline of the peer rises by the count (R358, R362). -/
def doSignal (k : Packet) (slot : Nat) (s : State) : State :=
  let tls := bits k.addr.toNat 1 0
  if !corePeerOk s slot (pktCore k) ∨ tls = 0 then refuseIllegal k s
  else sendPacket (answerTo k 8 0 []) (raiseOn slot (pktCore k) tls (bits k.addr.toNat 10 2) s)
/-- SIGNAL_PACKET (R362). -/
def execSignalPacket (pkt : Packet) (s : State) : Host.Outcome State Fault Refusal := .next (atDest pkt (doSignal pkt) s)

/-- A collective transfer (R365, R367, R370): a frozen or aborted group refuses it; the parts of a reduction wait for the
member's walker. -/
def doCollective (k : Packet) (slot : Nat) (s : State) : State :=
  let core := pktCore k
  let c := ctxCore s slot core
  let g := getGroup c k.group.toNat
  let kind := pktKind k
  let data := k.payload.drop 8
  if !corePeerOk s slot core then refuseIllegal k s
  else if g.frozen then sendPacket (answerTo k 8 codeAbort (toBytes 8 0)) s
  else if kind = 2 then
    match pktRead slot core (ofBytes data) (targetOf k) s with
    | .error e => refuse k slot e s
    | .ok (v, t) => sendPacket (answerTo k 8 0 (toBytes (ofBytes data) v)) t
  else if kind ≤ 1 then
    match pktWrite slot core data.length (ofBytes data) (targetOf k) kind (ofBytes ((k.payload.drop 1).take 1))
        (ofBytes ((k.payload.drop 2).take 1)) s with
    | (t, some e) => refuse k slot e t
    | (t, none) => sendPacket (answerTo k 8 0 []) t
  else
    sendPacket (answerTo k 8 0 []) (putCtxCore slot core
      { c with chain := c.chain ++ [{ result := kind == 4, group := k.group.toNat, step := k.step.toNat,
                                      off := pktOff k, data := data }] } s)
/-- COLLECTIVE_TRANSFER_PACKET (R365). -/
def execCollectiveTransferPacket (pkt : Packet) (s : State) : Host.Outcome State Fault Refusal :=
  .next (atDest pkt (doCollective pkt) s)

/-- STOP at a member (R370). -/
def doStop (k : Packet) (slot : Nat) (s : State) : State :=
  if corePeerOk s slot (pktCore k) then settleStops (takeStop slot (pktCore k) k s) else refuseIllegal k s
/-- STOP_PACKET (R370). -/
def execStopPacket (pkt : Packet) (s : State) : Host.Outcome State Fault Refusal := .next (atDest pkt (doStop pkt) s)

/-- ABORT at a member (R371): A stands in STEP. -/
def doAbort (k : Packet) (slot : Nat) (s : State) : State :=
  if corePeerOk s slot (pktCore k) then
    putCtxCore slot (pktCore k) (abortCore k.group.toNat k.step.toNat false (ctxCore s slot (pktCore k))) s
  else s
/-- ABORT_PACKET (R371). -/
def execAbortPacket (pkt : Packet) (s : State) : Host.Outcome State Fault Refusal := .next (atDest pkt (doAbort pkt) s)

/-- An answer belongs to a packet that waits (log 18). -/
def answers (r w : Packet) : Bool :=
  w.group == r.group && w.src == r.dst && w.dst == r.src && w.addr == r.addr && w.step == r.step && w.job == r.job

/-- Code and data of an answer. -/
def answerCode (r : Packet) : Nat := ofBytes (r.payload.take 1)
def answerData (r : Packet) : List Byte := r.payload.drop 1

/-- A request that ended with MACHINE_CHECK is logged with the place that its answer names (R397). -/
def logAnswer (code : Nat) (data : List Byte) (s : State) : State :=
  if code = codeCheck then logStop (ofBytes ((data.drop 8).take 1)) (ofBytes ((data.drop 9).take 4)) s else s

/-- STATX of a stop that an answer brings: the address (R34, R360). -/
def answerStatx (data : List Byte) : Word := .ofNat 64 (ofBytes (data.take 8))

/-- A command's packet is answered (R357, R361 to R363, R368), and one that it has not sent yet goes out. -/
def answerCm (slot : Nat) (w : CmWait) (e : Nat × Packet) (code : Nat) (data : List Byte) (s : State) : State :=
  if code ≠ 0 then
    let t := logAnswer code data s
    withCore t (finishCm w.seq code 0 (answerStatx data) t.core)
  else
    let t := if e.2.op = 1 then (plWrite slot s.coreNo true e.1 512 (ofBytes data) s).1 else s
    let more := w.todo.take 1
    let left := w.waiting.erase e ++ more
    let put := fun (v : CmWait) (u : State) =>
      withCore u { u.core with cmwait := u.core.cmwait.map fun x => if x.seq == w.seq then v else x }
    if left ≠ [] then sendAll (more.map (·.2)) (put { w with waiting := left, todo := w.todo.drop 1 } t)
    else if w.after ≠ [] then
      let l := w.after.map fun k => (0, k)
      sendAll w.after (put { w with sent := l, waiting := l, after := [], repeatable := false } t)
    else withCore t (finishCm w.seq 0 w.detail (if e.2.op = 3 then .ofNat 64 (ofBytes data) else 0) t.core)

/-- A walker's packet is answered (R365, R366, R370): a refused transfer never completes; GET's data lands, or is asked for again
where its own page must wait for another package (R357); the peer's timeline rises once the transfer's writes are performed. -/
def answerWalker (slot : Nat) (w : Walker) (e : Nat × Packet) (code : Nat) (data : List Byte) (s : State) : State :=
  let left := w.waiting.erase e
  if code = codeAbort then
    withCore s (settle (refuseStep e.1 { w with waiting := left }) s.core)
  else if code ≠ 0 then
    let t := logAnswer code data s
    withCore t (finishCm w.seq code 0 (answerStatx data) t.core)
  else
    let c := collOf w.record
    let landed : State × Option (Nat × Nat × Bool) :=
      if e.2.op = 5 ∧ pktKind e.2 = 2 then
        plWrite slot s.coreNo (c.sk == 0) (pieceAddr (c.sk == 0) (collStep c e.1).2.1 (pktOff e.2)) data.length (ofBytes data) s
      else (s, none)
    match landed with
    | (t, some b) => walkerBad w slot b { s with retryq := s.retryq ++ [e.2] } t
    | (t, none) =>
      if e.2.op = 5 ∧ c.kind ≤ 1 ∧ c.stl ≠ 0 ∧ !(left.any fun x => x.1 == e.1) then
        let sig := mkPacket t 4 c.group e.2.dst.toNat (addrSig c.stl 1) e.1 []
        let u := sendPacket sig t
        withCore u (settle { w with waiting := left ++ [(e.1, sig)] } u.core)
      else withCore t (settle { w with waiting := left } t.core)

/-- The waiting packet that an answer belongs to ends with a code and data, on the focused core. -/
def answerHere (r : Packet) (code : Nat) (data : List Byte) (s : State) : State :=
  match engSlot s with
  | none => s
  | some slot =>
    match s.core.cmwait.findSome? (fun w => (w.waiting.find? (fun e => answers r e.2)).map fun e => (w, e)) with
    | some (w, e) => answerCm slot w e code data s
    | none =>
      match s.core.walkers.findSome? (fun w => (w.waiting.find? (fun e => answers r e.2)).map fun e => (w, e)) with
      | some (w, e) => answerWalker slot w e code data s
      | none => s

/-- A member of a round lies outside its context's partition (R360): the NABORT completes with ILLEGAL. A kill counts it as one
that does not reply. -/
def stopIllegal (core group member : Nat) (s : State) : State :=
  let mine := fun (r : AbortRound) => r.core == core && r.group == group && r.awaiting.contains member && r.seq.isSome
  let t := (s.aborts.filter mine).foldl (fun t r =>
    match r.seq, slotOfJob t r.job with
    | some q, some slot => putCtxCore slot r.core (finishCm q codeIllegal 0 0 (ctxCore t slot r.core)) t
    | _, _ => t) s
  stopReply core group member 0 { t with aborts := t.aborts.filter fun r => !mine r }

/-- A response (R356, R370): to a STOP, the member's STEP; else to a command or walker of the core that DST names. -/
def takeResponse (r : Packet) (s : State) : State :=
  if packetDst r ≠ (s.domNo.toNat, s.pkgNo.toNat) then s
  else if s.aborts.any (fun a => a.core == pktCore r && a.group == r.group.toNat && a.awaiting.contains r.src.toNat) &&
      r.addr == 0 && r.step == 0 then
    settleRounds (if answerCode r = codeIllegal then stopIllegal (pktCore r) r.group.toNat r.src.toNat s
      else stopReply (pktCore r) r.group.toNat r.src.toNat (if answerCode r = 0 then ofBytes (answerData r) else 0) s)
  else settleStops (onCore (pktCore r) (answerHere r (answerCode r) (answerData r)) s)
/-- RESPONSE_PACKET (R356). -/
def execResponsePacket (pkt : Packet) (s : State) : Host.Outcome State Fault Refusal := .next (takeResponse pkt s)

/-- The sent packets of a core that await answers. -/
def corePending (c : Core) : List Packet :=
  (c.cmwait.flatMap fun w => w.waiting.map (·.2)) ++ (c.walkers.flatMap fun w => (w.waiting.filter fun e => !isMark e).map (·.2))

/-- A STOP of a round that still awaits it, or an ABORT, as a RETRY answer names it (R357, R370; log 18). -/
def roundAgain (r : Packet) (s : State) : List Packet :=
  let k := { r with op := .ofNat 8 (answerCode r), flg := 0, src := r.dst, dst := r.src, payload := [], len := 0 }
  if k.op = 7 ∨ (k.op = 6 ∧ s.aborts.any fun a => a.core == pktCore r && a.group == r.group.toNat && a.awaiting.contains r.src.toNat)
  then [k] else []

/-- A RETRY answer (R357): the request waits in the link agent to be sent again. -/
def takeRetry (r : Packet) (s : State) : State :=
  if packetDst r ≠ (s.domNo.toNat, s.pkgNo.toNat) then s
  else { s with retryq := s.retryq ++
    (if answerCode r = 6 ∨ answerCode r = 7 then roundAgain r s
     else ((corePending (getCore s (pktCore r))).filter (answers r)).take 1) }
/-- RETRY_PACKET (R357). -/
def execRetryPacket (pkt : Packet) (s : State) : Host.Outcome State Fault Refusal := .next (takeRetry pkt s)

/-- A request that is lost completes at its issuer with MACHINE_CHECK, its peer address known (R34, R352); a member that a STOP
does not reach counts as one that does not reply (R370). -/
def loseOne (k : Packet) (s : State) : State :=
  let core := bits k.src.toNat 6 0
  if k.op = 6 then settleRounds (stopReply core k.group.toNat k.dst.toNat 0 s)
  else
    let d := packetDst k
    let r := answerTo k 8 codeCheck (badData (lostAddr k) (lostPlace s d.1 d.2))
    settleStops (onCore core (answerHere r codeCheck (answerData r)) s)

/-- Requests that are lost, each write of a shared packet for itself (R369). -/
def loseAll (l : List Packet) (s : State) : State := (l.flatMap replicas).foldl (fun t k => loseOne k t) s

/-- The route of a packet carries traffic (R349, R353). -/
def routeUp (s : State) (k : Packet) : Bool := (packetDst k).1 != s.domNo.toNat || reachable s (packetDst k).2

/-- RETRY_RESEND (R357): the waiting requests go out again; those whose route is down complete (R352). -/
def execRetryResend (s : State) : Host.Outcome State Fault Refusal :=
  .next (loseAll (s.retryq.filter fun k => !routeUp s k) (sendAll (s.retryq.filter (routeUp s)) { s with retryq := [] }))

/-- Every packet of this package that awaits an answer, STOPs among them. -/
def pendingAll (s : State) : List Packet :=
  ((List.range 128).flatMap fun k => corePending (getCore s k)) ++
    s.aborts.flatMap fun r => (membersFar s r.awaiting).map (roundPacket s r 6 0)

/-- A link has gone down: every pending request whose route crosses it is lost (R352). -/
def loseDown (s : State) : State :=
  loseAll ((pendingAll s).filter fun k => !routeUp s k) { s with retryq := s.retryq.filter (routeUp s) }

/-- A packet that stands for several writes: those for this package are performed, and the others go on, together while they go
the same way (R369); at most `n` ways. -/
def relay (port : Nat) (vc1 : Bool) : Nat → List Packet → State → State
  | 0, _, s => s
  | _, [], s => s
  | n + 1, k :: r, s =>
    let way := fun (p : Packet) => firstPort s.pkgNo.toNat (packetDst p).2
    let same := fun (p : Packet) => way p == way k
    relay port vc1 n (r.filter fun p => !same p)
      (match way k with
        | some q =>
          if linkCarries s s.pkgNo.toNat q then (replicate (k :: r.filter same)).foldl (fun t p => forwardPacket port vc1 p t) s
          else (k :: r.filter same).foldl (fun t p => refuseLost q p t) s
        | none => s)

/-- A packet on its way to others: in this domain it goes on (R353, R369). -/
def passOn (port : Nat) (vc1 : Bool) (k : Packet) (s : State) : State :=
  let l := (replicas k).filter fun p => (packetDst p).1 == s.domNo.toNat && (packetDst p).2 != s.pkgNo.toNat
  relay port vc1 l.length l s

/-- What a whole packet does where it arrives (R377), or on its way (R353, R369). -/
def arrive (port : Nat) (vc1 : Bool) (k : Packet) (s : State) : State :=
  if k.flg.getLsbD 1 ∧ k.op = 2 then passOn port vc1 k (doWrites k s)
  else if packetDst k ≠ (s.domNo.toNat, s.pkgNo.toNat) then forwardPacket port vc1 k s
  else
    match k.op.toNat with
    | 1 => atDest k (doRead k) s
    | 2 => doWrites k s
    | 3 => atDest k (doAtomic k) s
    | 4 => atDest k (doSignal k) s
    | 5 => atDest k (doCollective k) s
    | 6 => atDest k (doStop k) s
    | 7 => atDest k (doAbort k) s
    | 8 => takeResponse k s
    | 9 => takeRetry k s
    | _ => s

/-- FLIT_RECEIVE (R350, R351): the link takes the flit; a packet that it completes is performed; credit sends more. -/
def execFlitReceive (port : BitVec 3) (flit : BitVec 2048) (s : State) : Host.Outcome State Fault Refusal :=
  .next (
    match takeFlit flit (getLink s port.toNat) with
    | (l, some (k, vc1)) => arrive port.toNat vc1 k (pump (setLink s port.toNat l) port.toNat)
    | (l, none) => pump (setLink s port.toNat l) port.toNat)

/-- LINK_RETRAIN_DONE (R352): traffic goes on, or the link is down and what needed it completes with MACHINE_CHECK. -/
def execLinkRetrainDone (port : BitVec 3) (ok : Bool) (s : State) : Host.Outcome State Fault Refusal :=
  .next (
    let l := getLink s port.toNat
    if l.st ≠ .retraining then s
    else if ok then pump (setLink s port.toNat { l with st := .up, fails := 0, wire := l.wire ++ l.unacked }) port.toNat
    else
      let t := tellHost (setLink s port.toNat { l with st := .down, outq := [], unacked := [], held := [] }) (.linkDown port.toNat)
      let mine := fun (k : Packet) => bits k.src.toNat 29 16 == s.domNo.toNat && bits k.src.toNat 13 8 == s.pkgNo.toNat
      loseDown ((((undelivered l).filter fun k => !mine k).flatMap replicas).foldl (fun u k => refuseLost port.toNat k u) t))

/-- DATAGRAM_RECEIVE (R374, R375): a sealed datagram that fails authentication is discarded and reported; one in flow order is
delivered, a shared one in this package alone, since the last switch copies it to every owner's (R369); its acknowledgement covers what this package sent on the flow. -/
def execDatagramReceive (flow : Nat) (seq ack : BitVec 32) (tag : BitVec 128) (pkt : Packet) (s : State) :
    Host.Outcome State Fault Refusal :=
  .next (
    match openDatagram s flow seq.toNat tag pkt with
    | none => tellHost s (.authFailed flow)
    | some k =>
      let v1 := ackFlow ack.toNat (getFlow s flow)
      if seq.toNat ≠ v1.rxSeq then setFlow s flow v1
      else
        let t := setFlow s flow { v1 with rxSeq := (v1.rxSeq + 1) % 2 ^ 32 }
        if k.flg.getLsbD 1 ∧ k.op = 2 then doWrites k t else arrive 0 false k t)

/-- DATAGRAM_RESEND (R374). -/
def execDatagramResend (flow : Nat) (s : State) : Host.Outcome State Fault Refusal :=
  .next (resendFlow flow loseAll s)

end Sys2Proof.Machine
end

