-- ==== Sys2Proof/Machine/Banks.lean ====
section
/-! DEFINITION. The device's own steps on DRAM banks (R262 to R279), on the translation caches and keys (R285 to R293), on
power (R407 to R410), and on the clock's and the links' alignment (R390, R400). Each step happens when the spec lets it and
otherwise changes nothing. -/
namespace Sys2Proof.Machine

/-- A bank of this package: its record, and the record and times replaced. -/
def ownRec (s : State) (b : BitVec 15) : BitVec 32 := bankRec s (ownBank s b)
def setOwn (s : State) (b : BitVec 15) (r : BitVec 32) (t : BankTime) : State :=
  setBankTime (setBank s (ownBank s b) (bset r 31 1 0)) (ownBank s b) t

/-- STATE and OWNER of a record (R263). -/
def recState (r : BitVec 32) : Nat := bfield r 20 2
def recOwner (r : BitVec 32) : Nat := bfield r 26 4

/-- Buffered stores that the test names are performed, with those before them (R267, R289). -/
def drainWhere (f : Nat → StoreEntry → Bool) (s : State) : State :=
  (List.range 128).foldl (fun t k => if (getCore t k).sb.any (f k) then onCore k drainAll t else t) s

/-- Some of those must wait for a link or a destination context (R352, R357). -/
def drainHeld (f : Nat → StoreEntry → Bool) (s : State) : Bool :=
  (List.range 128).any fun k => (getCore s k).sb.any (f k) &&
    (match engSlotOf s k with
     | none => true
     | some slot => (getCore s k).sb.any (storeWaits s slot))

/-- A command of a core, or a transfer of a lane, has translated pages that the test names and not read through all of them yet
(R218, R250). -/
def pagesHeld (s : State) (f : Nat → Nat × Leaf → Bool) : Bool :=
  ((List.range 128).any fun k => (getCore s k).rings.any fun r => r.2.pages.any (f k)) ||
    s.lanes.any fun p => p.2.fly.any fun x => x.pend.any fun q => q.pages.any (f (16 * p.1))

/-- A store of a core that is saved for its context still waits for a destination context (log 90). -/
def savedHeld (f : Nat → StoreEntry → Bool) (s : State) : Bool :=
  s.ctxs.any fun p => match p.2 with
    | some c => c.saved.any fun e => e.2.sb.any (f p.1)
    | none => false

/-- The buffered store was translated by an entry whose page touches the bank (R289). -/
def storeOfBank (b : Nat) (e : StoreEntry) : Bool :=
  let o := e.va % 2 ^ e.lg
  let base := e.pa - (if e.tol = 0 then o else o / tolA e.tol * tolD e.tol)
  (spanBanks base (storedSize e.lg e.tol)).contains b

/-- Translations into one of the banks end (R267, R289): their TLB entries are dropped, in every TLB of the package, and the
accesses that used them performed, to whatever bank of the page. -/
def endBank (b : Nat) (s : State) : State :=
  let t := drainWhere (fun _ e => storeOfBank b e) s
  { t with tlb := t.tlb.filter fun e => !(leafBanks e.leaf).any (· == b) }

/-- An access through a translation into the bank is still to come, or must wait (R267, R289). -/
def bankHeld (s : State) (b : Nat) : Bool :=
  pagesHeld s (fun _ p => (leafBanks p.2).any (· == b)) || drainHeld (fun _ e => storeOfBank b e) s ||
    savedHeld (fun _ e => storeOfBank b e) s

/-- The bytes of a bank read zero (R266). -/
def zeroBank (s : State) (b : Nat) : State :=
  { s with mem := s.mem.filter (fun e => paBank e.1 != b), badMem := s.badMem.filter (fun x => paBank (64 * x) != b),
           badL2 := s.badL2.filter (fun e => paBank (64 * e.1) != b) }

/-- Free banks of a stack that no request has taken, in order, at most `count`; none of a column that is off (R266, R408). -/
def freeBanks (s : State) (stack count : Nat) : List Nat :=
  if (getCol s stack).failed then [] else
    ((List.range 4096).map (· + 4096 * stack) |>.filter fun b =>
      recOwner (bankRec s (s.pkgNo.toNat * 65536 + b)) == 15 && !(s.bankReqs.any fun r => r.left.contains b)).take count

/-- A bank that holds zeros is granted: OWNER and SET name its context and set (R263, R266), and what R264 counts from the last access
counts from the grant until there is one (log 91). -/
def grantBank (ctx set : Nat) (s : State) (b : Nat) : State :=
  let k := BitVec.ofNat 15 b
  setOwn s k (bset (bset (ownRec s k) 26 4 ctx) 22 4 set) { bankTime s (ownBank s k) with access := devNs s }

/-- A bank is taken for a request (R266): one that holds zeros is granted at once, one whose scrub runs when it has finished, and a
DEEP one after the 20 µs in which it leaves DEEP and its scrub. -/
def takeBank (ctx set : Nat) (s : State) (b : Nat) : State :=
  let k := BitVec.ofNat 15 b
  let t := bankTime s (ownBank s k)
  if t.scrub.isSome then s
  else if recState (ownRec s k) = 3 then setBankTime s (ownBank s k) { t with scrub := some (devNs s + 720000) }
  else grantBank ctx set s b

/-- Requests whose banks all hold zeros are complete, and host software is told (R266). -/
def bankReqsDone (s : State) : State :=
  (s.bankReqs.filter fun r => r.left.isEmpty).foldl (fun t r => tellHost t (.bankGranted r.ctx r.set r.banks))
    { s with bankReqs := s.bankReqs.filter fun r => !r.left.isEmpty }

/-- BANK_ALLOCATE (R266): refused for want of free banks, for a set above 15, and for a context that is not resident. -/
def execBankAllocate (stack : BitVec 3) (ctx : BitVec 4) (set count : Nat) (s : State) : Host.Outcome State Fault Refusal :=
  .next (
    let l := freeBanks s stack.toNat count
    if l.length < count ∨ 15 < set ∨ 8 ≤ ctx.toNat ∨ (getCtx s ctx.toNat).isNone then tellHost s .bankRefused
    else
      let t := l.foldl (takeBank ctx.toNat set) s
      let left := l.filter fun b => (bankTime t (ownBank t (.ofNat 15 b))).scrub.isSome
      bankReqsDone { t with bankReqs := t.bankReqs ++ [{ ctx := ctx.toNat, set := set, banks := l, left := left }] })

/-- BANK_FREE (R267), once no access is in flight to the bank: translations through it are dropped and their accesses performed
first (R289). A bank in RETAIN wakes for its scrub, another keeps its STATE (log 63). -/
def execBankFree (bank : BitVec 15) (s : State) : Host.Outcome State Fault Refusal :=
  .next (
    if recOwner (ownRec s bank) = 15 ∨ bankHeld s (ownBank s bank) then s
    else
      let u := endBank (ownBank s bank) s
      let r := ownRec u bank
      let t := bankTime u (ownBank u bank)
      let now := devNs s
      setOwn u bank (bset (bset (bset r 26 4 15) 22 4 0) 30 1 1)
        { t with freed := now, missed := [], scrub := some (now + 700000),
                 waking := if recState r = 2 then some ((t.waking.getD (Nat.max now (t.entering.getD 0) + 1200))) else none })

/-- SCRUB_COMPLETE (R266, R267): the bank holds zeros; the request that has taken it gets it, and may be complete with it. -/
def execScrubComplete (bank : BitVec 15) (s : State) : Host.Outcome State Fault Refusal :=
  .next (
    let t := bankTime s (ownBank s bank)
    match t.scrub with
    | none => s
    | some due =>
      if due ≤ devNs s then
        let u := setOwn (zeroBank s (ownBank s bank)) bank (bset (ownRec s bank) 30 1 0) { t with scrub := none }
        let v := match u.bankReqs.find? fun r => r.left.contains bank.toNat with
          | some r => grantBank r.ctx r.set u bank.toNat
          | none => u
        bankReqsDone { v with bankReqs := v.bankReqs.map fun r => { r with left := r.left.filter (· != bank.toNat) } }
      else s)

/-- BANK_IDLE_TIMEOUT (R264): ACTIVE, and 1 µs without an access. -/
def execBankIdleTimeout (bank : BitVec 15) (s : State) : Host.Outcome State Fault Refusal :=
  .next (
    let r := ownRec s bank
    let t := bankTime s (ownBank s bank)
    if recState r = 0 ∧ t.access + 1000 ≤ devNs s then setOwn s bank (bset r 20 2 1) t else s)

/-- FULL is pending for a set and due within 1.2 µs: RETAIN banks of the set begin to wake (R271). -/
def wakeOpen (s : State) (slot set : Nat) : Bool :=
  match getCtx s slot with
  | none => false
  | some c => c.running && (match Sparse.find c.phasePend set with
    | some p => p.level == 2 && decide (p.due ≤ gtimeOf s + 1200)
    | none => false)

/-- RETAIN_ENTRY (R264): an allocated IDLE bank under OFF, or under LOW 50 µs after its last access. Where FULL is due within 1.2 µs it
wakes as soon as it has entered (R271; log 64). -/
def execRetainEntry (bank : BitVec 15) (s : State) : Host.Outcome State Fault Refusal :=
  .next (
    let r := ownRec s bank
    let t := bankTime s (ownBank s bank)
    let lv := levelOf s (recOwner r) (bfield r 22 4)
    let now := devNs s
    if recState r = 1 ∧ recOwner r < 8 ∧ (lv = 0 ∨ (lv = 1 ∧ t.access + 50000 ≤ now)) then
      setOwn s bank (bset r 20 2 2) { t with retained := now, entering := some (now + 100), missed := [],
                                             waking := if wakeOpen s (recOwner r) (bfield r 22 4) then some (now + 1300) else none }
    else s)

/-- RETAIN_ENTRY_COMPLETE (R264). -/
def execRetainEntryComplete (bank : BitVec 15) (s : State) : Host.Outcome State Fault Refusal :=
  .next (
    let t := bankTime s (ownBank s bank)
    match t.entering with
    | none => s
    | some due => if due ≤ devNs s then setOwn s bank (ownRec s bank) { t with entering := none } else s)

/-- DEEP_ENTRY (R264): 1 ms free, once the scrub has finished, and not taken for a request. -/
def execDeepEntry (bank : BitVec 15) (s : State) : Host.Outcome State Fault Refusal :=
  .next (
    let r := ownRec s bank
    let t := bankTime s (ownBank s bank)
    if recState r = 1 ∧ recOwner r = 15 ∧ t.scrub = none ∧ t.freed + 1000000 ≤ devNs s then
      setOwn (zeroBank s (ownBank s bank)) bank (bset r 20 2 3) BankTime.zero
    else s)

/-- BANK_WAKE (R264, R271): a wake that a declaration has let begin is noted, after an entry that runs; without its repair a bank
does not wake (R279). -/
def execBankWake (bank : BitVec 15) (s : State) : Host.Outcome State Fault Refusal :=
  .next (
    let r := ownRec s bank
    let t := bankTime s (ownBank s bank)
    let from_ := (getCtx s (recOwner r)).bind fun c => declaredWake (devNs s) t.retained (setWakes s c (bfield r 22 4))
    match from_ with
    | some d => if recState r = 2 ∧ t.waking = none ∧ bfield r 31 1 = 0 then setOwn s bank r { t with waking := some d } else s
    | none => s)

/-- BANK_WAKE_COMPLETE (R264, R265). -/
def execBankWakeComplete (bank : BitVec 15) (s : State) : Host.Outcome State Fault Refusal :=
  .next (
    let t := bankTime s (ownBank s bank)
    match t.waking with
    | none => s
    | some due => if due ≤ devNs s then setOwn s bank (bset (ownRec s bank) 20 2 0)
          { t with entering := none, waking := none, missed := [] }
        else s)

/-- PHASE_LEVEL_DUE (R270). -/
def execPhaseLevelDue (slot : BitVec 3) (set : BitVec 4) (s : State) : Host.Outcome State Fault Refusal :=
  .next (modCtx s slot.toNat fun c =>
    match Sparse.find c.phasePend set.toNat with
    | some p => if p.due ≤ gtimeOf s ∧ c.running then
        { c with phase := setLevel c.phase set.toNat p.level, phasePend := Sparse.erase c.phasePend set.toNat,
                 wakeFrom := Sparse.set [] c.wakeFrom set.toNat (setWakes s c set.toNat) } else c
    | none => c)

/-- REFRESH (R275): it never changes data, and its 195 ns lie within the timing that R446 leaves open. -/
def execRefresh (_bank : BitVec 15) (s : State) : Host.Outcome State Fault Refusal := .next s

/-- Step that a reading reaches, and the least reading at which a step is kept (R275). -/
def tstepUp (d : Int) : Nat := if 105 < d then 3 else if 95 ≤ d then 2 else if 85 ≤ d then 1 else 0
def tstepKeep (k : Nat) (d : Int) : Bool := match k with | 0 => true | 1 => decide (83 < d) | 2 => decide (93 < d) | _ => decide (103 < d)

/-- TSTEP after a sample: up at once, down only 2 °C below a bound (R275). -/
def tstepNext (cur : Nat) (d : Int) : Nat :=
  if cur < tstepUp d then tstepUp d
  else ((List.range (cur + 1)).filter fun k => tstepKeep k d).foldl Nat.max 0

/-- TEMPERATURE_SAMPLE (R275). -/
def execTemperatureSample (bank : BitVec 15) (degrees : Int) (s : State) : Host.Outcome State Fault Refusal :=
  .next (
    let r := ownRec s bank
    setOwn s bank (bset r 18 2 (tstepNext (bfield r 18 2) degrees)) (bankTime s (ownBank s bank)))

/-- Bank loss in twentieths (R275). -/
def lossOf (k : Nat) : Nat := match k with | 0 => 1 | 1 => 2 | 2 => 4 | _ => 12

/-- REFLOSS_UPDATE (R276, R277): HOT and LOSS of the column's stack, whose banks are DEEP but for those listed and those whose scrub
runs (R266). The thermal alarm is raised at each update that finds LOSS above 32,768 (log 91). -/
def execReflossUpdate (col : BitVec 3) (s : State) : Host.Outcome State Fault Refusal :=
  .next (
    let lo := s.pkgNo.toNat * 65536 + 4096 * col.toNat
    let listed := s.banks.map (·.1) ++ (s.bankT.filter fun e => scrubbing s e.2 && !(s.banks.any fun x => x.1 == e.1)).map (·.1)
    let awake := ((listed.filter fun b => decide (lo ≤ b) && decide (b < lo + 4096)).map (bankRec s)).filter (recState · ≤ 1) |>.map
      fun r => bfield r 18 2
    let loss := if awake = [] then 0 else 65536 * ((awake.map lossOf).foldl (· + ·) 0) / (20 * awake.length)
    let hot := (awake.filter (1 ≤ ·)).length
    let t := setCol s col.toNat { getCol s col.toNat with refloss := loss + 65536 * hot }
    if 32768 < loss then tellOwner t (.thermalAlarm col.toNat) else t)

/-- REPAIR_COMMIT (R278): the valid entries are being applied. -/
def execRepairCommit (stack : BitVec 3) (s : State) : Host.Outcome State Fault Refusal :=
  .next (setStack s stack.toNat { getStack s stack.toNat with committing := true })

/-- Two valid entries of a stack name one spare or one lane of a pseudo-channel (R278). -/
def repairClash : List Nat → Bool
  | [] => false
  | e :: r => r.any (fun f => bits f 31 26 == bits e 31 26 && (bits f 18 17 == bits e 18 17 || bits f 25 19 == bits e 25 19)) ||
      repairClash r

/-- The valid entries of a stack. -/
def validRepairs (l : List (Nat × Word)) : List (Nat × Nat) :=
  (l.map fun e => (e.1, e.2.toNat)).filter fun e => bits e.2 16 16 == 1

/-- An entry register's bits that are not reserved (R278). -/
def entryBits (v : Word) : Word := v &&& 0xFFFF0000

/-- Repair entries that a board record gives stack `n` (R278). -/
def boardStack (b : Option BoardRecord) (n : Nat) : List (Nat × Word) :=
  ((b.elim [] (·.repairs)).filter fun e => e.1 / 256 == n).map fun e => (e.1 % 256, entryBits e.2)

/-- The bytes listed for a stack of this package take free values, one drawn for each (R279; log 20). -/
def garbleStack (n : Nat) (s : State) : State :=
  let mine := fun (a : Nat) => paPkg a == s.pkgNo.toNat && a / 2 ^ 36 % 16 == n
  (s.mem.filter fun e => mine e.1).foldl (fun t e =>
    let d := draw t
    { d.2 with mem := Memory.write d.2.mem e.1 (d.1.setWidth 8) }) s

/-- The RETAIN banks of a stack that its repair lets wake: what was declared before wakes none of them (R279). -/
def retainAnew (n : Nat) (s : State) : State :=
  let mine := fun (b : Nat) => b / 65536 == s.pkgNo.toNat && b / 4096 % 16 == n && recState (Sparse.get bankReset s.banks b) == 2
  { s with bankT := s.bankT.map fun e => if mine e.1 then (e.1, { e.2 with retained := devNs s }) else e }

/-- Two lists hold the same entries. -/
def sameRepairs (l m : List Nat) : Bool := l.all m.contains && m.all l.contains

/-- REPAIR_COMMIT_DONE (R278, R279): the stack is repaired by the entries as they stand now (log 91), unless two clash; a clash leaves
UNREPAIRED 1, also where the stack was repaired (log 65). Entries other than the board's leave what the stack holds open. -/
def execRepairCommitDone (stack : BitVec 3) (s : State) : Host.Outcome State Fault Refusal :=
  .next (
    let v := getStack s stack.toNat
    if !v.committing then s
    else if repairClash ((validRepairs v.entries).map (·.2)) then
      tellHost (setStack s stack.toNat { v with committing := false, unrepaired := true }) (.repairFailed stack.toNat)
    else
      let t := retainAnew stack.toNat (setStack s stack.toNat { v with committing := false, unrepaired := false })
      if sameRepairs ((validRepairs v.entries).map (·.2)) ((validRepairs (boardStack s.board stack.toNat)).map (·.2)) then t
      else garbleStack stack.toNat t)

/-- The refills of column `c` that are due (R219): one for each microsecond that has begun since the last (log 39). -/
def refillsDue (c : Nat) (s : State) : State :=
  let d := devNs s / 1000 - (getCol s c).refilled
  if d = 0 then s else setCol s c (refill d (getCol s c))

/-- POWER_LIMIT_ADJUST (R409): a reading of 100 µs joins the mean of 1 ms; APPLIED falls by an eighth while the power exceeds LIMIT
and until it is below, and rises by an eighth up to REFILL after. -/
def execPowerLimitAdjust (col : BitVec 3) (watts : Nat) (s : State) : Host.Outcome State Fault Refusal :=
  .next (
    let s1 := refillsDue col.toNat s
    let c := getCol s1 col.toNat
    let l := (watts :: c.samples).take 10
    let m := { c with samples := l, power := l.foldl (· + ·) 0 / l.length % 4096 }
    let down := decide (c.limitOn < watts) || (c.lowering && decide (c.limitOn ≤ watts))
    let e := Nat.max 1 ((c.applied + 7) / 8)
    let next := if down then c.applied - e else if c.limited then Nat.min c.refillOn (c.applied + e) else c.applied
    setCol s1 col.toNat (if c.throttled then m
      else { m with lowering := down, applied := next, limited := down || (c.limited && decide (next < c.refillOn)) }))

/-- THERMAL_ALARM (R409). -/
def execThermalAlarm (col : BitVec 3) (tj : Int) (s : State) : Host.Outcome State Fault Refusal :=
  .next (
    if tj < 110 then s
    else
      let s1 := refillsDue col.toNat s
      let c := { getCol s1 col.toNat with tj := tj }
      tellOwner (setCol s1 col.toNat (if 120 ≤ tj then { c with applied := 0, throttled := true } else c)) (.thermalAlarm col.toNat))

/-- TJ_FALLS_BELOW_110 (R409). -/
def execTjFallsBelow110 (col : BitVec 3) (tj : Int) (s : State) : Host.Outcome State Fault Refusal :=
  .next (
    if 110 ≤ tj then s
    else
      let s1 := refillsDue col.toNat s
      let c := { getCol s1 col.toNat with tj := tj }
      setCol s1 col.toNat (if c.throttled then { c with throttled := false, lowering := false, limited := false, applied := c.refillOn } else c))

/-- DROOP_STRETCH (R410): one DROOP event. -/
def execDroopStretch (col : BitVec 3) (s : State) : Host.Outcome State Fault Refusal :=
  .next (
    let c := getCol s col.toNat
    if c.stretched then s else setCol s col.toNat { c with stretched := true, droop := (c.droop + 1) % 2 ^ 24 })

/-- DROOP_RECOVER (R410). -/
def execDroopRecover (col : BitVec 3) (s : State) : Host.Outcome State Fault Refusal :=
  .next (setCol s col.toNat { getCol s col.toNat with stretched := false })

/-- TLBINV (R289): a write whose GO bit is 1 starts; the register keeps what is written, and a command that still runs goes on. -/
def writeTlbinv (v : Word) (s : State) : State :=
  let go := s.tlbinv.getLsbD 63
  { s with tlbinv := (v &&& 0xFDFFFFFFFFFFFFFF) ||| (if go then 0x8000000000000000 else 0),
           tlbinvq := if go then s.tlbinvq ++ [s.tlbinv] else s.tlbinvq }
/-- TLBINV: the host's write. -/
def execTlbinv (v : BitVec 64) (s : State) : Host.Outcome State Fault Refusal := .next (writeTlbinv v s)

/-- A page of a size lies in the range of a TLBINV, or the command names the whole context (R289). -/
def rangeNamed (v page lg : Nat) : Bool :=
  let lo := bits v 56 16 * 65536
  bits v 62 62 == 1 || (decide (page * 2 ^ lg < lo + (bits v 15 0 + 1) * 65536) && decide (lo < (page + 1) * 2 ^ lg))

/-- The entry is one that the TLBINV register names (R289). -/
def tlbNamed (v : Nat) (e : TlbEntry) : Bool := e.slot == bits v 61 59 && rangeNamed v e.page e.leaf.lg

/-- The store was translated by an entry that a TLBINV names. -/
def storeNamed (s : State) (v k : Nat) (e : StoreEntry) : Bool :=
  engSlotOf s k == some (bits v 61 59) && rangeNamed v (e.va / 2 ^ e.lg) e.lg

/-- The accesses of the context that a TLBINV names are not all performed: a command or transfer still reads through pages that it
translated before (R218, R250), or a buffered store waits, one of a saved core for the core to run again (R352, R357; log 90). -/
def invHeld (v : Nat) (s : State) : Bool :=
  pagesHeld s (fun k p => engSlotOf s k == some (bits v 61 59) && rangeNamed v (p.1 / 2 ^ p.2.lg) p.2.lg) ||
    drainHeld (storeNamed s v) s || savedHeld (fun slot e => slot == bits v 61 59 && rangeNamed v (e.va / 2 ^ e.lg) e.lg) s

/-- What a TLBINV does in this package (R289): the context's buffered stores through pages that overlap the range are performed, and
the entries that it names are dropped in every TLB. -/
def tlbInvalidate (v : Nat) (s : State) : State :=
  let t := drainWhere (storeNamed s v) s
  { t with tlb := t.tlb.filter (fun e => !tlbNamed v e) }

/-- TLBINV_DONE (R289): GO reads 0 once no entry that a running command names is left and every access through one is performed. -/
def execTlbinvDone (s : State) : Host.Outcome State Fault Refusal :=
  .next (
    let l := (s.tlbinvq ++ [s.tlbinv]).map (·.toNat)
    if s.tlbinv.getLsbD 63 ∧ !(l.any fun v => invHeld v s) then
      { l.foldl (fun t v => tlbInvalidate v t) s with tlbinv := s.tlbinv &&& 0x7FFFFFFFFFFFFFFF, tlbinvq := [] }
    else s)

/-- An entry put into a TLB of `cap` entries: the oldest gives way in a full one (R287; log 41). -/
def tlbPut (cap : Nat) (e : TlbEntry) (l : List TlbEntry) : List TlbEntry :=
  let mine := l.filter fun x => x.home == e.home
  (if cap ≤ mine.length then (match mine with | o :: _ => l.erase o | [] => l) else l) ++ [e]

/-- PAGE_WALK (R285, R287, R288): the miss of the focused core's context at an address is walked; a leaf that passes its bank
checks goes into the core's TLB of 64 entries and its column's of 4,096, a faulting walk caches nothing. -/
def execPageWalk (slot : BitVec 3) (va : BitVec 64) (s : State) : Host.Outcome State Fault Refusal :=
  .next (
    if bits va.toNat 63 57 ≠ 0 ∨ (tlbHit s slot.toNat va.toNat).isSome then s
    else
      let t := touchWalk s slot.toNat va.toNat
      match walk s slot.toNat va.toNat with
      | .ok lf =>
        let e : TlbEntry := { home := s.coreNo, slot := slot.toNat, page := va.toNat / 2 ^ lf.lg, leaf := lf }
        { t with tlb := tlbPut 4096 { e with home := 128 + colOf s.coreNo } (tlbPut 64 e t.tlb) }
      | .error _ => t)

/-- Key-table entry of this package (R291). -/
def ownKey (s : State) (h : BitVec 10) : Nat := s.pkgNo.toNat * 1024 + h.toNat

/-- KEY_LOAD (R291): refused into a VALID entry; entry 0 stands for no key. -/
def execKeyLoad (h : BitVec 10) (key1 key2 : BitVec 256) (lid base : BitVec 64) (holders : BitVec 8) (s : State) :
    Host.Outcome State Fault Refusal :=
  .next (
    if h = 0 ∨ (Sparse.get none s.keys (ownKey s h)).isSome then tellHost s .keyRefused
    else
      let k : KeyEntry := { key1 := key1, key2 := key2, lid := lid.toNat % 2 ^ 32, base := base.toNat, holders := holders.toNat }
      { s with keys := Sparse.set none s.keys (ownKey s h) (some k) })

/-- An access that presents a key handle of this package is still to come: a transfer's or a copy's that waits, its pages
translated (R250, R291, R419). -/
def keyHeld (s : State) (h : Nat) : Bool :=
  (s.lanes.any fun p => p.2.fly.any fun x => x.pend.any fun q => q.kh == h) ||
    (List.range 128).any fun k =>
      let c := getCore s k
      !(getRing c 2).pages.isEmpty && bits (takenBytes c 2) 14 5 == h

/-- KEY_UNLOAD (R291): once every access that presents the handle is performed. -/
def execKeyUnload (h : BitVec 10) (s : State) : Host.Outcome State Fault Refusal :=
  .next <| if keyHeld s h.toNat then s else
    { s with keys := Sparse.set none s.keys (ownKey s h) none }

/-- MCLOG_READ (R397): the head is popped, and LOST is told with it. -/
def execMclogRead (s : State) : Host.Outcome State Fault Refusal :=
  .next { s with mclog := s.mclog.drop 1, mcLost := false }

/-- GTIME_ALIGNMENT_LOSS (R390). -/
def execGtimeAlignmentLoss (ieee : Bool) (s : State) : Host.Outcome State Fault Refusal := .next (tellHost s (.alignmentLoss ieee))

/-- IDE_ESTABLISHMENT (R400). -/
def execIdeEstablishment (link : BitVec 2) (s : State) : Host.Outcome State Fault Refusal :=
  .next { s with ide := if s.ide.contains link.toNat then s.ide else s.ide ++ [link.toNat] }

end Sys2Proof.Machine
end

