-- ==== Sys2Proof/Machine/Host.lean ====
section
/-! DEFINITION. Contexts and their partitions (R378 to R392, R398, R399): residency, launches, the scheduler's choices,
pre-emption with its save and restore, kills, the host's registers (R401), and the two resets (R405, R406). -/
namespace Sys2Proof.Machine

def setPart (s : State) (p : Nat) (v : Part) : State := { s with parts := Sparse.set Part.idle s.parts p v }

/-- A partition that exists and contains no failed column (R378, R408). -/
def partOk (s : State) (p : Nat) : Bool :=
  decide (p < 8 / partWidth s) && (List.range (partWidth s)).all fun i => !(getCol s (partWidth s * p + i)).failed

/-- Width of the context matches the partitions' (R379). -/
def widthOk (s : State) (slot : Nat) : Bool := match getCtx s slot with | some c => 2 ^ c.width == partWidth s | none => false

/-- Class of a context. -/
def ctxClass (s : State) (slot : Nat) : Nat := match getCtx s slot with | some c => c.cls | none => 4

/-- Contexts as partition `p` prefers them within a class: the one that ran least recently first, and the one that runs there last
(R383). -/
def byRecency (s : State) (p : Nat) : List Nat :=
  match (getPart s p).slot with
  | some x => s.recency.filter (· != x) ++ s.recency.filter (· == x)
  | none => s.recency

/-- The ready context of matching width that partition `p` may choose, of the least class, and of those the one that ran
least recently (R383). -/
def choose (s : State) (p : Nat) : Option Nat :=
  let cand := (byRecency s p).filter fun x => ready s x && widthOk s x &&
    ((getPart s p).slot == some x || (match getCtx s x with | some c => !liveCtx s x c | none => false))
  [0, 1, 2, 3].findSome? fun k => cand.find? fun x => ctxClass s x == k

/-- Partition `p` may run the context: ready, of its width, and on no other partition (R383). -/
def mayRun (s : State) (p x : Nat) : Bool :=
  ready s x && widthOk s x && (match getCtx s x with | some c => !liveCtx s x c || c.part == p | none => false)

/-- What partition `p` is to run: the context that a gang switch named, when it may; without one, the class-0 context that the
switch stopped; else the scheduler's choice (R383, R392). -/
def chosen (s : State) (p : Nat) : Option Nat :=
  let v := getPart s p
  (v.next.filter (mayRun s p)).or ((v.keep.filter (mayRun s p)).or (choose s p))

/-- A pre-emption of partition `p` begins, and finds its nests where they stand; one that runs already is merged (R223, R386,
R392). -/
def trigger (s : State) (p : Nat) (next keep : Option Nat) (kill : Bool) : State :=
  let v := getPart s p
  let v1 := { v with next := next.or v.next, keep := keep.or v.keep, kill := v.kill || kill }
  if v.slot.isSome && v.phase == .running then
    (partCores s p).foldl (fun t k => setCore t k (markNests (getCore t k))) (setPart s p { v1 with phase := .stopping, late := false })
  else setPart s p v1

/-- A slot becomes the one that ran most recently (R383). -/
def mostRecent (s : State) (slot : Nat) : State := { s with recency := s.recency.filter (· != slot) ++ [slot] }

/-- A quantum begins (R383). -/
def quantumOf (s : State) (slot : Nat) : Option Nat :=
  match getCtx s slot with
  | some c => if c.quantum = 0 then none else some (devNs s + 1000 * c.quantum)
  | none => none

/-- QUANTUM_EXPIRY (R383): a class-0 context, or one that no ready context may follow, continues with a new quantum. -/
def execQuantumExpiry (part : BitVec 3) (s : State) : Host.Outcome State Fault Refusal :=
  .next (
    let p := part.toNat
    let v := getPart s p
    match v.slot, v.quantum with
    | some x, some due =>
      if devNs s < due ∨ v.phase ≠ .running then s
      else if ctxClass s x ≠ 0 ∧ (s.recency.any fun y => y != x && ready s y && widthOk s y && decide (ctxClass s y ≤ ctxClass s x) &&
          (match getCtx s y with | some c => !liveCtx s y c | none => false)) then trigger s p none none false
      else setPart s p { v with quantum := quantumOf s x }
    | _, _ => s)

/-- A class-0 context that partition `p` may run has become ready since its running one was chosen (R383). -/
def woken (s : State) (p : Nat) : Bool :=
  s.recency.any fun y => mayRun s p y && ctxClass s y == 0 && !(getPart s p).seen.contains y

/-- The running context of a partition gives way of the scheduler's own accord: it has halted and another is ready, or it
is of class 1 to 3 and one of class 0 becomes ready (R383). -/
def givesWay (s : State) (p : Nat) : Bool :=
  match (getPart s p).slot with
  | none => false
  | some x =>
    let other := match choose s p with | some y => y != x | none => false
    (allQuiet s p && other) ||
      (ctxClass s x != 0 && woken s p && (match choose s p with | some y => ctxClass s y == 0 | none => false) && other)

/-- The ready contexts, whose readiness a choice of the scheduler has taken into account (R383). -/
def readySlots (s : State) : List Nat := s.recency.filter (ready s)

/-- A partition has taken the context: for the others its readiness is decided on (R383). -/
def takenBy (slot : Nat) (s : State) : State :=
  { s with parts := s.parts.map fun e =>
      (e.1, if e.2.slot.isSome && !e.2.seen.contains slot then { e.2 with seen := e.2.seen ++ [slot] } else e.2) }

/-- A step of the walker may be sent again (R373). -/
def repeatableStep (w : Walker) : Bool :=
  let c := collOf w.record
  c.kind == 2 || (c.kind == 0 && c.stl == 0)

/-- A command's packets need not be awaited: they can be sent again, and time is up; or each of them waits for a destination
context (R357, R373). An NXPERT that has raised a timeline always completes. -/
def cmLets (s : State) (late : Bool) (w : CmWait) : Bool :=
  !w.raised &&
    ((w.repeatable && late) || ((w.repeatable || w.waiting == w.sent) && w.waiting.all fun e => s.retryq.contains e.2))

/-- Nothing that step `n` of a walker sent has been taken, nor has it used a part of another member: all its pieces wait for a
destination context, or all for partial results (R357, R373; log 73). -/
def stepUnsent (s : State) (w : Walker) (n : Nat) : Bool :=
  let c := collOf w.record
  let whole := (pieces c.len).length
  let mine := w.waiting.filter fun e => e.1 == n
  let sent := mine.filter fun e => !isMark e
  (sent.length == whole && sent.all (fun e => e.2.op == 5 && s.retryq.contains e.2) &&
      (c.kind != 3 || c.rank == 0 || sent.all fun e => e.2.flg == 1)) ||
    (sent.isEmpty && mine.length == whole && mine.all fun e => pktKind e.2 == 3)

/-- No step of the walker beyond STEP has completed: those from STEP + 1 on are all pending (R373). -/
def noneBeyond (w : Walker) : Bool :=
  ((w.waiting.map (·.1) ++ w.refused.toList).eraseDups).length == w.next - 1 - walkerStep w

/-- The same of a walker (R373): steps that are not repeatable are abandoned only where none beyond STEP has been applied, so that none
is applied twice. -/
def walkerLets (s : State) (late : Bool) (w : Walker) : Bool :=
  if repeatableStep w then late || w.waiting.all fun e => s.retryq.contains e.2
  else noneBeyond w && w.waiting.all fun e => stepUnsent s w e.1

/-- A buffered store waits for a link that retrains (R352), which a pre-emption waits for too (R386). -/
def drainRetrains (s : State) : Bool := s.core.sb.any fun e => reachable s (paPkg e.pa) && retrains s (paPkg e.pa)

/-- The engines and the store buffer of the focused core have done what a pre-emption waits for (R386); a retired core does no more
(R398). -/
def coreStopped (late kill : Bool) (s : State) : Bool :=
  let c := s.core
  c.retired ||
    (!drainRetrains s &&
     ([false, true].all fun sk => match getNest sk c with | none => true | some n => n.stop) &&
      c.cmwait.all (cmLets s late) && c.walkers.all (walkerLets s late) &&
      (kill || !(s.aborts.any fun r => r.core == s.coreNo && r.seq.isSome)))

/-- A resume record (R389). -/
def resumeRecord (sk : Bool) (n : Nest) (c : Core) : BitVec 16384 :=
  let e := encodeEntry (if n.sliced then .mmsl n.cmd else if sk then .skgo n.cmd else .mmgo n.cmd)
  let held := n.popped == some (n.idx.drop ((imgLevels n.image).findIdx fun x => x.mp))
  let idx := (List.range 6).map fun i => (16, n.idx.getD i 0)
  .ofNat 16384 (pack ([(1280, n.image.toNat)] ++ idx ++
    [(8, n.pair), (1, 1), (1, if held then 1 else 0), (22, 0), (64, e % 2 ^ 64), (64, n.detail % 2 ^ 48),
     (64, (paused sk c).toNat), (448, 0), (6144, n.pal.toNat), (8192, if held then (n.held.getD 0).toNat else 0)]))

/-- Both rings' records are in resume0 and resume1. -/
def setResume (sk : Bool) (c : Core) (r : BitVec 16384) : Core := if sk then { c with resume1 := r } else { c with resume0 := r }
def getResume (sk : Bool) (c : Core) : BitVec 16384 := if sk then c.resume1 else c.resume0

/-- Word `w` of resume record `r` in the accumulator store, as MCLOG and the model's list of bad words number it: the status words
stand below 128 (R397; log 68). -/
def resumeWord (sk : Bool) (w : Nat) : Nat := 128 + 256 * (if sk then 1 else 0) + w

/-- The uncorrectable words of a resume record. -/
def resumeBad (sk : Bool) (c : Core) : List (Nat × Nat) :=
  c.badTiles.filter fun e => e.1 == 127 && decide (resumeWord sk 0 ≤ e.2) && decide (e.2 < resumeWord sk 256)

/-- A nest stops at a step boundary: its resume record is written, or not when a kill saves nothing (R223, R386, R399). -/
def stopNest (kill sk : Bool) (s : State) : State :=
  match getNest sk s.core with
  | none => s
  | some n =>
    let c := setNest sk s.core none
    let bad := resumeBad sk c
    dropRequest s.coreNo sk (withCore s (if kill then c
      else setResume sk { c with badTiles := c.badTiles.filter fun e => !bad.contains e } (resumeRecord sk n s.core)))

/-- A resume record that a restore needs and cannot read: its first uncorrectable word (R198, R389). -/
def resumeLost (sk : Bool) (c : Core) : Option Nat :=
  match resumeBad sk c with
  | [] => none
  | e :: l =>
    if (getResume sk c).getLsbD 1384 || (e :: l).any (fun x => x.2 == resumeWord sk 21) then some (127 * 2 ^ 16 + e.2) else none

/-- A nest continues from its VALID record, and from the command that the record holds; VALID is cleared (R236, R389). With an
uncorrectable word in the record its entry stops with MACHINE_CHECK, with the record's DETAIL and STATX (R198, R231; log 68). -/
def resumeNest (sk : Bool) (c : Core) : Core :=
  let r := (getResume sk c).toNat
  let q := if sk then 1 else 0
  if (resumeLost sk c).isSome then
    if (getRing c q).occ = 0 then c
    else setRing (setResume sk c (.ofNat 16384 (r - r / 2 ^ 1384 % 2 * 2 ^ 1384))) q { getRing c q with results :=
      [{ code := codeCheck, detail := r / 2 ^ 1472 % 2 ^ 48, statx := .ofNat 64 (r / 2 ^ 1536), tag := 0, rtl := 0, fills := [], busy := false, posted := false }] }
  else if !r.testBit 1384 then c
  else
    match parseEntry (r / 2 ^ 1408 % 2 ^ 64) with
    | none => c
    | some (_, num, _, cmd) =>
      let image : BitVec 1280 := .ofNat 1280 r
      let l := imgLevels image
      let idx := (splitEls 16 6 (r / 2 ^ 1280 % 2 ^ 96)).take l.length
      let held := r.testBit 1385
      let n : Nest :=
        { image := image, cmd := cmd, sliced := q == 0 && num == 3, pal := .ofNat 6144 (r / 2 ^ 2048), idx := idx,
          pair := r / 2 ^ 1376 % 256, held := if held then some (.ofNat 8192 (r / 2 ^ 8192)) else none,
          popped := if held then some (idx.drop (l.findIdx fun x => x.mp)) else none, detail := r / 2 ^ 1472 % 2 ^ 48 }
      let c1 := setPaused sk (setNest sk c (some n)) (r / 2 ^ 1536 % 2 ^ 64)
      setResume sk c1 (.ofNat 16384 (r - 2 ^ 1384))

/-- The entries of a ring that have run to their end complete, and one that cannot stops the ring (R386). -/
def finishEntries (q : Nat) (s : State) : State :=
  let posted := [7, 6, 5, 4, 3, 2, 1].foldl (fun c n => completeEntry q n c) s.core
  stopRing q (withCore s ((List.range 8).foldl (fun c _ => completeEntry q 0 c) posted))

/-- Results of ring `q` of which the test is true begin again (R373, R386): their fills are given up, and of the metadata entries
that one has appended DETAIL keeps the count (R419). -/
def againWhere (q : Nat) (f : Result → Bool) (c : Core) : Core :=
  let g := getRing c q
  let c1 := (g.results.zipIdx).foldl (fun d p =>
    if !f p.1 then d
    else
      let e := p.1.fills.foldl fillDrop d
      if p.1.mq then writeStatus e q ((g.rp + p.2) % 64) 0 p.1.detail false false 0 else e) c
  let again := fun (r : Result) => if f r then { r with redo := true, busy := false, fills := [] } else r
  setRing c1 q { getRing c1 q with results := g.results.map again }

/-- Metadata entries appended so far by an entry that has not completed stand in its DETAIL (R35, R218, R419). -/
def keepAppended (q : Nat) (c : Core) : Core :=
  let g := getRing c q
  if g.appended = 0 then c
  else
    let d := writeStatus c q (nextEntry c q) 0 g.appended false false 0
    setRing d q { getRing d q with appended := 0 }

/-- SKSCORE's count on its slot is removed while it waits (R214, R386). -/
def dropSkscore (s : State) : State :=
  match s.core.skCounted with
  | some x => dropRequest s.coreNo true (withCore s { dropUser s.core x with skCounted := none, grantSK := false })
  | none => s

/-- A walker's position is STEP + 1 (R373). -/
def rewindWalker (w : Walker) : Walker := { w with next := walkerStep w + 1, waiting := [] }

/-- The CM engine gives up what it still waits for (R373): commands begin again, those too that have waited to act, and walkers
stand at STEP + 1. -/
def dropComm (c : Core) : Core :=
  let waits := c.cmwait.map (·.seq)
  let g := getRing c 3
  let again := fun (p : Result × Nat) =>
    if waits.contains (g.rseq + .ofNat 64 p.2) ∨ p.1.redo then
      { p.1 with redo := true, busy := false, trans := false, held := false, bytes := none }
    else p.1
  let d := setRing c 3 { g with results := g.results.zipIdx.map again }
  { d with cmwait := [], walkers := c.walkers.map rewindWalker }

/-- Steps 1 to 4 of R57 on a core that a pre-emption stops (R386). Inside a handler the landing buffer stays as it stands (R388),
and the handler's own results in flight keep their landing ticks (log 40). -/
def stopThread (s : State) : State :=
  if s.core.tstat.getLsbD 0 then
    let due := s.core.pend.foldl (fun m e => Nat.max m e.2) s.core.cycle
    passCycles (due - s.core.cycle) (withCore s { landTo s.core.ticks s.core with pend := [] })
  else capture s.core.ticks s

/-- Every buffered store is performed, oldest first, but those that wait for a destination context, and what must come after one of
them in co or in the order of S-kind stores: these stay (R296, R297, R357, R386; log 90). -/
def drainStop (slot : Nat) (s : State) : State :=
  s.core.sb.foldl (fun t e =>
    let left := t.core.sb ++ [e]
    if storeWaits t slot e || !canDrain left t.core.sb.length then withCore t { t.core with sb := left } else performStore slot e t)
    (withCore s { s.core with sb := [] })

/-- Steps 1 to 3 of R386 on the focused core, for the context in `slot`: the thread stops, engines end what they have begun, and
the buffered stores are performed. Tokens granted for a step that has not run are neither kept nor given back (log 83). -/
def stopCore (slot : Nat) (kill : Bool) (s : State) : State :=
  let s2 := (List.range 6).foldl (fun t q => finishEntries q t) (stopThread s)
  let s3 := dropSkscore (stopNest kill true (stopNest kill false s2))
  let s4 := drainStop slot s3
  let c := dropComm (keepAppended 2 (keepAppended 0 s4.core))
  withCore s4 { c with sb := if kill then [] else c.sb, xstop := none, grantMX := false, grantSK := false,
                       rings := c.rings.map fun p => (p.1, { p.2 with pages := [], taken := none }) }

/-- Lanes of a partition end their transfers (R258). -/
def stopLanes (w p : Nat) (s : State) : State :=
  (List.range w).foldl (fun t i => laneOff (w * p + i) t) s

/-- A core as a switch saves it (R180, R387, R398). -/
def saveImage (c : Core) : Core :=
  let poison := fun (v : Sparse VReg) (e : Nat × Nat × Nat) =>
    if e.1 ≠ 0 then v
    else
      let x := Sparse.get VReg.zero v e.2.1
      let l := if e.2.2 = 32 then laneOf c.lanemap else e.2.2
      Sparse.set VReg.zero v e.2.1 { x with pz := x.pz ||| .ofNat 1024 ((2 ^ 32 - 1) * 2 ^ (32 * l)) }
  { c with rows := c.rows.filter (fun e => rowSaved c.livemark e.1), badRows := c.badRows.filter (fun e => rowSaved c.livemark e.1),
           vregs := (c.parityBad.filter fun e => laneUsed c e.2.2).foldl poison c.vregs, spareV := [], spareP := [],
           parityBad := [], icache := [], cpath := [], cycle := 0, lanemap := 0, retired := false, swapLeft := 0 }

/-- What stays with the core when its context leaves it: CYCLE, LANEMAP, the slices of the lane out of use, and retirement. -/
def emptyCore (c : Core) : Core :=
  { Core.blank with cycle := c.cycle, lanemap := c.lanemap, retired := c.retired, swapLeft := c.swapLeft, spareV := c.spareV,
                    spareP := c.spareP, parityBad := c.parityBad.filter fun e => !laneUsed c e.2.2 }

/-- The exposed results that a pre-emption captured are in flight again (R75, R387); inside a handler the landing buffer is the
handler's (R388). -/
def thaw (c : Core) : Core :=
  if c.tstat.getLsbD 0 then c
  else
    { c with lbcnt := 0, inflight := c.inflight ++
        (List.range c.lbcnt).filterMap fun j => reinstate c.ticks (Sparse.get LbEntry.empty c.lb j) }

/-- A saved core restored onto a core (R387). -/
def restoreCore (cur img : Core) : Core :=
  resumeNest true (resumeNest false (thaw
    { img with cycle := cur.cycle, lanemap := cur.lanemap, retired := cur.retired, swapLeft := cur.swapLeft,
               spareV := cur.spareV, spareP := cur.spareP, parityBad := cur.parityBad.filter fun e => !laneUsed cur e.2.2 }))

/-- Every page of a byte range is writable without a key and without a tolerant kind (R379). -/
def plainPages (s : State) (slot : Nat) : Nat → Nat → Bool
  | 0, _ => true
  | n + 1, va =>
    (match walk s slot va with
     | .ok lf => bits va 63 57 == 0 && lf.w && lf.kh == 0 && lf.tol == 0
     | .error _ => false) && plainPages s slot n (va + 65536)

/-- The tree maps a page writable, without a key handle and without a tolerant kind (R379): the banks are no part of that test, and
of the tree only what cannot be read is not mapped. -/
def mapsPlain (s : State) (c : Ctx) (va : Nat) : Option Leaf :=
  match walkFrom s (nodeStack s) va 4 3 c.ptroot with
  | .ok lf => if bits va 63 57 = 0 ∧ lf.w ∧ lf.kh = 0 ∧ lf.tol = 0 then some lf else none
  | .error _ => none

/-- The pages that residency tests: the save area's, the trap-record area's, and the doorbell's (R379). -/
def areaPages (c : Ctx) : List Nat :=
  let n := 16 * 2 ^ c.width
  (List.range (128 * n)).map (fun i => c.savebase + 65536 * i) ++
    (List.range ((c.trbase % 65536 + 128 * n + 65535) / 65536)).map (fun i => c.trbase / 65536 * 65536 + 65536 * i) ++
    if c.dbell = 0 then [] else [c.dbell]

/-- The save area and the trap-record area of a context are mapped as R379 asks, and its doorbell S-kind. -/
def areasOk (s : State) (c : Ctx) : Bool :=
  ((areaPages c).all fun va => (mapsPlain s c va).isSome) && (c.dbell == 0 || (mapsPlain s c c.dbell).any fun lf => lf.kind == 0)

/-- What the test reads of the tree reaches the banks (R263, R285). -/
def areasTouch (slot : Nat) (c : Ctx) (s : State) : State :=
  (areaPages c).foldl (fun t va => (walkReads s (nodeStack s) va 4 3 c.ptroot).foldl (fun t pa => touchBank t slot pa) t) s

/-- Sector `b` of DRAM lies in a context's save area (R379). -/
def inSave (s : State) (slot : Nat) (c : Ctx) (b : Nat) : Bool :=
  (List.range (128 * 16 * 2 ^ c.width)).any fun i =>
    match walk s slot (c.savebase + 65536 * i) with
    | .ok lf => b / 1024 == physOf lf (c.savebase + 65536 * i) / 65536
    | .error _ => false

/-- The save area can be written (R379). -/
def saveOk (s : State) (slot : Nat) (c : Ctx) : Bool := plainPages s slot (128 * 16 * 2 ^ c.width) c.savebase

/-- The save area can be read: no sector of it is uncorrectable (R379). -/
def loadOk (s : State) (slot : Nat) (c : Ctx) : Bool :=
  saveOk s slot c && !s.badMem.any (inSave s slot c) && !s.badL2.any fun e => inSave s slot c e.1

/-- The save area waits for a link of the route to it (R352). -/
def saveWaits (s : State) (slot : Nat) (c : Ctx) : Bool :=
  (List.range (128 * 16 * 2 ^ c.width)).any fun i => match walk s slot (c.savebase + 65536 * i) with
    | .error e => e == codeRetry
    | .ok _ => false

/-- What a save or a restore does to the banks of its area, which it writes or reads whole (R263 to R265, R273; log 27). -/
def saveTouch (slot : Nat) (c : Ctx) (s : State) : State :=
  (List.range (128 * 16 * 2 ^ c.width)).foldl (fun t i =>
    let va := c.savebase + 65536 * i
    match walk t slot va with
    | .ok lf => touchMany 1024 (touchWalk t slot va) slot (physOf lf va)
    | .error _ => t) s

/-- A save writes its area whole, so that its sectors are correct after it (R396; log 27). -/
def mendSave (slot : Nat) (c : Ctx) (s : State) : State :=
  { s with badMem := s.badMem.filter fun b => !inSave s slot c b, badL2 := s.badL2.filter fun e => !inSave s slot c e.1 }

/-- A context leaves residency: its slot and its translations are empty, its requests for banks are given up (log 79), and its
holders are cleared when it is killed (R291, R399). -/
def leave (kill : Bool) (slot : Nat) (s : State) : State :=
  let mine := fun (k : Nat) => k / 1024 == s.pkgNo.toNat
  { s with ctxs := Sparse.set none s.ctxs slot none, recency := s.recency.filter (· != slot),
           bankReqs := s.bankReqs.filter (fun r => r.ctx != slot),
           tlb := s.tlb.filter (fun e => e.slot != slot),
           keys := if kill then s.keys.map fun e => (e.1, e.2.map fun k => if mine e.1 then
             { k with holders := k.holders - (if k.holders.testBit slot then 2 ^ slot else 0) } else k) else s.keys }

/-- The abort that a kill starts for an NCOLL that had not completed (R370, R399). -/
def killRound (slot : Nat) (c : Ctx) (k : Nat) (record : Row) (s : State) : State :=
  let r := collOf record
  match tablePeers slot r.mtab s r.gsize 0, peersTouch slot r.mtab r.gsize s with
  | .error _, s => s
  | .ok l, s => startRound slot
      { group := r.group, core := k, job := c.job, members := l.map Peer.id, awaiting := [], least := 0, seq := none } s

/-- Records of the NCOLLs of a core that have started and not completed, those that stopped at the ring's head too (R399). -/
def openColls (c : Core) : List Row := c.walkers.map (·.record) ++ (getRing c 3).results.filterMap fun x => if x.code = 0 then none else x.coll

/-- Aborts that the context's own NABORTs started go on without it (R370, R399). -/
def orphanRounds (job : Nat) (s : State) : State :=
  { s with aborts := s.aborts.map fun r => if r.job = job then { r with seq := none } else r }

/-- The end of a kill (R399): its groups are aborted, and the context leaves residency. -/
def killEnd (slot : Nat) (s : State) : State :=
  match getCtx s slot with
  | none => s
  | some c =>
    let n := 16 * 2 ^ c.width
    let s1 := (List.range n).foldl (fun t i =>
      let k := n * c.part + i
      (openColls (ctxCore t slot k)).foldl (fun t w => killRound slot c k w t) t) (orphanRounds c.job s)
    let live := liveCtx s slot c
    let s2 := if live then (List.range n).foldl (fun t i =>
        setCore t (n * c.part + i) (emptyCore (getCore t (n * c.part + i)))) s1 else s1
    let s3 := if live then (List.range (2 ^ c.width)).foldl (fun t i => setLane t (2 ^ c.width * c.part + i) Lane.idle) s2 else s2
    settleStops (leave true slot
      (if live then setPart s3 c.part { Part.idle with next := (getPart s3 c.part).next, keep := (getPart s3 c.part).keep } else s3))

/-- Requests of a job that wait under RETRY are abandoned; an abort's STOPs and ABORTs are not (R357, R370, R373). -/
def dropRetries (job : Nat) (s : State) : State :=
  { s with retryq := s.retryq.filter fun k => !(k.job.toNat == job && decide (k.op.toNat < 6)) }

/-- Every core of a partition stops (R386); the members whose transfers have ended with it answer their STOPs (R370). -/
def stopAll (slot p : Nat) (kill : Bool) (s : State) : State :=
  let t := (partCores s p).foldl (fun t k => onCore k (stopCore slot kill) t) (stopLanes (partWidth s) p s)
  settleStops (dropRetries ((getCtx s slot).elim 0 (·.job)) t)

/-- PREEMPTION (R383, R386): the scheduler's own trigger, or steps 1 to 3 of a pre-emption once its engines have done what
they must; a kill ends with them. -/
def execPreemption (part : BitVec 3) (s : State) : Host.Outcome State Fault Refusal :=
  .next (
    let p := part.toNat
    let v := getPart s p
    match v.slot with
    | none => s
    | some slot =>
      match v.phase with
      | .running => if givesWay s p then trigger s p none none false else s
      | .stopping =>
        if (partCores s p).all (fun k => coreStopped (v.late || v.kill) v.kill (focus k s)) then
          let t := stopAll slot p v.kill s
          if v.kill then killEnd slot t else setPart t p { v with phase := .saving }
        else s
      | .saving => s)

/-- PREEMPT_REQUEST (R386): host software asks for a pre-emption. -/
def execPreemptRequest (part : BitVec 3) (s : State) : Host.Outcome State Fault Refusal :=
  .next (if (getPart s part.toNat).phase = .running then trigger s part.toNat none none false else s)

/-- CP entries that have not completed are abandoned: their fills are given up, the count of their metadata entries stays, and they
run again after the restore (R386, R419). -/
def abandonCopies (c : Core) : Core := againWhere 2 (fun r => !r.posted && r.code == 0) (keepAppended 2 c)

/-- PREEMPT_ABANDON_DEADLINE (R373, R386). -/
def execPreemptAbandonDeadline (part : BitVec 3) (s : State) : Host.Outcome State Fault Refusal :=
  .next (
    let p := part.toNat
    let v := getPart s p
    if v.phase ≠ .stopping then s
    else (partCores s p).foldl (fun t k => setCore t k (abandonCopies (getCore t k))) (setPart s p { v with late := true }))

/-- A save area that cannot be used kills the context, and the event is logged (R379). -/
def saveLost (slot : Nat) (s : State) : State := killEnd slot (logMc s (mcEntry 3 7 0 slot 0))

/-- CONTEXT_SAVE (R387): the context's cores and lanes are saved and the partition is free; a save area that cannot be
written kills the context (R379). -/
def execContextSave (part : BitVec 3) (s : State) : Host.Outcome State Fault Refusal :=
  .next (
    let p := part.toNat
    let v := getPart s p
    match v.slot with
    | none => s
    | some slot =>
      match getCtx s slot with
      | none => s
      | some c =>
        if v.phase ≠ .saving then s
        else if saveWaits s slot c then s
        else if !saveOk s slot c then saveLost slot s
        else
          let u := saveTouch slot c s
          let n := 16 * partWidth s
          let saved := (List.range n).foldl (fun (m : Sparse Core) i =>
            Sparse.set Core.blank m i (saveImage (getCore s (n * p + i)))) []
          let lanes := (List.range (partWidth s)).foldl (fun (m : Sparse Lane) i =>
            Sparse.set Lane.idle m i (getLane s (partWidth s * p + i))) []
          let s1 := setCtx (mendSave slot c u) slot
            ((getCtx u slot).map fun d => { phaseCommit u d with saved := saved, lanes := lanes, running := false })
          let s2 := (List.range n).foldl (fun t i => setCore t (n * p + i) (emptyCore (getCore t (n * p + i)))) s1
          let s3 := (List.range (partWidth s)).foldl (fun t i => setLane t (partWidth s * p + i) Lane.idle) s2
          mostRecent (setPart s3 p { Part.idle with next := v.next, keep := v.keep }) slot)

/-- What names cores or columns of the old partition, moved to the new one (R445). -/
def moveLane (n old new : Nat) (v : Lane) : Lane := { v with owner := (v.owner.1 + n * new - n * old, v.owner.2) }
def moveKv (w old new : Nat) (e : Nat × KvStore) : Nat × KvStore :=
  (e.1 + w * new - w * old, { e.2 with holds := e.2.holds.map fun h => (h.1 + 128 * w * new - 128 * w * old, h.2) })

def moveBuf (n old new : Nat) (e : Nat × Buf) : Nat × Buf := (e.1, { e.2 with who := e.2.who.map fun k => k + n * new - n * old })

/-- The context occupies partition `p` and runs there. -/
def occupy (s : State) (p slot : Nat) (c : Ctx) : State :=
  let w := 2 ^ c.width
  let c0 := phaseResume s c
  let c1 := { c0 with part := p, running := true, launched := true, saved := [], lanes := [],
                                             kv := c.kv.map (moveKv w c.part p),
                                             bufs := c.bufs.map (moveBuf (16 * w) c.part p) }
  let s1 := setCtx s slot (some c1)
  let s2 := (List.range w).foldl (fun t i => setLane t (w * p + i) (moveLane (16 * w) c.part p (Sparse.get Lane.idle c.lanes i))) s1
  mostRecent (takenBy slot (setPart s2 p { Part.idle with slot := some slot, quantum := quantumOf s slot, seen := readySlots s })) slot

/-- A saved core comes back to core `k`; a resume record that cannot be read is logged (R198, R387). -/
def restoreAt (k : Nat) (img : Core) (s : State) : State :=
  let t := [false, true].foldl (fun t sk => match resumeLost sk img with
    | some p => logMc t (mcEntry 2 3 k ((slotOf t k).getD 0) p)
    | none => t) s
  setCore t k (restoreCore (getCore t k) img)

/-- CONTEXT_RESTORE (R387): an idle partition takes the context that it is to run, which was saved before it halted. -/
def execContextRestore (part : BitVec 3) (s : State) : Host.Outcome State Fault Refusal :=
  .next (
    let p := part.toNat
    if (getPart s p).slot.isSome ∨ !partOk s p then s
    else
      match chosen s p with
      | none => s
      | some slot =>
        match getCtx s slot with
        | none => s
        | some c =>
          if !(c.saved.any fun e => savedBusy e.2) then s
          else if saveWaits s slot c then s
          else if !loadOk s slot c then saveLost slot s
          else
            let n := 16 * partWidth s
            let u := saveTouch slot c s
            let s1 := occupy u p slot ((getCtx u slot).getD c)
            (List.range n).foldl (fun t i => restoreAt (n * p + i) (Sparse.get Core.blank c.saved i) t) s1)

/-- `n` sectors that a launch reads: every page without a key or a tolerant kind (R381). The scheduler stands in no column. -/
def launchRead (s : State) (slot : Nat) : Nat → Nat → Option Nat
  | 0, _ => some 0
  | n + 1, va =>
    match walkOf s slot va, engLoad { s with unit := some noColumn } slot 0 va 64 with
    | .ok lf, .ok x => if lf.tol ≠ 0 ∨ lf.kh ≠ 0 then none else (launchRead s slot n ((va + 64) % 2 ^ 64)).map fun r => x + 2 ^ 512 * r
    | _, _ => none

/-- One of `n` sectors that a launch reads waits for a link of the route to it (R352). -/
def launchWaits (s : State) (slot n va : Nat) : Bool :=
  (List.range n).any fun i => match walkOf s slot ((va + 64 * i) % 2 ^ 64) with | .error e => e == codeRetry | .ok _ => false

/-- A start record (R380), none when it breaks the rule: SIMG, its rows, ring classes, teams, and ENTRY and LIVE of the
positions. -/
structure Start where
  simg : Nat
  rows : Nat
  rcls : Nat
  sysid : Nat
  domid : Nat
  pkgid : Nat
  entries : List (Nat × Nat)
deriving DecidableEq, Repr

/-- The record that 2,112 bytes spell, for `n` positions. -/
def startOf (n v : Nat) : Option Start :=
  let f := fun (o k : Nat) => v / 2 ^ (8 * o) % 2 ^ (8 * k)
  let e := (List.range n).map fun i => (f (64 + 16 * i) 8, f (72 + 16 * i) 2)
  let ok := f 0 8 % 64 == 0 && decide (f 8 2 ≤ 6096) && (f 0 8 != 0 || f 8 2 == 0) && f 10 2 == 0 && f 12 2 / 4096 == 0 &&
    f 14 2 == 0 && f 22 42 == 0 && e.all (fun x => x.1 % 16 == 0 && decide (x.2 ≤ 6144)) &&
    ((List.range n).all fun i => f (74 + 16 * i) 6 == 0)
  if ok then some { simg := f 0 8, rows := f 8 2, rcls := f 12 2, sysid := f 16 2, domid := f 18 2, pkgid := f 20 2, entries := e }
  else none

/-- A core as a launch leaves it (R381), of which `prev` is what the context had there: its groups, and the stores of its thread
that are not yet performed (R303), stay. A retired core stays halted (R398). -/
def launchCore (st : Start) (cls col : Nat) (image : Nat) (i : Nat) (old prev : Core) : Core :=
  let e := st.entries.getD i (0, 0)
  let rows := (List.range st.rows).foldl (fun (m : Sparse Row) r => Sparse.set 0 m r (.ofNat 4096 (image / 2 ^ (4096 * r)))) []
  let rings := (List.range 6).foldl (fun (m : Sparse Ring) q =>
    Sparse.set Ring.empty m q { Ring.empty with cls := Nat.max cls (st.rcls / 4 ^ q % 4) }) []
  { emptyCore old with
    rows := rows, rings := rings, groups := prev.groups, sb := prev.sb, livemark := e.2, halted := e.1 == 0 || old.retired, pc := .ofNat 64 e.1,
    team := .ofNat 64 (pack [(16, col), (16, st.pkgid), (16, st.domid), (16, st.sysid)]) }

/-- What a launch's reading does to the banks that hold its record and its image (R263, R264). -/
def launchTouch (slot : Nat) (a : Nat) (st : Option Start) (s : State) : State :=
  asUnit noColumn (fun s =>
    let t := touchSectors slot 33 a s
    match st with
    | some st => touchSectors slot (8 * st.rows) st.simg t
    | none => t) s

/-- The record's image, when SIMG names one. -/
def launchImage (s : State) (slot : Nat) (st : Start) : Option Nat :=
  if st.rows = 0 then some 0 else launchRead s slot (8 * st.rows) st.simg

/-- A launch of the context in `slot` on partition `p` (R381): a broken record changes no core, and host software is told. -/
def launchOn (p slot : Nat) (s : State) : State :=
  match getCtx s slot with
  | none => s
  | some c =>
    match c.launch with
    | none => s
    | some a =>
      let n := 16 * partWidth s
      let bad := fun (t : State) => tellHost (modCtx t slot fun c => { c with launch := none }) (.launchDiscarded slot)
      if a.toNat % 64 ≠ 0 then bad s
      else if launchWaits s slot 33 a.toNat then s
      else
        match (launchRead s slot 33 a.toNat).bind (startOf n) with
        | none => bad (launchTouch slot a.toNat none s)
        | some st =>
          if launchWaits s slot (8 * st.rows) st.simg then s else
          match launchImage s slot st, launchTouch slot a.toNat (some st) s with
          | none, t => bad t
          | some image, s =>
            let prev := fun (i : Nat) => ctxCore s slot (n * c.part + i)
            let s1 := if liveCtx s slot c then
                setPart (modCtx s slot fun c => { c with launch := none, launched := true }) p
                  { getPart s p with quantum := quantumOf s slot, next := none, keep := none, seen := readySlots s }
              else occupy s p slot { (getCtx s slot).getD c with launch := none }
            (List.range n).foldl (fun t i =>
              setCore t (n * p + i) (launchCore st c.cls (colOf (n * p + i)) image i (getCore t (n * p + i)) (prev i))) s1

/-- LAUNCH (R381, R383): the context that the partition is to run has a launch pending, every core halted and every ring
empty. -/
def execLaunch (part : BitVec 3) (s : State) : Host.Outcome State Fault Refusal :=
  .next (
    let p := part.toNat
    let v := getPart s p
    if v.phase ≠ .running ∨ !partOk s p then s
    else
      match chosen s p with
      | none => s
      | some slot =>
        match getCtx s slot with
        | none => s
        | some c =>
          if v.slot = some slot then (if allQuiet s p then launchOn p slot s else s)
          else if v.slot.isSome ∨ (c.saved.any fun e => coreBusy e.2) then s
          else launchOn p slot s)

/-- LAUNCH_REQUEST (R381): a later request replaces an earlier one, and one for a slot without a context waits for the next that
becomes resident there (log 78). -/
def execLaunchRequest (slot : BitVec 3) (addr : BitVec 64) (s : State) : Host.Outcome State Fault Refusal :=
  .next (if (getCtx s slot.toNat).isSome then askLaunch slot.toNat addr s
    else { s with launchq := Sparse.set none s.launchq slot.toNat (some addr) })

/-- A context record (R379). -/
def ctxOf (r : BitVec 512) (stores : List (Option StoreRec)) (transport : BitVec 3) : Ctx :=
  let f := fun (o k : Nat) => r.toNat / 2 ^ (8 * o) % 2 ^ (8 * k)
  let kv := fun (e : Option StoreRec × Nat) => (e.2, { KvStore.empty with
    cfg := e.1, reserve := match e.1 with | some q => (List.range 64).map (· + (q.nframe - 64)) | none => [] })
  { job := f 0 4, cls := f 4 1 % 4, width := f 5 1 % 4, ptroot := f 8 8, savebase := f 16 8, trbase := f 24 8, quantum := f 32 4,
    dbell := f 40 8, transport := transport, jobKey := 0, part := 0, running := false, launched := false, saved := [], lanes := [],
    launch := none, rv := [], bufs := [], phase := 0, phasePend := [], wakeFrom := [], phasemiss := 0, wins := [],
    kv := (stores.zipIdx.filter fun e => e.1.isSome).map kv, host := none }

/-- A store record (R318), given as its eleven fields in the order of the table; none for a list of another length. -/
def storeOf (l : List Word) : Option StoreRec :=
  match l with
  | [pool, nframe, sum, tab, nseq, nl, maxb, kvh, dc, ksh, req] =>
    some { poolbase := pool.toNat, nframe := nframe.toNat, sumbase := sum.toNat, tabbase := tab.toNat, nseq := nseq.toNat,
           nl := nl.toNat, maxb := maxb.toNat, kvh := kvh.toNat, dc := dc.toNat, ksh := signed 8 ksh.toNat, req := req.toNat == 1 }
  | _ => none

/-- The refusals of R379 that the record alone decides. -/
def recordOk (s : State) (slot : Nat) (c : Ctx) : Bool :=
  (getCtx s slot).isNone && !(s.ctxs.any fun e => match e.2 with | some d => d.job == c.job | none => false) &&
    2 ^ c.width == partWidth s && c.ptroot % 2 ^ 21 == 0 && c.savebase % 65536 == 0 && c.dbell % 65536 == 0 &&
    c.trbase % 16384 == 0

/-- CONTEXT_RESIDENT (R379): with its store records (R318) and its transport record (R367). The pages are looked at once the record
itself is in order. -/
def execContextResident (slot : BitVec 3) (rec : BitVec 512) (stores : List (List Word)) (transport : BitVec 3) (s : State) :
    Host.Outcome State Fault Refusal :=
  .next (
    let c := ctxOf rec ((stores.take 8).map storeOf) transport
    if !recordOk s slot.toNat c then tellHost s .residencyRefused
    else if !areasOk s c then tellHost (areasTouch slot.toNat c s) .residencyRefused
    else
      let s := areasTouch slot.toNat c s
      let fresh := s.recency.filter fun x => match getCtx s x with | some d => !d.launched | none => false
      let old := s.recency.filter fun x => match getCtx s x with | some d => d.launched | none => false
      { setCtx s slot.toNat (some { c with launch := Sparse.get none s.launchq slot.toNat }) with
        recency := fresh ++ [slot.toNat] ++ old, launchq := Sparse.erase s.launchq slot.toNat,
        parts := (becomesReady slot.toNat s).parts })

/-- CONTEXT_REMOVE (R379): only while it is not running. -/
def execContextRemove (slot : BitVec 3) (s : State) : Host.Outcome State Fault Refusal :=
  .next (
    match getCtx s slot.toNat with
    | none => s
    | some c => if liveCtx s slot.toNat c then s else leave false slot.toNat s)

/-- A kill is ordered (R399): a running context is pre-empted first. -/
def killCtx (slot : Nat) (s : State) : State :=
  match getCtx s slot with
  | none => s
  | some c =>
    if !liveCtx s slot c then killEnd slot s
    else if (getPart s c.part).phase = .saving then killEnd slot s
    else trigger s c.part none none true

/-- KILL (R399). -/
def execKill (slot : BitVec 3) (s : State) : Host.Outcome State Fault Refusal := .next (killCtx slot.toNat s)

/-- The host's write of RESUME (R398): the mark of the core's saved state is cleared while its context does not run. -/
def resumeMark (k : Nat) (s : State) : State :=
  { s with ctxs := s.ctxs.map fun e => (e.1, e.2.map fun c =>
      let old := Sparse.get Core.blank c.saved (ctxPos c k)
      if inPart c k && !liveCtx s e.1 c then
        { c with saved := Sparse.set Core.blank c.saved (ctxPos c k) { old with checkstop := false } }
      else c) }
/-- CORECTL_RESUME (R398). -/
def execCorectlResume (core : BitVec 7) (s : State) : Host.Outcome State Fault Refusal := .next (resumeMark core.toNat s)

/-- A core is retired, and the contexts that run on it or have their state saved there are killed (R398). -/
def retireCore (k : Nat) (s : State) : State :=
  let t := setCore s k { getCore s k with retired := true }
  (t.ctxs.filter fun e => match e.2 with | some c => inPart c k && c.launched | none => false).foldl (fun t e => killCtx e.1 t) t
/-- CORECTL_RETIRE (R398). -/
def execCorectlRetire (core : BitVec 7) (s : State) : Host.Outcome State Fault Refusal := .next (retireCore core.toNat s)

/-- A write of LANEMAP (R90, R91): the old steering ends; a 1 in SWAP starts a copy of 64 cycles, after which the new steering
takes effect, and a 0 steers at once. A running copy is given up. -/
def writeLmap (k : Nat) (v : BitVec 16) (s : State) : State :=
  let old := getCore s k
  let c := if old.swapLeft = 0 then steer old.lanemap old else old
  let w : Word := (v &&& 0x811F).setWidth 64
  setCore s k (if v.getLsbD 15 then { c with lanemap := w, swapLeft := 64 } else { steer w c with lanemap := w, swapLeft := 0 })
/-- CORECTL_LMAP (R90). -/
def execCorectlLmap (core : BitVec 7) (lmap : BitVec 16) (s : State) : Host.Outcome State Fault Refusal :=
  .next (writeLmap core.toNat lmap s)

/-- GSWCTL as the host writes it (R391): ARM clears FIRED. -/
def writeGswctl (v : Word) (s : State) : State :=
  { s with gswctl := (v &&& 0x800000000000FF0F) ||| (if v.getLsbD 63 then 0 else s.gswctl &&& 0x4000000000000000) }
/-- GSWCTL_WRITE (R391). -/
def execGswctlWrite (v : BitVec 64) (s : State) : Host.Outcome State Fault Refusal := .next (writeGswctl v s)

/-- GANG_SWITCH_FIRE (R392): a class-0 context that it stops goes on, unless NEXT is chosen (R383). -/
def execGangSwitchFire (s : State) : Host.Outcome State Fault Refusal :=
  .next (
    if s.gswctl.getLsbD 63 && decide (s.gsw.toNat ≤ gtimeOf s) then
      let next := if s.gswctl.getLsbD 3 then some (s.gswctl.toNat % 8) else none
      let t := { s with gswctl := (s.gswctl &&& 0x7FFFFFFFFFFFFFFF) ||| 0x4000000000000000 }
      let keep := fun (p : Nat) => (getPart s p).slot.filter fun x => ctxClass s x == 0
      (List.range (8 / partWidth s)).foldl (fun t p => if s.gswctl.getLsbD (8 + p) then trigger t p next (keep p) false else t) t
    else s)

/-- A context runs on some partition. -/
def anyRunning (s : State) : Bool := s.parts.any fun e => e.2.slot.isSome

/-- LANEMAP that the board record gives core `k`: EN = 0 without one (R90, R405). -/
def boardLane (b : Option BoardRecord) (k : Nat) : Word :=
  match (b.elim [] (·.lanemaps)).find? fun e => e.1 % 128 == k with
  | some e => e.2 &&& 0x11F
  | none => 0

/-- A core in a warm reset: nothing stays but CYCLE, retirement and the slices of its lanes, which the board's LANEMAP steers anew
(R405, R406). -/
def warmCore (lm : Word) (c : Core) : Core :=
  let d := steer lm (if c.swapLeft = 0 then steer c.lanemap (emptyCore c) else emptyCore c)
  { d with vregs := [], pregs := [], lanemap := lm, swapLeft := 0 }

/-- A link in a warm reset: its agent stops, and it trains again (R406). -/
def warmLink (l : Link) : Link :=
  if l.st == .up || l.st == .retraining then { l with st := .retraining, outq := [], unacked := [], held := [], inbuf := [] } else l

/-- A link of the package trains: step 5 of R405 runs (R406). -/
def training (s : State) : Bool := s.links.any fun e => e.2.st == .retraining

/-- The warm reset (R406): every agent stops, every context leaves, keys, PARTCFG and the arming are cleared; bank records
stay, allocated banks in RETAIN, free ones with their timers, and the stacks await their repair (R279). While its links train, WRST
goes on reading 1: bit 1 of it is the model's own, and says that the rest is done. -/
def warmReset (s : State) : State :=
  let s1 := (List.range 128).foldl (fun t k => setCore t k (warmCore (boardLane s.board k) (getCore t k))) s
  let s2 := (List.range 8).foldl (fun t c => setCol t c { getCol t c with tokq := [] }) s1
  let keep := fun (e : Nat × BitVec 32) =>
    if e.1 / 65536 == s.pkgNo.toNat && recOwner e.2 != 15 then (e.1, bset e.2 20 2 2) else e
  let free := fun (b : Nat) => b / 65536 != s.pkgNo.toNat || recOwner (Sparse.get bankReset s.banks b) == 15
  let links := s.links.map fun e => (e.1, warmLink e.2)
  { s2 with
    unit := none, ctxs := [], launchq := [], parts := [], recency := [], partcfg := 0, gswctl := s.gswctl &&& 0x7FFFFFFFFFFFFFFF, wrst := if training { s with links := links } then 3 else 0,
    tlbinv := s.tlbinv &&& 0x7FFFFFFFFFFFFFFF, tlbinvq := [], tlb := [], lanes := [], bankReqs := [],
    keys := s.keys.filter (fun e => e.1 / 1024 != s.pkgNo.toNat), banks := s.banks.map keep,
    bankT := s.bankT.map (fun e => (e.1, if free e.1 then e.2 else { e.2 with retained := devNs s, entering := none, waking := none, missed := [] })),
    dramStacks := (List.range 8).foldl (fun (m : Sparse Stack) n =>
      Sparse.set Stack.fresh m n { entries := [], unrepaired := true, committing := false }) [],
    links := links,
    flows := s.flows.foldl (fun m e => Sparse.set Flow.fresh m e.1 { e.2 with unacked := [] }) [],
    retryq := [], aborts := [], stopsDue := [] }

/-- WARM_RESET (R406): the reset that a write of WRST started clears what it clears, and ends once the links have trained. -/
def execWarmReset (s : State) : Host.Outcome State Fault Refusal :=
  .next (
    if !s.wrst.getLsbD 0 then s
    else if !s.wrst.getLsbD 1 then warmReset s
    else if training s then s else { s with wrst := 0 })

/-- COLD_RESET (R405): identity, lane maps and repair entries come from the board record; a stack whose repair record is missing or
fails its check stays unrepaired, and is reported. -/
def execColdReset (rec : Option BoardRecord) (s : State) : Host.Outcome State Fault Refusal :=
  .next (
    let base := { State.reset with freeCtr := s.freeCtr, agenda := s.agenda, hostLog := s.hostLog, board := rec }
    let s1 : State := match rec with
      | none => base
      | some r => { base with domNo := r.domain, pkgNo := r.pkg, ident := r.ident }
    let s2 := (List.range 8).foldl (fun t n =>
      let l := (boardStack rec n).foldl (fun (m : Sparse Word) e => Sparse.set 0 m e.1 e.2) []
      let bad := !(rec.elim false (·.stacksRead.getLsbD n)) || repairClash ((validRepairs l).map (·.2))
      let t1 := setStack t n { entries := l, unrepaired := bad, committing := false }
      if bad then logMc t1 (mcEntry 2 4 0 0 (4096 * n * 2 ^ 15)) else t1) s1
    (List.range 128).foldl (fun t k =>
      if boardLane rec k = 0 then t else setCore t k { getCore t k with lanemap := boardLane rec k }) s2)

/-- TOKCTL as it is stored: CAP, LIMIT and REFILL, which take effect at the next refill; the refills that are due use those of before
(R409). -/
def writeTokctl (c : Nat) (v : Word) (s0 : State) : State :=
  let s := refillsDue c s0
  let n := v.toNat
  setCol s c { getCol s c with cap := Nat.max 32 (bits n 51 32), limit := Nat.min 270 (bits n 28 20), refill := bits n 19 0 }

/-- A write at an offset of column `c`'s registers (R401). -/
def writeColReg (c i : Nat) (v : Word) (s : State) : State :=
  let k := getCol s c
  let n := v.toNat
  match i with
  | 1 | 2 | 3 | 4 => setCol s c { k with quota := Sparse.set 0xFFFF k.quota (i - 1) (n % 2 ^ 16) }
  | 5 => setCol s c { k with c0max := Nat.min 64 (n % 128) } -- above 64, log 80
  | 6 => setCol s c { k with q1 := bits n 15 0, q2 := bits n 31 16, q3 := bits n 47 32 }
  | 8 => writeTokctl c v s
  | _ => s

/-- EZPOOL of a column (R334): the frames of the block store that the context running there has in it. -/
def ezPoolReg (s : State) (c : Nat) : Nat :=
  match ((getPart s (c / partWidth s)).slot.bind (getCtx s)).bind fun x => Sparse.find x.kv c with
  | some kv => match kv.cfg with
    | some r => pack [(32, freeFrames r kv - kv.reserve.length), (8, kv.reserve.length), (24, 0)]
    | none => 0
  | none => 0

/-- A register of column `c` as it reads (R276, R290, R334, R409). -/
def readColReg (s : State) (c i : Nat) : Nat :=
  let k := getCol s c
  match i with
  | 0 => k.refloss
  | 1 | 2 | 3 | 4 => Sparse.get 0xFFFF k.quota (i - 1)
  | 5 => k.c0max
  | 6 => pack [(16, k.q1), (16, k.q2), (16, k.q3), (16, 0)]
  | 7 => ezPoolReg s c
  | 8 => pack [(20, k.refill), (9, k.limit), (3, 0), (20, k.cap), (12, 0)]
  | _ => pack [(24, k.droop), (8, (k.tj % 256).toNat), (12, k.power), (20, k.applied)]

/-- CORECTL of core `k` (R398). -/
def writeCorectl (k : Nat) (v : Word) (s : State) : State :=
  let s1 := writeLmap k (v.setWidth 16) s
  let s2 := if v.getLsbD 17 then resumeMark k s1 else s1
  if v.getLsbD 16 then retireCore k s2 else s2

/-- CORECTL as it reads: LANEMAP below, RETIRE on a retired core (log 21). -/
def readCorectl (s : State) (k : Nat) : Nat :=
  (getCore s k).lanemap.toNat % 2 ^ 16 + (if (getCore s k).retired then 2 ^ 16 else 0)

/-- What stands at an offset of the management window (R401; log 21 for the places that one line of R401 lists). -/
inductive MgmtReg where
  /-- FEAT0, FEAT1, IDENT -/
  | ident (i : Nat)
  /-- PARTCFG, GSW, GSWCTL, TLBINV, MCLOG, WRST -/
  | pkg (i : Nat)
  | corectl (k : Nat)
  | col (c i : Nat)
  | bank (b : BitVec 15)
  | repair (stack e : Nat)
  | control (stack : Nat)
  | mailbox
deriving DecidableEq, Repr

/-- The register at an offset, none where R401 lists none. -/
def mgmtAt (off : Nat) : Option MgmtReg :=
  let o := off % 0x100000
  let n := off / 0x100000 - 1
  if 0x100000 ≤ off ∧ off < 0x900000 ∧ o < 0x4000 ∧ o % 4 = 0 then some (.bank (.ofNat 15 (4096 * n + o / 4)))
  else if off % 8 ≠ 0 then none
  else if off < 0x18 then some (.ident (off / 8))
  else if 0x1000 ≤ off ∧ off < 0x1030 then some (.pkg ((off - 0x1000) / 8))
  else if 0x2000 ≤ off ∧ off < 0x2400 then some (.corectl ((off - 0x2000) / 8))
  else if 0x10000 ≤ off ∧ off < 0x18000 ∧ off % 0x1000 < 0x50 then some (.col ((off - 0x10000) / 0x1000) (off % 0x1000 / 8))
  else if 0x100000 ≤ off ∧ off < 0x900000 ∧ 0x4000 ≤ o ∧ o < 0x4800 then some (.repair n ((o - 0x4000) / 8))
  else if 0x100000 ≤ off ∧ off < 0x900000 ∧ o = 0x4800 then some (.control n)
  else if off = 0x1000000 then some .mailbox
  else none

/-- A write of a package register (R378, R391, R289, R397, R406). -/
def writePkgReg (i : Nat) (v : Word) (s : State) : State :=
  match i with
  | 0 => if anyRunning s then s else { s with partcfg := v.toNat % 4 }
  | 1 => { s with gsw := v }
  | 2 => writeGswctl v s
  | 3 => writeTlbinv v s
  | 4 => s
  | _ => if v.getLsbD 0 && !s.wrst.getLsbD 0 then { s with wrst := 1 } else s

/-- A write that takes effect (R401). The key mailbox is the host security path's: KEY_LOAD and KEY_UNLOAD are what it does. -/
def writeMgmt (r : MgmtReg) (v : Word) (s : State) : State :=
  match r with
  | .ident _ | .mailbox => s
  | .pkg i => writePkgReg i v s
  | .corectl k => writeCorectl k v s
  | .col c i => writeColReg c i v s
  | .bank b => setOwn s b (bset (ownRec s b) 0 16 0) (bankTime s (ownBank s b))
  | .repair n e => setStack s n { getStack s n with entries := Sparse.set 0 (getStack s n).entries e (entryBits v) }
  | .control n => if v.getLsbD 0 then setStack s n { getStack s n with committing := true } else s

/-- What a register reads (R401): MCLOG its head, with LOST; a control word UNREPAIRED. -/
def readMgmt (s : State) (r : MgmtReg) : Nat :=
  match r with
  | .ident 0 => feat0.toNat
  | .ident 1 => feat1.toNat
  | .ident _ => s.ident.toNat
  | .pkg 0 => s.partcfg
  | .pkg 1 => s.gsw.toNat
  | .pkg 2 => s.gswctl.toNat
  | .pkg 3 => s.tlbinv.toNat
  | .pkg 4 => (match s.mclog with | e :: _ => e.toNat + (if s.mcLost then 2 ^ 62 else 0) | [] => 0)
  | .pkg _ => s.wrst.toNat % 2
  | .corectl k => readCorectl s k
  | .col c i => readColReg s c i
  | .bank b => (ownRec s b).toNat
  | .repair n e => (Sparse.get 0 (getStack s n).entries e).toNat
  | .control n => (if (getStack s n).unrepaired then 2 else 0) + (if (getStack s n).committing then 1 else 0)
  | .mailbox => 0

/-- A host's write to the management window (R401): an unlisted offset is unsupported, and only the owner host's write takes
effect. -/
def hostWrite (ep off : Nat) (v : Word) (s : State) : State :=
  if !linkOpen s ep then s
  else
    match mgmtAt off with
    | none => tellHost s (.unsupported ep off)
    | some r => if (s.board.map (·.owner.toNat)) = some ep then writeMgmt r v s else s

/-- A host's read of the management window (R401, R402): any host's; MCLOG's pops its head (R397). -/
def hostRead (ep off : Nat) (s : State) : State :=
  if !linkOpen s ep then s
  else
    match mgmtAt off with
    | none => tellHost s (.unsupported ep off)
    | some r =>
      let t := tellHost s (.registerData ep off (.ofNat 64 (readMgmt s r)))
      if r = .pkg 4 then { t with mclog := t.mclog.drop 1, mcLost := false } else t

/-- MGMT_REGISTER_WRITE (R401): a write of the owner host. -/
def execMgmtRegisterWrite (off : BitVec 32) (v : BitVec 64) (s : State) : Host.Outcome State Fault Refusal :=
  .next (match s.board with | some b => hostWrite b.owner.toNat off.toNat v s | none => s)

/-- A context is attached to a function of an endpoint (R400). -/
def attach (slot ep fn : Nat) (s : State) : State :=
  if endpointIs s ep ∧ fn ≤ 16 then modCtx s slot fun c => { c with host := some (ep, fn) } else s

/-- Two ranges of bytes have one in common. -/
def rangesMeet (a n b m : Nat) : Bool := decide (a < b + m) && decide (b < a + n)

/-- Windows of a context are mapped by host software (R403): at most 16, 64-KiB aligned, up to 64 MiB long, and apart. -/
def mapWindow (slot w base len : Nat) (vaddr : Word) (s : State) : State :=
  match getCtx s slot with
  | none => s
  | some c =>
    if 16 ≤ w ∨ base % 65536 ≠ 0 ∨ len = 0 ∨ 2 ^ 26 < len ∨ 2 ^ 57 < base + len ∨
        (c.wins.any fun e => e.1 != w && rangesMeet base len e.2.base e.2.len) then tellHost s (.windowRefused slot w)
    else setCtx s slot (some { c with
      wins := Sparse.insert (Sparse.erase c.wins w) w { base := base, len := len, vaddr := vaddr, ver := 0, image := [] } })

/-- The context's host reads a window: bytes of its published image, none before the first PUBLISH (R403, R404; log 69). -/
def windowRead (ep slot w off n : Nat) (s : State) : State :=
  match getCtx s slot with
  | none => s
  | some c =>
    match Sparse.find c.wins w with
    | none => s
    | some v =>
      if linkOpen s ep ∧ c.host.map (·.1) = some ep ∧ off + n ≤ v.len then tellHost s (.windowData ep ((v.image.drop off).take n))
      else s

end Sys2Proof.Machine
end

