-- ==== Sys2Proof/Machine/Pipe.lean ====
section
/-! DEFINITION. Steps of the focused core's pipeline: landings, completions, drains, instruction fetch with its faults (R69,
R77), and the taking of traps and the return from one as steps of their own (R54, R57, R75, R91, R303, R394). -/
namespace Sys2Proof.Machine

/-- The bundle at an address: what the instruction cache holds, or memory (R69, R77); a fault, or `codeRetry`. From a keyed page it
takes the stored bytes, as a load does: R293 has no row for a fetch (log 82). -/
def fetchBundle (s : State) : Except Nat Nat :=
  match Sparse.get none s.core.icache s.core.pc.toNat, curSlot s with
  | some b, _ => .ok b.toNat
  | none, none => .error codeRetry
  | none, some slot =>
    match translate s slot s.core.pc.toNat .fetch with
    | .error e => .error e
    | .ok lf =>
      let pa := physOf lf s.core.pc.toNat
      if sectorsOk s pa 16 then .ok (loadNum s lf.tol s.core.pc.toNat pa 16) else .error codeCheck

/-- The banks that a fetch reaches: none where the instruction cache holds the bundle (R69, R263). -/
def fetchTouch (s : State) : State :=
  match Sparse.get none s.core.icache s.core.pc.toNat, curSlot s with
  | none, some slot =>
    match translate s slot s.core.pc.toNat .fetch with
    | .ok lf => touch s slot s.core.pc.toNat (physOf lf s.core.pc.toNat)
    | .error _ => s
  | _, _ => s

/-- A bundle kept in the instruction cache, which holds 4,096 of them: 64 KiB (R4, R77). Which one leaves a full cache is the
model's choice (log 24). -/
def icacheKeep (m : Sparse (Option Bundle)) (pc : Nat) (b : Bundle) : Sparse (Option Bundle) :=
  Sparse.set none (if 4096 ≤ m.length then m.drop 1 else m) pc (some b)

/-- A fetch that faulted (R69, R396): a trap whose EPC and TVAL are the address, or a checkstop; a wait changes nothing. -/
def fetchFault (e : Nat) (s : State) : State :=
  if e = codeRetry then passCycles 1 s
  else if e = codeCheck then
    (match curSlot s with
     | some slot =>
       let p := checkPlace s slot s.core.pc.toNat 16
       checkAt slot s.core.pc.toNat p.1 p.2 (touchVa slot s.core.pc.toNat s)
     | none => s)
  else trapNow (mkTrap e 4 s.core.pc) s.core.pc (match curSlot s with | some slot => touchWalk s slot s.core.pc.toNat | none => s)

/-- EXPOSED_RESULT_LANDING (R54): results that are due land; on a halted core the next one does, and the issue clock stands
where it landed. While a lane copy runs the issue clock does not tick (R91). -/
def execExposedResultLanding (s : State) : Host.Outcome State Fault Refusal :=
  .next (if s.core.swapLeft ≠ 0 then s else
    match sortLand s.core.inflight with
    | [] => s
    | f :: _ =>
      if f.land ≤ s.core.ticks then withCore s (landTo s.core.ticks s.core)
      else if s.core.halted then
        passCycles (f.land - s.core.ticks) (withCore s { landTo f.land s.core with ticks := f.land })
      else s)

/-- SCALAR_WRITE_COMPLETE (R53): the pending write that completes first. -/
def execScalarWriteComplete (s : State) : Host.Outcome State Fault Refusal :=
  .next (
    match s.core.pend with
    | [] => s
    | e :: r =>
      let d := r.foldl (fun m x => Nat.min m x.2) e.2
      passCycles (d - s.core.cycle) (withCore s { s.core with pend := s.core.pend.filter fun x => x.2 != d }))

/-- STORE_BUFFER_DRAIN (R303): buffered store `n`, when it may. -/
def execStoreBufferDrain (n : BitVec 4) (s : State) : Host.Outcome State Fault Refusal := .next (drainOne n.toNat s)

/-- INSTRUCTION_FETCH (R69, R77): a missed bundle is fetched and kept, or the fetch faults. -/
def execInstructionFetch (s : State) : Host.Outcome State Fault Refusal :=
  .next (
    if !running s ∨ (Sparse.get none s.core.icache s.core.pc.toNat).isSome then s
    else
      match fetchBundle s with
      | .ok b =>
        let t := fetchTouch s
        withCore t { t.core with icache := icacheKeep t.core.icache t.core.pc.toNat (.ofNat 128 b) }
      | .error e => fetchFault e s)

/-- Causes that a bundle raises (R394). -/
def bundleCauses : List Nat := [0x01, 0x02, 0x03, 0x04, 0x08, 0x09, 0x0A, 0x10, 0x11]

/-- TRAP_ENTRY (R57): the trap of the bundle at the pc is taken; TRAP's own returns to the next bundle. -/
def execTrapEntry (cause : BitVec 8) (slot : BitVec 3) (code : BitVec 13) (tval : BitVec 64) (s : State) :
    Host.Outcome State Fault Refusal :=
  .next (
    if !running s ∨ !bundleCauses.contains cause.toNat then s
    else
      let emu := cause == 2
      let bits := if emu then (match fetchBundle s with | .ok b => b | .error _ => 0) else 0
      let t : Trap := { cause := cause.toNat, slot := slot.toNat, code := code.toNat, tval := tval, bundle := bits, emu := emu }
      let s0 := atIssue s
      if cause = 0x10 then
        takeTrap t (s.core.pc + 16) (s.core.ticks + ticksAfter (match fetchBundle s with | .ok b => idleOf b | .error _ => 0) false) s0
      else takeTrap t s.core.pc s.core.ticks s0)

/-- ASYNCHRONOUS_TRAP (R394). -/
def execAsynchronousTrap (s : State) : Host.Outcome State Fault Refusal := .next (takeAsync s)

/-- RFT_REINSTATE (R75): the return of a handler of which nothing is in flight. -/
def execRftReinstate (s : State) : Host.Outcome State Fault Refusal :=
  .next (if running s && s.core.tstat.getLsbD 0 && s.core.inflight.isEmpty then returnFromTrap 0 s else s)

/-- LANE_SWAP_COMPLETE (R91): the copy has taken its cycles, in which the issue clock stood; lane LANE's slices are in the
spare lane, wrong parity included, since R91 does not say that a copy mends it (log 59), and steering takes effect. -/
def execLaneSwapComplete (s : State) : Host.Outcome State Fault Refusal :=
  .next (
    if s.core.swapLeft = 0 then s
    else passCycles s.core.swapLeft
      (withCore s (steer s.core.lanemap
        { copyLane (laneOf s.core.lanemap) s.core with swapLeft := 0, lanemap := s.core.lanemap &&& 0xFFFFFFFFFFFF7FFF })))

end Sys2Proof.Machine
end

