-- ==== Sys2Proof/Machine/Dispatch.lean ====
section
/-! DEFINITION. The meaning of every instruction: one arm for each constructor, a direct call of its own meaning. -/
namespace Sys2Proof.Machine

/-- What an instruction does in a state. -/
def exec (i : Instr) (s : State) : Host.Outcome State Fault Refusal :=
  match i with
  | .nop a0 => Sys2Proof.Machine.execNop a0 s
  | .add a0 a1 a2 a3 => Sys2Proof.Machine.execAdd a0 a1 a2 a3 s
  | .sub a0 a1 a2 a3 => Sys2Proof.Machine.execSub a0 a1 a2 a3 s
  | .and a0 a1 a2 a3 => Sys2Proof.Machine.execAnd a0 a1 a2 a3 s
  | .or a0 a1 a2 a3 => Sys2Proof.Machine.execOr a0 a1 a2 a3 s
  | .xor a0 a1 a2 a3 => Sys2Proof.Machine.execXor a0 a1 a2 a3 s
  | .andn a0 a1 a2 a3 => Sys2Proof.Machine.execAndn a0 a1 a2 a3 s
  | .shl a0 a1 a2 a3 => Sys2Proof.Machine.execShl a0 a1 a2 a3 s
  | .shr a0 a1 a2 a3 => Sys2Proof.Machine.execShr a0 a1 a2 a3 s
  | .sra a0 a1 a2 a3 => Sys2Proof.Machine.execSra a0 a1 a2 a3 s
  | .min a0 a1 a2 a3 => Sys2Proof.Machine.execMin a0 a1 a2 a3 s
  | .max a0 a1 a2 a3 => Sys2Proof.Machine.execMax a0 a1 a2 a3 s
  | .minu a0 a1 a2 a3 => Sys2Proof.Machine.execMinu a0 a1 a2 a3 s
  | .maxu a0 a1 a2 a3 => Sys2Proof.Machine.execMaxu a0 a1 a2 a3 s
  | .seq a0 a1 a2 a3 => Sys2Proof.Machine.execSeq a0 a1 a2 a3 s
  | .sne a0 a1 a2 a3 => Sys2Proof.Machine.execSne a0 a1 a2 a3 s
  | .slt a0 a1 a2 a3 => Sys2Proof.Machine.execSlt a0 a1 a2 a3 s
  | .sltu a0 a1 a2 a3 => Sys2Proof.Machine.execSltu a0 a1 a2 a3 s
  | .sle a0 a1 a2 a3 => Sys2Proof.Machine.execSle a0 a1 a2 a3 s
  | .sleu a0 a1 a2 a3 => Sys2Proof.Machine.execSleu a0 a1 a2 a3 s
  | .mul a0 a1 a2 a3 => Sys2Proof.Machine.execMul a0 a1 a2 a3 s
  | .mulh a0 a1 a2 a3 => Sys2Proof.Machine.execMulh a0 a1 a2 a3 s
  | .mulhu a0 a1 a2 a3 => Sys2Proof.Machine.execMulhu a0 a1 a2 a3 s
  | .div a0 a1 a2 a3 => Sys2Proof.Machine.execDiv a0 a1 a2 a3 s
  | .divu a0 a1 a2 a3 => Sys2Proof.Machine.execDivu a0 a1 a2 a3 s
  | .rem a0 a1 a2 a3 => Sys2Proof.Machine.execRem a0 a1 a2 a3 s
  | .remu a0 a1 a2 a3 => Sys2Proof.Machine.execRemu a0 a1 a2 a3 s
  | .clz a0 a1 a2 => Sys2Proof.Machine.execClz a0 a1 a2 s
  | .ctz a0 a1 a2 => Sys2Proof.Machine.execCtz a0 a1 a2 s
  | .popc a0 a1 a2 => Sys2Proof.Machine.execPopc a0 a1 a2 s
  | .addi a0 a1 a2 a3 => Sys2Proof.Machine.execAddi a0 a1 a2 a3 s
  | .andi a0 a1 a2 a3 => Sys2Proof.Machine.execAndi a0 a1 a2 a3 s
  | .ori a0 a1 a2 a3 => Sys2Proof.Machine.execOri a0 a1 a2 a3 s
  | .xori a0 a1 a2 a3 => Sys2Proof.Machine.execXori a0 a1 a2 a3 s
  | .shli a0 a1 a2 a3 => Sys2Proof.Machine.execShli a0 a1 a2 a3 s
  | .shri a0 a1 a2 a3 => Sys2Proof.Machine.execShri a0 a1 a2 a3 s
  | .srai a0 a1 a2 a3 => Sys2Proof.Machine.execSrai a0 a1 a2 a3 s
  | .slti a0 a1 a2 a3 => Sys2Proof.Machine.execSlti a0 a1 a2 a3 s
  | .sltiu a0 a1 a2 a3 => Sys2Proof.Machine.execSltiu a0 a1 a2 a3 s
  | .seqi a0 a1 a2 a3 => Sys2Proof.Machine.execSeqi a0 a1 a2 a3 s
  | .muli a0 a1 a2 a3 => Sys2Proof.Machine.execMuli a0 a1 a2 a3 s
  | .extu a0 a1 a2 a3 a4 => Sys2Proof.Machine.execExtu a0 a1 a2 a3 a4 s
  | .exts a0 a1 a2 a3 a4 => Sys2Proof.Machine.execExts a0 a1 a2 a3 a4 s
  | .ins a0 a1 a2 a3 a4 => Sys2Proof.Machine.execIns a0 a1 a2 a3 a4 s
  | .lih a0 a1 a2 => Sys2Proof.Machine.execLih a0 a1 a2 s
  | .lipc a0 a1 a2 => Sys2Proof.Machine.execLipc a0 a1 a2 s
  | .beqz a0 a1 a2 => Sys2Proof.Machine.execBeqz a0 a1 a2 s
  | .bnez a0 a1 a2 => Sys2Proof.Machine.execBnez a0 a1 a2 s
  | .bltz a0 a1 a2 => Sys2Proof.Machine.execBltz a0 a1 a2 s
  | .bgez a0 a1 a2 => Sys2Proof.Machine.execBgez a0 a1 a2 s
  | .br a0 a1 => Sys2Proof.Machine.execBr a0 a1 s
  | .call a0 a1 => Sys2Proof.Machine.execCall a0 a1 s
  | .jr a0 a1 => Sys2Proof.Machine.execJr a0 a1 s
  | .callr a0 a1 a2 => Sys2Proof.Machine.execCallr a0 a1 a2 s
  | .loop a0 a1 a2 => Sys2Proof.Machine.execLoop a0 a1 a2 s
  | .ldb a0 a1 a2 a3 => Sys2Proof.Machine.execLdb a0 a1 a2 a3 s
  | .ldbu a0 a1 a2 a3 => Sys2Proof.Machine.execLdbu a0 a1 a2 a3 s
  | .ldh a0 a1 a2 a3 => Sys2Proof.Machine.execLdh a0 a1 a2 a3 s
  | .ldhu a0 a1 a2 a3 => Sys2Proof.Machine.execLdhu a0 a1 a2 a3 s
  | .ldw a0 a1 a2 a3 => Sys2Proof.Machine.execLdw a0 a1 a2 a3 s
  | .ldwu a0 a1 a2 a3 => Sys2Proof.Machine.execLdwu a0 a1 a2 a3 s
  | .ldd a0 a1 a2 a3 => Sys2Proof.Machine.execLdd a0 a1 a2 a3 s
  | .ldc a0 a1 a2 a3 => Sys2Proof.Machine.execLdc a0 a1 a2 a3 s
  | .stb a0 a1 a2 a3 => Sys2Proof.Machine.execStb a0 a1 a2 a3 s
  | .sth a0 a1 a2 a3 => Sys2Proof.Machine.execSth a0 a1 a2 a3 s
  | .stw a0 a1 a2 a3 => Sys2Proof.Machine.execStw a0 a1 a2 a3 s
  | .std a0 a1 a2 a3 => Sys2Proof.Machine.execStd a0 a1 a2 a3 s
  | .lda a0 a1 a2 a3 a4 a5 a6 a7 => Sys2Proof.Machine.execLda a0 a1 a2 a3 a4 a5 a6 a7 s
  | .sta a0 a1 a2 a3 a4 a5 a6 => Sys2Proof.Machine.execSta a0 a1 a2 a3 a4 a5 a6 s
  | .atom a0 a1 a2 a3 a4 a5 => Sys2Proof.Machine.execAtom a0 a1 a2 a3 a4 a5 s
  | .atomAcq a0 a1 a2 a3 a4 a5 a6 => Sys2Proof.Machine.execAtomAcq a0 a1 a2 a3 a4 a5 a6 s
  | .atomRel a0 a1 a2 a3 a4 a5 a6 => Sys2Proof.Machine.execAtomRel a0 a1 a2 a3 a4 a5 a6 s
  | .atomAr a0 a1 a2 a3 a4 a5 a6 => Sys2Proof.Machine.execAtomAr a0 a1 a2 a3 a4 a5 a6 s
  | .fence a0 a1 => Sys2Proof.Machine.execFence a0 a1 s
  | .fenceU a0 a1 => Sys2Proof.Machine.execFenceU a0 a1 s
  | .cinv a0 => Sys2Proof.Machine.execCinv a0 s
  | .mfs a0 a1 a2 => Sys2Proof.Machine.execMfs a0 a1 a2 s
  | .mts a0 a1 a2 => Sys2Proof.Machine.execMts a0 a1 a2 s
  | .trap a0 a1 => Sys2Proof.Machine.execTrap a0 a1 s
  | .rft a0 => Sys2Proof.Machine.execRft a0 s
  | .halt a0 => Sys2Proof.Machine.execHalt a0 s
  | .publish a0 a1 => Sys2Proof.Machine.execPublish a0 a1 s
  | .setphase a0 a1 a2 => Sys2Proof.Machine.execSetphase a0 a1 a2 s
  | .vnop => Sys2Proof.Machine.execVnop s
  | .vadd a0 a1 a2 a3 a4 => Sys2Proof.Machine.execVadd a0 a1 a2 a3 a4 s
  | .vsub a0 a1 a2 a3 a4 => Sys2Proof.Machine.execVsub a0 a1 a2 a3 a4 s
  | .vmul a0 a1 a2 a3 a4 => Sys2Proof.Machine.execVmul a0 a1 a2 a3 a4 s
  | .vmulh a0 a1 a2 a3 a4 => Sys2Proof.Machine.execVmulh a0 a1 a2 a3 a4 s
  | .vadds a0 a1 a2 a3 a4 => Sys2Proof.Machine.execVadds a0 a1 a2 a3 a4 s
  | .vsubs a0 a1 a2 a3 a4 => Sys2Proof.Machine.execVsubs a0 a1 a2 a3 a4 s
  | .vmin a0 a1 a2 a3 a4 => Sys2Proof.Machine.execVmin a0 a1 a2 a3 a4 s
  | .vmax a0 a1 a2 a3 a4 => Sys2Proof.Machine.execVmax a0 a1 a2 a3 a4 s
  | .vabs a0 a1 a2 a3 => Sys2Proof.Machine.execVabs a0 a1 a2 a3 s
  | .vneg a0 a1 a2 a3 => Sys2Proof.Machine.execVneg a0 a1 a2 a3 s
  | .vmulw a0 a1 a2 a3 a4 => Sys2Proof.Machine.execVmulw a0 a1 a2 a3 a4 s
  | .vaddw a0 a1 a2 a3 a4 => Sys2Proof.Machine.execVaddw a0 a1 a2 a3 a4 s
  | .vnarrow a0 a1 a2 a3 => Sys2Proof.Machine.execVnarrow a0 a1 a2 a3 s
  | .vaddi a0 a1 a2 a3 a4 => Sys2Proof.Machine.execVaddi a0 a1 a2 a3 a4 s
  | .vmac a0 a1 a2 a3 a4 => Sys2Proof.Machine.execVmac a0 a1 a2 a3 a4 s
  | .vand a0 a1 a2 a3 a4 => Sys2Proof.Machine.execVand a0 a1 a2 a3 a4 s
  | .vor a0 a1 a2 a3 a4 => Sys2Proof.Machine.execVor a0 a1 a2 a3 a4 s
  | .vxor a0 a1 a2 a3 a4 => Sys2Proof.Machine.execVxor a0 a1 a2 a3 a4 s
  | .vandn a0 a1 a2 a3 a4 => Sys2Proof.Machine.execVandn a0 a1 a2 a3 a4 s
  | .vnot a0 a1 a2 a3 => Sys2Proof.Machine.execVnot a0 a1 a2 a3 s
  | .vshl a0 a1 a2 a3 a4 => Sys2Proof.Machine.execVshl a0 a1 a2 a3 a4 s
  | .vshr a0 a1 a2 a3 a4 => Sys2Proof.Machine.execVshr a0 a1 a2 a3 a4 s
  | .vsra a0 a1 a2 a3 a4 => Sys2Proof.Machine.execVsra a0 a1 a2 a3 a4 s
  | .vshli a0 a1 a2 a3 a4 => Sys2Proof.Machine.execVshli a0 a1 a2 a3 a4 s
  | .vshri a0 a1 a2 a3 a4 => Sys2Proof.Machine.execVshri a0 a1 a2 a3 a4 s
  | .vsrai a0 a1 a2 a3 a4 => Sys2Proof.Machine.execVsrai a0 a1 a2 a3 a4 s
  | .vcmp a0 a1 a2 a3 a4 a5 => Sys2Proof.Machine.execVcmp a0 a1 a2 a3 a4 a5 s
  | .vsel a0 a1 a2 a3 a4 a5 => Sys2Proof.Machine.execVsel a0 a1 a2 a3 a4 a5 s
  | .vsplat a0 a1 a2 a3 => Sys2Proof.Machine.execVsplat a0 a1 a2 a3 s
  | .vsplati a0 a1 a2 a3 => Sys2Proof.Machine.execVsplati a0 a1 a2 a3 s
  | .vins a0 a1 a2 a3 a4 => Sys2Proof.Machine.execVins a0 a1 a2 a3 a4 s
  | .vext a0 a1 a2 a3 => Sys2Proof.Machine.execVext a0 a1 a2 a3 s
  | .vmov a0 a1 a2 a3 => Sys2Proof.Machine.execVmov a0 a1 a2 a3 s
  | .vfma a0 a1 a2 a3 a4 a5 => Sys2Proof.Machine.execVfma a0 a1 a2 a3 a4 a5 s
  | .vfms a0 a1 a2 a3 a4 a5 => Sys2Proof.Machine.execVfms a0 a1 a2 a3 a4 a5 s
  | .vfnma a0 a1 a2 a3 a4 a5 => Sys2Proof.Machine.execVfnma a0 a1 a2 a3 a4 a5 s
  | .vcvt a0 a1 a2 a3 a4 => Sys2Proof.Machine.execVcvt a0 a1 a2 a3 a4 s
  | .vdot a0 a1 a2 a3 a4 a5 => Sys2Proof.Machine.execVdot a0 a1 a2 a3 a4 a5 s
  | .vrcp a0 a1 a2 a3 => Sys2Proof.Machine.execVrcp a0 a1 a2 a3 s
  | .vrsq a0 a1 a2 a3 => Sys2Proof.Machine.execVrsq a0 a1 a2 a3 s
  | .vrcpn a0 a1 a2 a3 a4 => Sys2Proof.Machine.execVrcpn a0 a1 a2 a3 a4 s
  | .vrsqn a0 a1 a2 a3 a4 => Sys2Proof.Machine.execVrsqn a0 a1 a2 a3 a4 s
  | .vexp2 a0 a1 a2 a3 => Sys2Proof.Machine.execVexp2 a0 a1 a2 a3 s
  | .vlog2 a0 a1 a2 a3 => Sys2Proof.Machine.execVlog2 a0 a1 a2 a3 s
  | .vredadd a0 a1 a2 a3 => Sys2Proof.Machine.execVredadd a0 a1 a2 a3 s
  | .vredmin a0 a1 a2 a3 => Sys2Proof.Machine.execVredmin a0 a1 a2 a3 s
  | .vredmax a0 a1 a2 a3 => Sys2Proof.Machine.execVredmax a0 a1 a2 a3 s
  | .vscan a0 a1 a2 a3 => Sys2Proof.Machine.execVscan a0 a1 a2 a3 s
  | .vppopc a0 a1 a2 a3 => Sys2Proof.Machine.execVppopc a0 a1 a2 a3 s
  | .vtopk a0 a1 a2 a3 a4 a5 => Sys2Proof.Machine.execVtopk a0 a1 a2 a3 a4 a5 s
  | .vperm a0 a1 a2 a3 a4 => Sys2Proof.Machine.execVperm a0 a1 a2 a3 a4 s
  | .vslide a0 a1 a2 a3 a4 a5 => Sys2Proof.Machine.execVslide a0 a1 a2 a3 a4 a5 s
  | .vzip a0 a1 a2 a3 a4 => Sys2Proof.Machine.execVzip a0 a1 a2 a3 a4 s
  | .vunzip a0 a1 a2 a3 => Sys2Proof.Machine.execVunzip a0 a1 a2 a3 s
  | .vcompress a0 a1 a2 a3 => Sys2Proof.Machine.execVcompress a0 a1 a2 a3 s
  | .vexpand a0 a1 a2 a3 => Sys2Proof.Machine.execVexpand a0 a1 a2 a3 s
  | .vbcaste a0 a1 a2 a3 a4 => Sys2Proof.Machine.execVbcaste a0 a1 a2 a3 a4 s
  | .vcbdec a0 a1 a2 a3 a4 => Sys2Proof.Machine.execVcbdec a0 a1 a2 a3 a4 s
  | .scacc a0 a1 a2 a3 a4 a5 => Sys2Proof.Machine.execScacc a0 a1 a2 a3 a4 a5 s
  | .pand a0 a1 a2 a3 a4 => Sys2Proof.Machine.execPand a0 a1 a2 a3 a4 s
  | .por a0 a1 a2 a3 a4 => Sys2Proof.Machine.execPor a0 a1 a2 a3 a4 s
  | .pxor a0 a1 a2 a3 a4 => Sys2Proof.Machine.execPxor a0 a1 a2 a3 a4 s
  | .pandn a0 a1 a2 a3 a4 => Sys2Proof.Machine.execPandn a0 a1 a2 a3 a4 s
  | .pnot a0 a1 a2 a3 => Sys2Proof.Machine.execPnot a0 a1 a2 a3 s
  | .pseti a0 a1 a2 => Sys2Proof.Machine.execPseti a0 a1 a2 s
  | .ppopc a0 a1 a2 a3 => Sys2Proof.Machine.execPpopc a0 a1 a2 a3 s
  | .pfirst a0 a1 a2 a3 => Sys2Proof.Machine.execPfirst a0 a1 a2 a3 s
  | .vpclr a0 a1 a2 => Sys2Proof.Machine.execVpclr a0 a1 a2 s
  | .vptest a0 a1 a2 a3 => Sys2Proof.Machine.execVptest a0 a1 a2 a3 s
  | .mnop => Sys2Proof.Machine.execMnop s
  | .vld a0 a1 a2 a3 => Sys2Proof.Machine.execVld a0 a1 a2 a3 s
  | .vst a0 a1 a2 a3 a4 a5 => Sys2Proof.Machine.execVst a0 a1 a2 a3 a4 a5 s
  | .vgather a0 a1 a2 a3 => Sys2Proof.Machine.execVgather a0 a1 a2 a3 s
  | .vscatter a0 a1 a2 a3 => Sys2Proof.Machine.execVscatter a0 a1 a2 a3 s
  | .vrmg a0 a1 a2 a3 a4 a5 => Sys2Proof.Machine.execVrmg a0 a1 a2 a3 a4 a5 s
  | .claim a0 a1 => Sys2Proof.Machine.execClaim a0 a1 s
  | .release a0 => Sys2Proof.Machine.execRelease a0 s
  | .mtc a0 a1 a2 a3 => Sys2Proof.Machine.execMtc a0 a1 a2 a3 s
  | .accrd a0 a1 a2 a3 => Sys2Proof.Machine.execAccrd a0 a1 a2 a3 s
  | .enq a0 a1 a2 a3 a4 a5 => Sys2Proof.Machine.execEnq a0 a1 a2 a3 a4 a5 s
  | .tlwait a0 a1 a2 a3 a4 => Sys2Proof.Machine.execTlwait a0 a1 a2 a3 a4 s
  | .tladv a0 a1 => Sys2Proof.Machine.execTladv a0 a1 s
  | .tagwaitAny a0 => Sys2Proof.Machine.execTagwaitAny a0 s
  | .tagwaitAll a0 => Sys2Proof.Machine.execTagwaitAll a0 s
  | .tagff a0 a1 => Sys2Proof.Machine.execTagff a0 a1 s
  | .tagclr a0 => Sys2Proof.Machine.execTagclr a0 s
  | .rvinit a0 a1 a2 => Sys2Proof.Machine.execRvinit a0 a1 a2 s
  | .arrive a0 a1 a2 => Sys2Proof.Machine.execArrive a0 a1 a2 s
  | .rvwait a0 a1 a2 => Sys2Proof.Machine.execRvwait a0 a1 a2 s
  | .bufw a0 a1 => Sys2Proof.Machine.execBufw a0 a1 s
  | .bufp a0 => Sys2Proof.Machine.execBufp a0 s
  | .bufr a0 a1 a2 => Sys2Proof.Machine.execBufr a0 a1 a2 s
  | .bufx a0 a1 => Sys2Proof.Machine.execBufx a0 a1 s
  | .livemark a0 a1 a2 => Sys2Proof.Machine.execLivemark a0 a1 a2 s
  | .cnop a0 a1 => Sys2Proof.Machine.execCnop a0 a1 s
  | .opld a0 => Sys2Proof.Machine.execOpld a0 s
  | .mmgo a0 => Sys2Proof.Machine.execMmgo a0 s
  | .mmsl a0 => Sys2Proof.Machine.execMmsl a0 s
  | .accz a0 => Sys2Proof.Machine.execAccz a0 s
  | .accst a0 => Sys2Proof.Machine.execAccst a0 s
  | .accld a0 => Sys2Proof.Machine.execAccld a0 s
  | .mdqfill a0 => Sys2Proof.Machine.execMdqfill a0 s
  | .skgo a0 => Sys2Proof.Machine.execSkgo a0 s
  | .skscore a0 => Sys2Proof.Machine.execSkscore a0 s
  | .cbtab a0 => Sys2Proof.Machine.execCbtab a0 s
  | .cpy a0 => Sys2Proof.Machine.execCpy a0 s
  | .cpyg a0 => Sys2Proof.Machine.execCpyg a0 s
  | .cpys a0 => Sys2Proof.Machine.execCpys a0 s
  | .cpyop a0 => Sys2Proof.Machine.execCpyop a0 s
  | .cpyfill a0 => Sys2Proof.Machine.execCpyfill a0 s
  | .nput a0 => Sys2Proof.Machine.execNput a0 s
  | .nget a0 => Sys2Proof.Machine.execNget a0 s
  | .nsig a0 => Sys2Proof.Machine.execNsig a0 s
  | .natom a0 => Sys2Proof.Machine.execNatom a0 s
  | .ncoll a0 => Sys2Proof.Machine.execNcoll a0 s
  | .nxpert a0 => Sys2Proof.Machine.execNxpert a0 s
  | .nabort a0 => Sys2Proof.Machine.execNabort a0 s
  | .btalloc a0 => Sys2Proof.Machine.execBtalloc a0 s
  | .btfree a0 => Sys2Proof.Machine.execBtfree a0 s
  | .btshare a0 => Sys2Proof.Machine.execBtshare a0 s
  | .btcow a0 => Sys2Proof.Machine.execBtcow a0 s
  | .btwalk a0 => Sys2Proof.Machine.execBtwalk a0 s
  | .btevict a0 => Sys2Proof.Machine.execBtevict a0 s
  | .sumupd a0 => Sys2Proof.Machine.execSumupd a0 s
  | .ezopen a0 => Sys2Proof.Machine.execEzopen a0 s
  | .eztree a0 => Sys2Proof.Machine.execEztree a0 s
  | .ezcheck a0 => Sys2Proof.Machine.execEzcheck a0 s
  | .ezpark a0 => Sys2Proof.Machine.execEzpark a0 s
  | .ezresume a0 => Sys2Proof.Machine.execEzresume a0 s
  | .ezclose a0 => Sys2Proof.Machine.execEzclose a0 s
  | .eznext a0 => Sys2Proof.Machine.execEznext a0 s
  | .xrun a0 => Sys2Proof.Machine.execXrun a0 s
  | .xstop a0 => Sys2Proof.Machine.execXstop a0 s
  | .xnop a0 a1 => Sys2Proof.Machine.execXnop a0 a1 s
  | .xmov a0 a1 => Sys2Proof.Machine.execXmov a0 a1 s
  | .xmc a0 a1 => Sys2Proof.Machine.execXmc a0 a1 s
  | .xloop a0 a1 => Sys2Proof.Machine.execXloop a0 a1 s
  | .xwait a0 a1 => Sys2Proof.Machine.execXwait a0 a1 s
  | .xsig a0 a1 => Sys2Proof.Machine.execXsig a0 a1 s
  | .xphase a0 a1 => Sys2Proof.Machine.execXphase a0 a1 s
  | .xend a0 a1 => Sys2Proof.Machine.execXend a0 a1 s
  | .exposedResultLanding => Sys2Proof.Machine.execExposedResultLanding s
  | .scalarWriteComplete => Sys2Proof.Machine.execScalarWriteComplete s
  | .storeBufferDrain a0 => Sys2Proof.Machine.execStoreBufferDrain a0 s
  | .instructionFetch => Sys2Proof.Machine.execInstructionFetch s
  | .trapEntry a0 a1 a2 a3 => Sys2Proof.Machine.execTrapEntry a0 a1 a2 a3 s
  | .asynchronousTrap => Sys2Proof.Machine.execAsynchronousTrap s
  | .rftReinstate => Sys2Proof.Machine.execRftReinstate s
  | .engineEntryCompletion a0 a1 => Sys2Proof.Machine.execEngineEntryCompletion a0 a1 s
  | .ringStop a0 a1 => Sys2Proof.Machine.execRingStop a0 a1 s
  | .nestStep a0 => Sys2Proof.Machine.execNestStep a0 s
  | .pairStep => Sys2Proof.Machine.execPairStep s
  | .slotFillComplete a0 => Sys2Proof.Machine.execSlotFillComplete a0 s
  | .tokenRefill a0 => Sys2Proof.Machine.execTokenRefill a0 s
  | .tokenGrant a0 => Sys2Proof.Machine.execTokenGrant a0 s
  | .laneSwapComplete => Sys2Proof.Machine.execLaneSwapComplete s
  | .mclogRead => Sys2Proof.Machine.execMclogRead s
  | .corectlResume a0 => Sys2Proof.Machine.execCorectlResume a0 s
  | .corectlRetire a0 => Sys2Proof.Machine.execCorectlRetire a0 s
  | .corectlLmap a0 a1 => Sys2Proof.Machine.execCorectlLmap a0 a1 s
  | .mgmtRegisterWrite a0 a1 => Sys2Proof.Machine.execMgmtRegisterWrite a0 a1 s
  | .tlbinv a0 => Sys2Proof.Machine.execTlbinv a0 s
  | .tlbinvDone => Sys2Proof.Machine.execTlbinvDone s
  | .pageWalk a0 a1 => Sys2Proof.Machine.execPageWalk a0 a1 s
  | .keyLoad a0 a1 a2 a3 a4 a5 => Sys2Proof.Machine.execKeyLoad a0 a1 a2 a3 a4 a5 s
  | .keyUnload a0 => Sys2Proof.Machine.execKeyUnload a0 s
  | .bankAllocate a0 a1 a2 a3 => Sys2Proof.Machine.execBankAllocate a0 a1 a2 a3 s
  | .bankFree a0 => Sys2Proof.Machine.execBankFree a0 s
  | .scrubComplete a0 => Sys2Proof.Machine.execScrubComplete a0 s
  | .bankIdleTimeout a0 => Sys2Proof.Machine.execBankIdleTimeout a0 s
  | .retainEntry a0 => Sys2Proof.Machine.execRetainEntry a0 s
  | .deepEntry a0 => Sys2Proof.Machine.execDeepEntry a0 s
  | .bankWake a0 => Sys2Proof.Machine.execBankWake a0 s
  | .bankWakeComplete a0 => Sys2Proof.Machine.execBankWakeComplete a0 s
  | .phaseLevelDue a0 a1 => Sys2Proof.Machine.execPhaseLevelDue a0 a1 s
  | .refresh a0 => Sys2Proof.Machine.execRefresh a0 s
  | .temperatureSample a0 a1 => Sys2Proof.Machine.execTemperatureSample a0 a1 s
  | .reflossUpdate a0 => Sys2Proof.Machine.execReflossUpdate a0 s
  | .repairCommit a0 => Sys2Proof.Machine.execRepairCommit a0 s
  | .repairCommitDone a0 => Sys2Proof.Machine.execRepairCommitDone a0 s
  | .coldReset a0 => Sys2Proof.Machine.execColdReset a0 s
  | .warmReset => Sys2Proof.Machine.execWarmReset s
  | .powerLimitAdjust a0 a1 => Sys2Proof.Machine.execPowerLimitAdjust a0 a1 s
  | .thermalAlarm a0 a1 => Sys2Proof.Machine.execThermalAlarm a0 a1 s
  | .droopStretch a0 => Sys2Proof.Machine.execDroopStretch a0 s
  | .droopRecover a0 => Sys2Proof.Machine.execDroopRecover a0 s
  | .contextResident a0 a1 a2 a3 => Sys2Proof.Machine.execContextResident a0 a1 a2 a3 s
  | .contextRemove a0 => Sys2Proof.Machine.execContextRemove a0 s
  | .launchRequest a0 a1 => Sys2Proof.Machine.execLaunchRequest a0 a1 s
  | .launch a0 => Sys2Proof.Machine.execLaunch a0 s
  | .quantumExpiry a0 => Sys2Proof.Machine.execQuantumExpiry a0 s
  | .gswctlWrite a0 => Sys2Proof.Machine.execGswctlWrite a0 s
  | .gangSwitchFire => Sys2Proof.Machine.execGangSwitchFire s
  | .preemption a0 => Sys2Proof.Machine.execPreemption a0 s
  | .preemptRequest a0 => Sys2Proof.Machine.execPreemptRequest a0 s
  | .contextSave a0 => Sys2Proof.Machine.execContextSave a0 s
  | .contextRestore a0 => Sys2Proof.Machine.execContextRestore a0 s
  | .kill a0 => Sys2Proof.Machine.execKill a0 s
  | .requantiseBlock a0 a1 => Sys2Proof.Machine.execRequantiseBlock a0 a1 s
  | .epochFlip a0 a1 => Sys2Proof.Machine.execEpochFlip a0 a1 s
  | .drainingFree a0 a1 => Sys2Proof.Machine.execDrainingFree a0 a1 s
  | .flitReceive a0 a1 => Sys2Proof.Machine.execFlitReceive a0 a1 s
  | .linkIdleTimeout a0 => Sys2Proof.Machine.execLinkIdleTimeout a0 s
  | .linkRetrainDone a0 a1 => Sys2Proof.Machine.execLinkRetrainDone a0 a1 s
  | .readPacket a0 => Sys2Proof.Machine.execReadPacket a0 s
  | .writePacket a0 => Sys2Proof.Machine.execWritePacket a0 s
  | .atomicPacket a0 => Sys2Proof.Machine.execAtomicPacket a0 s
  | .signalPacket a0 => Sys2Proof.Machine.execSignalPacket a0 s
  | .collectiveTransferPacket a0 => Sys2Proof.Machine.execCollectiveTransferPacket a0 s
  | .stopPacket a0 => Sys2Proof.Machine.execStopPacket a0 s
  | .abortPacket a0 => Sys2Proof.Machine.execAbortPacket a0 s
  | .responsePacket a0 => Sys2Proof.Machine.execResponsePacket a0 s
  | .retryPacket a0 => Sys2Proof.Machine.execRetryPacket a0 s
  | .retryResend => Sys2Proof.Machine.execRetryResend s
  | .stopReplyTimeout => Sys2Proof.Machine.execStopReplyTimeout s
  | .loopWalkerTransfer => Sys2Proof.Machine.execLoopWalkerTransfer s
  | .datagramReceive a0 a1 a2 a3 a4 => Sys2Proof.Machine.execDatagramReceive a0 a1 a2 a3 a4 s
  | .datagramResend a0 => Sys2Proof.Machine.execDatagramResend a0 s
  | .retainEntryComplete a0 => Sys2Proof.Machine.execRetainEntryComplete a0 s
  | .laneTransferComplete a0 a1 => Sys2Proof.Machine.execLaneTransferComplete a0 a1 s
  | .preemptAbandonDeadline a0 => Sys2Proof.Machine.execPreemptAbandonDeadline a0 s
  | .tjFallsBelow110 a0 a1 => Sys2Proof.Machine.execTjFallsBelow110 a0 a1 s
  | .gtimeAlignmentLoss a0 => Sys2Proof.Machine.execGtimeAlignmentLoss a0 s
  | .ideEstablishment a0 => Sys2Proof.Machine.execIdeEstablishment a0 s

end Sys2Proof.Machine
end

