-- ==== Sys2Proof/Machine/Sched.lean ====
section
/-! DEFINITION. One step of the machine (R2, R13, R294): the thread of the core in focus issues the bundle at its pc; while it
stalls, or does not run, one of the other agents moves; and `agenda` may name, as data, who moves next and what the
outside does (log 5). Nothing here gives an instruction a meaning: agents move through `exec`, and a bundle through the
`Sem` of its three syllables. -/
namespace Sys2Proof.Machine

/-- The meaning of a syllable in a bundle; what is no syllable does nothing. -/
def semOf (i : Instr) : Sem :=
  match i with
  | .nop _ => semNop
  | .add _ d a b => semAdd d a b
  | .sub _ d a b => semSub d a b
  | .and _ d a b => semAnd d a b
  | .or _ d a b => semOr d a b
  | .xor _ d a b => semXor d a b
  | .andn _ d a b => semAndn d a b
  | .shl _ d a b => semShl d a b
  | .shr _ d a b => semShr d a b
  | .sra _ d a b => semSra d a b
  | .min _ d a b => semMin d a b
  | .max _ d a b => semMax d a b
  | .minu _ d a b => semMinu d a b
  | .maxu _ d a b => semMaxu d a b
  | .seq _ d a b => semSeq d a b
  | .sne _ d a b => semSne d a b
  | .slt _ d a b => semSlt d a b
  | .sltu _ d a b => semSltu d a b
  | .sle _ d a b => semSle d a b
  | .sleu _ d a b => semSleu d a b
  | .mul _ d a b => semMul d a b
  | .mulh _ d a b => semMulh d a b
  | .mulhu _ d a b => semMulhu d a b
  | .div _ d a b => semDiv d a b
  | .divu _ d a b => semDivu d a b
  | .rem _ d a b => semRem d a b
  | .remu _ d a b => semRemu d a b
  | .clz _ d a => semClz d a
  | .ctz _ d a => semCtz d a
  | .popc _ d a => semPopc d a
  | .addi _ d a imm => semAddi d a imm
  | .andi _ d a imm => semAndi d a imm
  | .ori _ d a imm => semOri d a imm
  | .xori _ d a imm => semXori d a imm
  | .shli _ d a cnt => semShli d a cnt
  | .shri _ d a cnt => semShri d a cnt
  | .srai _ d a cnt => semSrai d a cnt
  | .slti _ d a imm => semSlti d a imm
  | .sltiu _ d a imm => semSltiu d a imm
  | .seqi _ d a imm => semSeqi d a imm
  | .muli _ d a imm => semMuli d a imm
  | .extu _ d a w p => semExtu d a w p
  | .exts _ d a w p => semExts d a w p
  | .ins _ d a w p => semIns d a w p
  | .lih _ d imm => semLih d imm
  | .lipc _ d imm => semLipc d imm
  | .beqz _ a off => semBeqz a off
  | .bnez _ a off => semBnez a off
  | .bltz _ a off => semBltz a off
  | .bgez _ a off => semBgez a off
  | .br _ off => semBr off
  | .call _ off => semCall off
  | .jr _ a => semJr a
  | .callr _ d a => semCallr d a
  | .loop _ a off => semLoop a off
  | .ldb _ d a imm => semLdb d a imm
  | .ldbu _ d a imm => semLdbu d a imm
  | .ldh _ d a imm => semLdh d a imm
  | .ldhu _ d a imm => semLdhu d a imm
  | .ldw _ d a imm => semLdw d a imm
  | .ldwu _ d a imm => semLdwu d a imm
  | .ldd _ d a imm => semLdd d a imm
  | .ldc _ d a imm => semLdc d a imm
  | .stb _ d a imm => semStb d a imm
  | .sth _ d a imm => semSth d a imm
  | .stw _ d a imm => semStw d a imm
  | .std _ d a imm => semStd d a imm
  | .lda _ d a b sz u ord sc => semLda d a b sz u ord sc
  | .sta _ d a b sz ord sc => semSta d a b sz ord sc
  | .atom _ d a b op sz => semAtom d a b op sz
  | .atomAcq _ d a b op sz sc => semAtomAcq d a b op sz sc
  | .atomRel _ d a b op sz sc => semAtomRel d a b op sz sc
  | .atomAr _ d a b op sz sc => semAtomAr d a b op sz sc
  | .fence _ sc => semFence sc
  | .fenceU _ sc => semFenceU sc
  | .cinv _ => semCinv
  | .mfs _ d n => semMfs d n
  | .mts _ a n => semMts a n
  | .trap _ code => semTrap code
  | .rft _ => semRft
  | .halt _ => semHalt
  | .publish _ w => semPublish w
  | .setphase _ a lead => semSetphase a lead
  | .vnop => semVnop
  | .vadd ty p d a b => semVadd ty p d a b
  | .vsub ty p d a b => semVsub ty p d a b
  | .vmul ty p d a b => semVmul ty p d a b
  | .vmulh ty p d a b => semVmulh ty p d a b
  | .vadds ty p d a b => semVadds ty p d a b
  | .vsubs ty p d a b => semVsubs ty p d a b
  | .vmin ty p d a b => semVmin ty p d a b
  | .vmax ty p d a b => semVmax ty p d a b
  | .vabs ty p d a => semVabs ty p d a
  | .vneg ty p d a => semVneg ty p d a
  | .vmulw ty p d a b => semVmulw ty p d a b
  | .vaddw ty p d a b => semVaddw ty p d a b
  | .vnarrow ty p d a => semVnarrow ty p d a
  | .vaddi ty p d a imm => semVaddi ty p d a imm
  | .vmac ty p d a b => semVmac ty p d a b
  | .vand ty p d a b => semVand ty p d a b
  | .vor ty p d a b => semVor ty p d a b
  | .vxor ty p d a b => semVxor ty p d a b
  | .vandn ty p d a b => semVandn ty p d a b
  | .vnot ty p d a => semVnot ty p d a
  | .vshl ty p d a b => semVshl ty p d a b
  | .vshr ty p d a b => semVshr ty p d a b
  | .vsra ty p d a b => semVsra ty p d a b
  | .vshli ty p d a imm => semVshli ty p d a imm
  | .vshri ty p d a imm => semVshri ty p d a imm
  | .vsrai ty p d a imm => semVsrai ty p d a imm
  | .vcmp ty p d a b imm => semVcmp ty p d a b imm
  | .vsel ty p d a b c => semVsel ty p d a b c
  | .vsplat ty p d a => semVsplat ty p d a
  | .vsplati ty p d imm => semVsplati ty p d imm
  | .vins ty p d a b => semVins ty p d a b
  | .vext ty d a b => semVext ty d a b
  | .vmov ty p d a => semVmov ty p d a
  | .vfma ty p d a b c => semVfma ty p d a b c
  | .vfms ty p d a b c => semVfms ty p d a b c
  | .vfnma ty p d a b c => semVfnma ty p d a b c
  | .vcvt ty p d a imm => semVcvt ty p d a imm
  | .vdot ty p d a b c => semVdot ty p d a b c
  | .vrcp ty p d a => semVrcp ty p d a
  | .vrsq ty p d a => semVrsq ty p d a
  | .vrcpn ty p d a b => semVrcpn ty p d a b
  | .vrsqn ty p d a b => semVrsqn ty p d a b
  | .vexp2 ty p d a => semVexp2 ty p d a
  | .vlog2 ty p d a => semVlog2 ty p d a
  | .vredadd ty p d a => semVredadd ty p d a
  | .vredmin ty p d a => semVredmin ty p d a
  | .vredmax ty p d a => semVredmax ty p d a
  | .vscan ty p d a => semVscan ty p d a
  | .vppopc ty p d a => semVppopc ty p d a
  | .vtopk ty p d a b imm => semVtopk ty p d a b imm
  | .vperm ty p d a b => semVperm ty p d a b
  | .vslide ty p d a b imm => semVslide ty p d a b imm
  | .vzip ty p d a b => semVzip ty p d a b
  | .vunzip ty p d a => semVunzip ty p d a
  | .vcompress ty d a c => semVcompress ty d a c
  | .vexpand ty d a c => semVexpand ty d a c
  | .vbcaste ty p d a imm => semVbcaste ty p d a imm
  | .vcbdec ty p d a imm => semVcbdec ty p d a imm
  | .scacc ty p d a tile imm => semScacc ty p d a tile imm
  | .pand ty p d a b => semPand ty p d a b
  | .por ty p d a b => semPor ty p d a b
  | .pxor ty p d a b => semPxor ty p d a b
  | .pandn ty p d a b => semPandn ty p d a b
  | .pnot ty p d a => semPnot ty p d a
  | .pseti ty d imm => semPseti ty d imm
  | .ppopc ty p d a => semPpopc ty p d a
  | .pfirst ty p d a => semPfirst ty p d a
  | .vpclr ty p d => semVpclr ty p d
  | .vptest ty p d a => semVptest ty p d a
  | .mnop => semMnop
  | .vld vr w sa imm => semVld vr w sa imm
  | .vst vr w sa imm p gr => semVst vr w sa imm p gr
  | .vgather vr sa vb p => semVgather vr sa vb p
  | .vscatter vr sa vb p => semVscatter vr sa vb p
  | .vrmg vd va p i imm sb => semVrmg vd va p i imm sb
  | .claim slot auto => semClaim slot auto
  | .release slot => semRelease slot
  | .mtc eng set vn ovr => semMtc eng set vn ovr
  | .accrd vd tile row sel => semAccrd vd tile row sel
  | .enq ring vn seg cnt rel sc => semEnq ring vn seg cnt rel sc
  | .tlwait tl sa sc rmt imm => semTlwait tl sa sc rmt imm
  | .tladv tl cnt => semTladv tl cnt
  | .tagwaitAny sa => semTagwaitAny sa
  | .tagwaitAll sa => semTagwaitAll sa
  | .tagff sa sd => semTagff sa sd
  | .tagclr sa => semTagclr sa
  | .rvinit rv lev reg => semRvinit rv lev reg
  | .arrive rv lev reg => semArrive rv lev reg
  | .rvwait rv lev reg => semRvwait rv lev reg
  | .bufw buf sd => semBufw buf sd
  | .bufp buf => semBufp buf
  | .bufr buf sd sa => semBufr buf sd sa
  | .bufx buf sa => semBufx buf sa
  | .livemark i imm sa => semLivemark i imm sa
  | .cnop _ _ => nopSem
  | .opld _ => nopSem
  | .mmgo _ => nopSem
  | .mmsl _ => nopSem
  | .accz _ => nopSem
  | .accst _ => nopSem
  | .accld _ => nopSem
  | .mdqfill _ => nopSem
  | .skgo _ => nopSem
  | .skscore _ => nopSem
  | .cbtab _ => nopSem
  | .cpy _ => nopSem
  | .cpyg _ => nopSem
  | .cpys _ => nopSem
  | .cpyop _ => nopSem
  | .cpyfill _ => nopSem
  | .nput _ => nopSem
  | .nget _ => nopSem
  | .nsig _ => nopSem
  | .natom _ => nopSem
  | .ncoll _ => nopSem
  | .nxpert _ => nopSem
  | .nabort _ => nopSem
  | .btalloc _ => nopSem
  | .btfree _ => nopSem
  | .btshare _ => nopSem
  | .btcow _ => nopSem
  | .btwalk _ => nopSem
  | .btevict _ => nopSem
  | .sumupd _ => nopSem
  | .ezopen _ => nopSem
  | .eztree _ => nopSem
  | .ezcheck _ => nopSem
  | .ezpark _ => nopSem
  | .ezresume _ => nopSem
  | .ezclose _ => nopSem
  | .eznext _ => nopSem
  | .xrun _ => nopSem
  | .xstop _ => nopSem
  | .xnop _ _ => nopSem
  | .xmov _ _ => nopSem
  | .xmc _ _ => nopSem
  | .xloop _ _ => nopSem
  | .xwait _ _ => nopSem
  | .xsig _ _ => nopSem
  | .xphase _ _ => nopSem
  | .xend _ _ => nopSem
  | .exposedResultLanding => nopSem
  | .scalarWriteComplete => nopSem
  | .storeBufferDrain _ => nopSem
  | .instructionFetch => nopSem
  | .trapEntry _ _ _ _ => nopSem
  | .asynchronousTrap => nopSem
  | .rftReinstate => nopSem
  | .engineEntryCompletion _ _ => nopSem
  | .ringStop _ _ => nopSem
  | .nestStep _ => nopSem
  | .pairStep => nopSem
  | .slotFillComplete _ => nopSem
  | .tokenRefill _ => nopSem
  | .tokenGrant _ => nopSem
  | .laneSwapComplete => nopSem
  | .mclogRead => nopSem
  | .corectlResume _ => nopSem
  | .corectlRetire _ => nopSem
  | .corectlLmap _ _ => nopSem
  | .mgmtRegisterWrite _ _ => nopSem
  | .tlbinv _ => nopSem
  | .tlbinvDone => nopSem
  | .pageWalk _ _ => nopSem
  | .keyLoad _ _ _ _ _ _ => nopSem
  | .keyUnload _ => nopSem
  | .bankAllocate _ _ _ _ => nopSem
  | .bankFree _ => nopSem
  | .scrubComplete _ => nopSem
  | .bankIdleTimeout _ => nopSem
  | .retainEntry _ => nopSem
  | .deepEntry _ => nopSem
  | .bankWake _ => nopSem
  | .bankWakeComplete _ => nopSem
  | .phaseLevelDue _ _ => nopSem
  | .refresh _ => nopSem
  | .temperatureSample _ _ => nopSem
  | .reflossUpdate _ => nopSem
  | .repairCommit _ => nopSem
  | .repairCommitDone _ => nopSem
  | .coldReset _ => nopSem
  | .warmReset => nopSem
  | .powerLimitAdjust _ _ => nopSem
  | .thermalAlarm _ _ => nopSem
  | .droopStretch _ => nopSem
  | .droopRecover _ => nopSem
  | .contextResident _ _ _ _ => nopSem
  | .contextRemove _ => nopSem
  | .launchRequest _ _ => nopSem
  | .launch _ => nopSem
  | .quantumExpiry _ => nopSem
  | .gswctlWrite _ => nopSem
  | .gangSwitchFire => nopSem
  | .preemption _ => nopSem
  | .preemptRequest _ => nopSem
  | .contextSave _ => nopSem
  | .contextRestore _ => nopSem
  | .kill _ => nopSem
  | .requantiseBlock _ _ => nopSem
  | .epochFlip _ _ => nopSem
  | .drainingFree _ _ => nopSem
  | .flitReceive _ _ => nopSem
  | .linkIdleTimeout _ => nopSem
  | .linkRetrainDone _ _ => nopSem
  | .readPacket _ => nopSem
  | .writePacket _ => nopSem
  | .atomicPacket _ => nopSem
  | .signalPacket _ => nopSem
  | .collectiveTransferPacket _ => nopSem
  | .stopPacket _ => nopSem
  | .abortPacket _ => nopSem
  | .responsePacket _ => nopSem
  | .retryPacket _ => nopSem
  | .retryResend => nopSem
  | .stopReplyTimeout => nopSem
  | .loopWalkerTransfer => nopSem
  | .datagramReceive _ _ _ _ _ => nopSem
  | .datagramResend _ => nopSem
  | .retainEntryComplete _ => nopSem
  | .laneTransferComplete _ _ => nopSem
  | .preemptAbandonDeadline _ => nopSem
  | .tjFallsBelow110 _ _ => nopSem
  | .gtimeAlignmentLoss _ => nopSem
  | .ideEstablishment _ => nopSem

/-- The state that a meaning leaves; a stop leaves the state as it was. -/
def after (f : State → Host.Outcome State Fault Refusal) (s : State) : State :=
  match f s with
  | .next t => t
  | .fault _ => s
  | .refused _ => s

/-- The trap of a bundle whose syllable in slot `slot` is no instruction (R13, R22). -/
def decodeTrap (slot : Nat) (e : DecodeErr) (w : Nat) : Trap :=
  { cause := if e.isEmulate then 2 else 1, slot := slot, code := 0, tval := 0, bundle := if e.isEmulate then w else 0,
    emu := e.isEmulate }

/-- A bundle with bits `w` issues (R13): decoded whole, or the trap of its first syllable that is no instruction. -/
def runBundle (w : Nat) (s : State) : State :=
  match decodeBundle w with
  | .ok b => issue (idleOf w) (semOf b.s) (semOf b.v) (semOf b.m) s
  | .error (slot, e) => trapNow (decodeTrap slot e w) s.core.pc s

/-- The thread of the focused core moves (R51, R69, R394): a pending asynchronous trap is taken, or the bundle at the pc is
fetched and issues. -/
def threadStep (s : State) : State :=
  match asyncPending s with
  | some _ => takeAsync s
  | none =>
    match fetchBundle s with
    | .ok w => runBundle w (fetchTouch s)
    | .error e => fetchFault e s

/-- Some word of entry `e` of ring `q` is uncorrectable: its place (R181). -/
def entryBad (c : Core) (q e : Nat) : Option Nat :=
  let o := entryOffset q e
  (c.badRows.find? fun b => decide (o < 512 * b.1 + 8 * b.2 + 8) && decide (512 * b.1 + 8 * b.2 < o + 48)).map
    fun b => b.1 * 2 ^ 16 + b.2

/-- The next entry of ring `q` does what its 48 bytes say (R33, R35, R36): a broken frame stops it at once, and a number that is no
command once its wait is met; else the command does what it does. -/
def runEntry (q e : Nat) (s : State) : State :=
  match parseEntry e with
  | none => illegal q s
  | some (_, _, _, c) =>
    match decodeEntry q e with
    | .ok i => after (exec i) s
    | .error .frame => illegal q s
    | .error d => if waitMet s.core c then (if d.isEmulate then endBad q codeEmulate 0 0 s else illegal q s) else s

/-- The entry with bytes `e` has its wait met and has neither ended nor started a nest: it executes with those bytes when it goes on
(R40). -/
def keepEntry (q e : Nat) (s t : State) : State :=
  match parseEntry e with
  | some (_, _, _, c) =>
    if waitMet s.core c && canBegin q t.core && (getRing t.core q).results == (getRing s.core q).results then
      withCore t (setRing t.core q (keepBytes e (getRing t.core q)))
    else t
  | none => t

/-- The next entry of ring `q` begins, or goes on with the bytes that the engine has read (R33, R40): an uncorrectable word of them
stops it at once (R181). -/
def beginEntry (q : Nat) (s : State) : State :=
  if (curSlot s).isNone || !canBegin q s.core then s
  else
    match readBytes (getRing s.core q) with
    | some e => runEntry q e s
    | none =>
      let n := nextEntry s.core q
      match entryBad s.core q n with
      | some p => logStop 1 p (endBad q codeCheck 0 0 s)
      | none => keepEntry q (entryBytes s.core q n) s (runEntry q (entryBytes s.core q n) s)

/-- The state after a move, none when nothing moved. -/
def moved (f : State → State) (s : State) : Option State :=
  let t := f s
  if t = s then none else some t

/-- Every begun entry of ring `q` that has run to its end is posted or completes, the head first (R33, R310). -/
def completeRing (q : Nat) (s : State) : State :=
  (List.range 8).foldl (fun t n => after (execEngineEntryCompletion (.ofNat 3 q) (.ofNat 3 n)) t) s

/-- The moves of ring `q`, once the column's refills are done. -/
def ringMoves (q : Nat) (s : State) : Option State :=
  (moved (completeRing q) s).or <| (moved (after (execRingStop (.ofNat 3 q) 0)) s).or <|
    (if q = 0 then (moved (after (execNestStep false)) s).or (moved (after execPairStep) s)
     else if q = 1 then moved (after (execNestStep true)) s else none).or <|
    moved (beginEntry q) s

/-- Ring `q` of the focused core moves: it completes what has ended, stops at an entry that cannot complete, runs a step of
its nest, or begins its next entry. -/
def ringMove (q : Nat) (s : State) : Option State :=
  let g := getRing s.core q
  if g.stopped || (g.occ == 0 && g.results.isEmpty) then none
  else ringMoves q (if q ≤ 1 then refillsDue (colOf s.coreNo) s else s)

/-- A transfer instruction of 32 bytes at the PC of a lane (R41, R246), or its fault; as an engine access it presents no key handle (R293). -/
def laneFetch (slot pc : Nat) (s : State) : Except Nat Nat :=
  match translate s slot pc .fetch with
  | .error e => .error e
  | .ok lf =>
    match keyFor s slot 0 lf with
    | .error e => .error e
    | .ok _ =>
      let pa := physOf lf pc
      if sectorsOk s pa 32 then .ok (loadNum s lf.tol pc pa 32) else .error codeCheck

/-- The stop of a lane whose PC holds no transfer instruction (R43). -/
def laneNoInstr (l : Nat) (d : DecodeErr) (_ : Nat) (v : Lane) (s : State) : State :=
  laneStop l (if d.isEmulate then codeEmulate else codeIllegal) v v.pc s

/-- Lane `l` performs the instruction at its PC, or ends a transfer that is in flight (R246, R250). -/
def laneMove (l : Nat) (s : State) : Option State :=
  let v := getLane s l
  if v.st == .idle then none
  else
    (if v.fly = [] then none
     else (moved (after (execLaneTransferComplete (.ofNat 3 l) 0)) s).or (moved (asUnit l (laneBegin l v.slot)) s)).or <|
      match laneSlot s l with
      | none => none
      | some slot =>
        if v.st != .running then none
        else if v.halt then moved (laneHalt l) s
        else
          match laneFetch slot v.pc.toNat { s with unit := some l } with
          | .error e => moved (asUnit l (laneFault l slot v (e, v.pc.toNat))) s
          | .ok w =>
            let touched := asUnit l (touchVa slot v.pc.toNat) s
            match decodeX (.ofNat 3 l) w with
            | .ok i => (moved (after (exec i)) s).map fun _ => after (exec i) touched
            | .error d => (moved (laneGo l (laneNoInstr l d)) s).map fun _ => laneGo l (laneNoInstr l d) touched

/-- Column `c` does the refills that are due and grants the request at the head of its queue (R219, R220). -/
def columnMove (c : Nat) (s : State) : Option State :=
  if (getCol s c).tokq.isEmpty then none
  else moved (fun t => after (execTokenGrant (.ofNat 3 c)) (refillsDue c t)) s

/-- Partition `p` goes on with a switch, runs a launch, or gives way (R381, R383, R386, R387). -/
def partMove (p : Nat) (s : State) : Option State :=
  if s.ctxs.isEmpty then none
  else
    [execContextSave, execPreemption, execQuantumExpiry, execLaunch, execContextRestore].findSome? fun f =>
      moved (after (f (.ofNat 3 p))) s

/-- The block store of a context in one column goes on with its queue and its frames (R325, R326). -/
def storeMove (slot col : Nat) (s : State) : Option State :=
  [execDrainingFree, execEpochFlip, execRequantiseBlock].findSome? fun f => moved (after (f (.ofNat 3 slot) (.ofNat 3 col))) s

/-- The block stores of the resident contexts. -/
def storesMove (s : State) : Option State :=
  s.ctxs.findSome? fun e => match e.2 with
    | some c => c.kv.findSome? fun k => storeMove e.1 k.1 s
    | none => none

/-- Pending levels that are due come into force (R270). -/
def phaseMove (s : State) : Option State :=
  s.ctxs.findSome? fun e => match e.2 with
    | some c => c.phasePend.findSome? fun p => moved (after (execPhaseLevelDue (.ofNat 3 e.1) (.ofNat 4 p.1))) s
    | none => none

/-- A step of the focused core's own that waits for nothing: a lane copy, a walker, a store that drains, or a result that lands
while the core is halted. -/
def coreMove (s : State) : Option State :=
  (if s.core.swapLeft = 0 then none else moved (after execLaneSwapComplete) s).or <|
    (if s.core.walkers.isEmpty then none else moved (after execLoopWalkerTransfer) s).or <|
    (if s.core.sb.isEmpty then none else moved (after (execStoreBufferDrain 0)) s).or <|
    if s.core.halted && !s.core.inflight.isEmpty then moved (after execExposedResultLanding) s else none

/-- The next core after the one in focus, by number and around, on which something can move. -/
def nextBusy (s : State) : Option Nat :=
  let ok := fun (e : Nat × Core) => savedBusy e.2 && (slotOf s e.1).isSome
  let up := s.others.find? fun e => decide (s.coreNo < e.1) && ok e
  ((up.or (s.others.find? ok)).map (·.1))

/-- Another core comes into focus, when something can move there. -/
def rotate (s : State) : State :=
  match nextBusy s with
  | some k => focus k s
  | none => s

/-- The first agent that can move moves; without one, another core comes into focus (log 5). -/
def background (s : State) : State :=
  ([0, 1, 2, 3, 4, 5].findSome? (fun q => ringMove q s)
    |>.or (coreMove s)
    |>.or ([0, 1, 2, 3, 4, 5, 6, 7].findSome? fun l => laneMove l s)
    |>.or ([0, 1, 2, 3, 4, 5, 6, 7].findSome? fun c => columnMove c s)
    |>.or ([0, 1, 2, 3, 4, 5, 6, 7].findSome? fun p => partMove p s)
    |>.or (if s.gswctl.getLsbD 63 then moved (after execGangSwitchFire) s else none)
    |>.or (storesMove s)
    |>.or (phaseMove s)
    |>.or (if s.tlbinv.getLsbD 63 then moved (after execTlbinvDone) s else none)
    |>.or (if s.retryq.isEmpty then none else moved (after execRetryResend) s)).getD (rotate s)

/-- The thread did not leave its bundle: pc, issue clock and trap status are unchanged; or it went backwards in its code,
where a thread that polls must let the others move (log 5). -/
def yields (s t : State) : Bool := decide (t.core.pc.toNat ≤ s.core.pc.toNat) && t.core.tstat == s.core.tstat

/-- What a thread's step adds around the instruction: where the thread yields, another agent moves too. -/
def settleStep (s t : State) : State := if yields s t then background t else t

/-- The machine moves without an agenda. -/
def freeStep (s : State) : State :=
  if resetting s then (let t := after execWarmReset s; if t = s then passCycles 1 s else t)
  else if running s then settleStep s (threadStep s)
  else
    let t := background s
    if t = s then passCycles 1 s else if t.coreNo = s.coreNo then t else passCycles 1 t

/-- A word of the accumulator store goes bad: of a tile, or, in area 127, a status word or a word of a resume record (R198). -/
def tileGoesBad (a b x : Nat) (k : Core) : Core :=
  let c := { k with badTiles := k.badTiles ++ [(a, b)] }
  if a ≠ 127 then setTile c a { getTile c a with m := .ofNat 98304 (putBits (getTile c a).m.toNat (64 * b) 64 x) }
  else if b < 128 then setTile c b { getTile c b with stat := .ofNat 64 x &&& statMask }
  else
    let sk := decide (resumeWord true 0 ≤ b)
    setResume sk c (.ofNat 16384 (putBits (getResume sk c).toNat (64 * (b - resumeWord sk 0)) 64 x))

/-- A slice of a vector register, or of a predicate, in physical lane `l` loses its parity (R91): the slice that instructions see
where steering puts the lane in use, or the one of the lane out of use. -/
def sliceGoesBad (a r l x : Nat) (k : Core) : Core :=
  let c := { k with parityBad := k.parityBad ++ [(a, r, l)] }
  let p := if l = 32 then laneOf k.lanemap else l
  let v := Sparse.get VReg.zero k.vregs r
  let q := Sparse.get 0 k.pregs r
  if a = 0 then
    if laneUsed k l then
      { c with vregs := Sparse.set VReg.zero k.vregs r { v with bits := .ofNat 4096 (putBits v.bits.toNat (128 * p) 128 x) } }
    else { c with spareV := Sparse.set (0, 0) k.spareV r (.ofNat 128 x, (Sparse.get (0, 0) k.spareV r).2) }
  else if laneUsed k l then { c with pregs := Sparse.set 0 k.pregs r (.ofNat 1024 (putBits q.toNat (32 * p) 32 x)) }
  else { c with spareP := Sparse.set 0 k.spareP r (.ofNat 32 x) }

/-- The place that a failure names exists: a word of the scratchpad, of an area of operand memory or of the accumulator store, or a
slice of a register in a lane (R397). -/
def placeIs (what a b e : Nat) : Bool :=
  match what with
  | 0 => decide (a < 6144) && decide (b < 64)
  | 1 => (a == 0 && decide (b < 32) && decide (e < 2048)) || (a == 1 && decide (b < 32) && decide (e < 128)) ||
      (a == 2 && b == 0 && decide (e < 32768))
  | 2 => (decide (a < 80) && decide (b < 1536)) || (a == 127 && (decide (b < 80) || (decide (128 ≤ b) && decide (b < 640))))
  | _ => (a == 0 && decide (b < 64) || a == 1 && decide (b < 16)) && decide (e ≤ 32)

/-- A word of a core's memories goes bad, or a register slice loses its parity: what it holds from then on is the free value
`x` (R91, R181, R198; log 53). Words whose readers only stop keep no value that a program can see. -/
def goesBad (what a b e x : Nat) (k : Core) : Core :=
  if !placeIs what a b e then k
  else
    match what with
    | 0 => { setRow k a (.ofNat 4096 (putBits (getRow k a).toNat (64 * b) 64 x)) with badRows := k.badRows ++ [(a, b)] }
    | 1 => { k with badSlots := k.badSlots ++ [(a, b, e)] }
    | 2 => tileGoesBad a b x k
    | _ => sliceGoesBad a b e x k

/-- The contexts that run have their due levels in force, and their wakes that have begun noted, before GTIME changes (R271, R390). -/
def commitPhases (s : State) : State :=
  { s with ctxs := s.ctxs.map fun e => (e.1, e.2.map fun c => if c.running then phaseCommit s c else c) }

/-- Host software sets GTIME, once after a cold reset: it never decreases (R390). -/
def setGtime (ns : Nat) (s : State) : State :=
  if s.gset then s else { commitPhases s with gset := true, gbase := ns % 2 ^ 64, gclk := s.clock, gppm := 0 }

/-- GTIME is corrected by slewing, at no more than 100 parts per million, from its present value on (R390). -/
def slewGtime (ppm : Int) (s : State) : State :=
  if !s.gset ∨ ppm < -100 ∨ 100 < ppm then s else { commitPhases s with gbase := s.gbase + gtimeRun s, gclk := s.clock, gppm := ppm }

/-- A link of another package goes down, or comes up again (R352): what needed it is lost. -/
def remoteLink (pkg port : Nat) (down : Bool) (s : State) : State :=
  let l := s.deadLinks.filter (· != (pkg, port))
  if down then loseDown { s with deadLinks := l ++ [(pkg, port)] } else { s with deadLinks := l }

/-- A bank record of another package changes there, its reserved bits reading zero and its OWNER one of R263's (R10, R263);
translations into a bank that changed hands, or whose stack awaits its repair again, end with it, and it waits for their accesses
(R267, R279, R289). -/
def remoteBank (b : Nat) (w : BitVec 32) (s : State) : State :=
  let v := w &&& 0xFFFCFFFF
  let old := bankRec s b
  let same := recOwner old == recOwner v && bfield old 22 4 == bfield v 22 4 && decide (bfield v 31 1 ≤ bfield old 31 1)
  if b / 65536 = s.pkgNo.toNat ∨ (8 ≤ recOwner v ∧ recOwner v < 15) ∨ (!same ∧ bankHeld s b) then s
  else
    let t := if same then s else endBank b s
    { t with banks := Sparse.set bankReset t.banks b v }

/-- Host software, or an agent outside the package, writes bytes at a physical address: they reach its banks (R263, R264), and a sector
written whole becomes correct (R396); a bank of this package that is free, or whose stack awaits its repair, takes none (R267, R279). -/
def outsideWrite (pa : Nat) (l : List Byte) (s : State) : State :=
  if l = [] ∨ (spanBanks pa l.length).any (fun b => b / 65536 == s.pkgNo.toNat &&
      (recOwner (bankRec s b) == 15 || bfield (bankRec s b) 31 1 == 1)) then s
  else
    let t := (List.range ((pa + l.length - 1) / 64 - pa / 64 + 1)).foldl (fun t i => touchBank t 15 (64 * (pa / 64 + i))) s
    { putMem { t with behalf := some (0, 0) } pa l.length (Memory.writeL t.mem pa l) with behalf := s.behalf }

/-- A column stays off (R408): its stack holds nothing, no bank of it is allocated, so that every access to it faults, and none is
granted from then on (log 77). -/
def columnOff (c : Nat) (s : State) : State :=
  let mine := fun (b : Nat) => b / 65536 == s.pkgNo.toNat && b / 4096 % 16 == c
  if 8 ≤ c then s
  else
    let t := setCol s c { getCol s c with failed := true }
    tellHost
      { t with
        banks := s.banks.filter (fun e => !mine e.1), bankT := s.bankT.filter (fun e => !mine e.1),
        bankReqs := s.bankReqs.filter (fun r => !(r.banks.any fun b => b / 4096 == c)),
        tlb := s.tlb.filter (fun e => !mine (paBank e.leaf.base)), mem := s.mem.filter (fun e => !mine (paBank e.1)),
        badMem := s.badMem.filter (fun x => !mine (paBank (64 * x))), badL2 := s.badL2.filter (fun e => !mine (paBank (64 * e.1))) }
      (.columnFailed c)

/-- During a warm reset only a reset, the hosts and what happens to memory go on, and, once the agents have stopped and lost what they
held, the training of the links (R405, R406). -/
def inReset (s : State) (x : Turn) : Bool :=
  match x with
  | .event _ (.linkRetrainDone _ _) | .linkUp _ => s.wrst.getLsbD 1
  | .event _ (.coldReset _) | .event _ .warmReset | .cycle _ | .memWrite _ _ | .hostRead _ _ | .hostWrite _ _ _ | .windowRead _ _ _ _ _
  | .badMem _ | .badL2 _ _ | .corrected _ | .remoteBank _ _ | .remoteCtxs _ | .remoteKey _ _ _ | .remoteLink _ _ _ | .columnOff _ => true
  | _ => false

/-- A turn of the agenda. -/
def turn (x : Turn) (s : State) : State :=
  if resetting s && !inReset s x then s else
  match x with
  | .thread c => let t := focus c s; if running t then threadStep t else t
  | .ring c q => let t := focus c s; (ringMove q t).getD t
  | .lane l => (laneMove l s).getD s
  | .event c i => after (exec i) (focus c s)
  | .cycle c => passCycles 1 (focus c s)
  | .memWrite pa l => outsideWrite pa l s
  | .mapWindow slot w base len vaddr => mapWindow slot w base len vaddr s
  | .setGtime ns => setGtime ns s
  | .slewGtime ppm => slewGtime ppm s
  | .hostRead ep off => hostRead ep off s
  | .hostWrite ep off v => hostWrite ep off v s
  | .windowRead ep slot w off n => windowRead ep slot w off n s
  | .windowWrite _ _ _ _ _ => s
  | .attach slot ep fn => attach slot ep fn s
  | .badCore c what a b e =>
    let d := draw s
    let f := draw d.2
    setCore f.2 c (goesBad what a b e (d.1.toNat + 2 ^ 64 * f.1.toNat) (getCore s c))
  | .badMem x => { s with badMem := s.badMem ++ [x] }
  | .badL2 x place => { s with badL2 := s.badL2 ++ [(x, Nat.land place (whereMask 5))] }
  | .corrected e => logMc s (correctedEntry e)
  | .linkUp p => setLink s p { Link.fresh with st := .up, credits := [(0, 64), (1, 64), (2, 64), (3, 64)] }
  | .remoteBank b v => remoteBank b v s
  | .remoteCtxs l => { s with remotes := l }
  | .remoteKey pkg h k => { s with keys := Sparse.set none s.keys (1024 * pkg + h % 1024) k }
  | .remoteTlbinv v => tlbInvalidate v.toNat s
  | .remoteRv job k init => remoteRv job k init s
  | .jobKey slot key => modCtx s slot fun c => { c with jobKey := key }
  | .remoteLink pkg port down => remoteLink pkg port down s
  | .columnOff c => columnOff c s

/-- One step: the agenda's next turn, or the machine by itself. -/
def machineStep (s : State) : State :=
  match s.agenda with
  | x :: r => turn x { s with agenda := r }
  | [] => freeStep s

end Sys2Proof.Machine
end

