-- ==== Sys2Proof/Machine/Load.lean ====
section
/-! DEFINITION. Loading a bundle: what host software and a launch do (R379, R381, R403), done at once, so that the bundle at the
pc of the focused core is the next thing that the machine runs (log 22). -/
namespace Sys2Proof.Machine

/-- The context that a load makes resident where none runs: every field zero but its width and its partition. -/
def loadedCtx (s : State) : Ctx :=
  { job := 0, cls := 0, width := 3 - s.partcfg, ptroot := 0, savebase := 0, trbase := 0, quantum := 0, dbell := 0, transport := 0, jobKey := 0,
    part := partOf s s.coreNo, running := true, launched := true, saved := [], lanes := [], launch := none, rv := [], bufs := [],
    phase := 0, phasePend := [], wakeFrom := [], phasemiss := 0, wins := [], kv := [], host := none }

/-- The page that a load maps: 64 KiB at the start of the package's memory, writable and executable (R284). -/
def loadedLeaf (s : State) : Leaf :=
  { base := 2 ^ 40 * s.pkgNo.toNat, lg := 16, w := true, x := true, kind := 0, cls := 0, tol := 0, kh := 0, bset := 0 }

/-- The core runs from its pc: it is neither halted nor stopped, and no asynchronous trap waits. -/
def loadedCore (c : Core) : Core :=
  { c with halted := false, checkstop := false, retired := false, swapLeft := 0, abortPend := [],
           rings := c.rings.map (fun p => (p.1, if p.2.stopped then { p.2 with reported := true } else p.2)),
           pc := c.pc &&& 0x01FFFFFFFFFFFFF0, icache := Sparse.erase c.icache (c.pc &&& 0x01FFFFFFFFFFFFF0).toNat }

/-- A context runs on the focused core, in its own slot, or in slot 0 where none ran. -/
def loadedRun (s : State) : State :=
  match curCtx s with
  | some _ => s
  | none =>
    { setCtx s 0 (some (loadedCtx s)) with
      parts := Sparse.set Part.idle s.parts (partOf s s.coreNo) { Part.idle with slot := some 0 } }

/-- A bundle placed at the focused core's pc, where the next step fetches it. -/
def loadBundle (s : State) (nbits w : Nat) : State :=
  let t := loadedRun s
  let k := loadedCore t.core
  let slot := (curSlot t).getD 0
  let lf := loadedLeaf t
  let pa := physOf lf k.pc.toNat
  { t with core := k, agenda := [],
           tlb := { home := t.coreNo, slot := slot, page := k.pc.toNat / 65536, leaf := lf } :: t.tlb,
           mem := Memory.writeL t.mem pa (toBytes 16 (w % 2 ^ Nat.min nbits 128)),
           badMem := t.badMem.filter fun b => b ≠ pa / 64 }

end Sys2Proof.Machine
end

