-- ==== Sys2Proof/Machine/Step.lean ====
section
/-! DEFINITION. The step of the machine, and the load of one bundle where the step fetches next. -/
namespace Sys2Proof.Machine

/-- One step (R2, R294; log 5). Every exception is taken as a next state. -/
def step (s : State) : Host.Outcome State Fault Refusal := .next (machineStep s)

/-- `s` with the bundle whose low `nbits` bits are `w`, the others zero, stored at the pc of the focused core, loaded as host
software loads a program (log 22). -/
def State.withFetchWord (s : State) (nbits w : Nat) : State := loadBundle s nbits w

end Sys2Proof.Machine
end

