-- ==== Sys2Proof/Laws/Codec.lean ====
section
/-! SUPPORT. Fields packed into a word come apart again: what the round trips of the decoder rest on. -/
namespace Sys2Proof.Machine

/-- Cutting a word at the widths at which it was put together gives the fields, each within its width. -/
theorem unpack_pack : ∀ l : List (Nat × Nat), unpack (l.map (·.1)) (pack l) = l.map fun e => e.2 % 2 ^ e.1
  | [] => rfl
  | (w, v) :: r => by
    have h1 : (v % 2 ^ w + 2 ^ w * pack r) % 2 ^ w = v % 2 ^ w := by
      rw [Nat.add_mul_mod_self_left, Nat.mod_mod]
    have h2 : (v % 2 ^ w + 2 ^ w * pack r) / 2 ^ w = pack r := by
      rw [Nat.add_mul_div_left _ _ (Nat.two_pow_pos w), Nat.div_eq_of_lt (Nat.mod_lt _ (Nat.two_pow_pos w)), Nat.zero_add]
    simp only [List.map_cons, pack, unpack, h1, h2, unpack_pack r]

/-- A packed word lies below the power of two of its whole width. -/
theorem pack_lt : ∀ l : List (Nat × Nat), pack l < 2 ^ (l.map (·.1)).sum
  | [] => by simp [pack]
  | (w, v) :: r => by
    have h := pack_lt r
    have h1 := Nat.mod_lt v (Nat.two_pow_pos w)
    simp only [List.map_cons, List.sum_cons, pack, Nat.pow_add]
    calc v % 2 ^ w + 2 ^ w * pack r < 2 ^ w + 2 ^ w * pack r := by omega
      _ = 2 ^ w * (pack r + 1) := by rw [Nat.mul_add, Nat.mul_one, Nat.add_comm]
      _ ≤ 2 ^ w * 2 ^ (r.map (·.1)).sum := Nat.mul_le_mul_left _ h

/-- What stands above the first field of a packed word. -/
theorem pack_div (w v : Nat) (r) : pack ((w, v) :: r) / 2 ^ w = pack r := by
  simp only [pack]
  rw [Nat.add_mul_div_left _ _ (Nat.two_pow_pos w), Nat.div_eq_of_lt (Nat.mod_lt _ (Nat.two_pow_pos w)), Nat.zero_add]

/-- The first field of a packed word. -/
theorem pack_mod (w v : Nat) (r) : pack ((w, v) :: r) % 2 ^ w = v % 2 ^ w := by
  simp only [pack]; rw [Nat.add_mul_mod_self_left, Nat.mod_mod]

/-- A packed word of `n` bits is its own low `n` bits. -/
theorem pack_low {n : Nat} (l : List (Nat × Nat)) (h : (l.map (·.1)).sum = n) : pack l % 2 ^ n = pack l :=
  Nat.mod_eq_of_lt (h ▸ pack_lt l)

/-- The opcode, idle count and operands of an S syllable that was put together. -/
theorem parseS_pack (l : List (Nat × Nat)) (o i : Nat) (h : (l.map (·.1)).sum = 23) :
    parseS (pack [(23, pack l), (6, o), (3, i)]) = parseSOp (.ofNat 3 (i % 2 ^ 3)) (o % 2 ^ 6) (pack l) := by
  rw [← pack_low l h]
  have h := unpack_pack [(23, pack l % 2 ^ 23), (6, o), (3, i)]
  simp only [List.map] at h
  simp only [parseS, h, Nat.mod_mod]

/-- The opcode and operands of a V syllable that was put together. -/
theorem parseV_pack (l : List (Nat × Nat)) (o : Nat) (h : (l.map (·.1)).sum = 40) :
    parseV (pack [(40, pack l), (8, o)]) = parseVOp (o % 2 ^ 8) (pack l) := by
  rw [← pack_low l h]
  have h := unpack_pack [(40, pack l % 2 ^ 40), (8, o)]
  simp only [List.map] at h
  simp only [parseV, h, Nat.mod_mod]

/-- The opcode and operands of an M syllable that was put together. -/
theorem parseM_pack (l : List (Nat × Nat)) (o : Nat) (h : (l.map (·.1)).sum = 42) :
    parseM (pack [(42, pack l), (6, o)]) = parseMOp (o % 2 ^ 6) (pack l) := by
  rw [← pack_low l h]
  have h := unpack_pack [(42, pack l % 2 ^ 42), (6, o)]
  simp only [List.map] at h
  simp only [parseM, h, Nat.mod_mod]

/-- A field cut to its own width is itself. -/
theorem ofNat_mod {w : Nat} (x : BitVec w) : BitVec.ofNat w (x.toNat % 2 ^ w) = x := by
  rw [Nat.mod_eq_of_lt x.isLt, BitVec.ofNat_toNat, BitVec.setWidth_eq]

/-- A parsed instruction that is well formed is the decoded one. -/
theorem checked_ok {r : Except DecodeErr Instr} {i : Instr} (h : r = .ok i) (hw : i.wf = true) : checked r = .ok i := by
  subst h; simp only [checked, hw, if_true]

/-- The words of a command that were put together. -/
theorem parseEntry_pack (r n : Nat) (c : Cmd) (hr : r < 8) (hn : n < 32) :
    parseEntry (pack [(40, c.arg.toNat), (2, 0), (6, c.tag.toNat), (2, 0), (2, c.rtl.toNat), (4, c.wtl.toNat), (5, n), (3, r),
      (64, c.waitv.toNat), (64, c.p0.toNat), (64, c.p1.toNat), (64, c.p2.toNat), (64, c.p3.toNat)]) = some (r, n, true, c) := by
  have h := unpack_pack [(40, c.arg.toNat), (2, 0), (6, c.tag.toNat), (2, 0), (2, c.rtl.toNat), (4, c.wtl.toNat), (5, n), (3, r),
      (64, c.waitv.toNat), (64, c.p0.toNat), (64, c.p1.toNat), (64, c.p2.toNat), (64, c.p3.toNat)]
  simp only [List.map] at h
  simp only [parseEntry, h, ofNat_mod, Nat.mod_eq_of_lt (show r < 2 ^ 3 from hr), Nat.mod_eq_of_lt (show n < 2 ^ 5 from hn)]
  rfl

/-- A command's entry is decoded as its number says. -/
theorem decodeEntry_parts {i : Instr} {r n : Nat} {c : Cmd} (h : cmdParts i = some (r, n, c)) (hr : r ≤ 5) (hn : n < 32)
    (hc : cmdOk (r == 2) c = true) : decodeEntry r (encodeEntry i) = parseCmdNo r n c := by
  simp only [encodeEntry, h, decodeEntry, parseEntry_pack r n c (by omega) hn, hr, hc, and_self, if_true]

/-- A transfer instruction is decoded as its opcode says. -/
theorem decodeX_parts {i : Instr} {o : Nat} {l : BitVec 3} {w : XWords} (h : xferParts i = some (o, l, w)) (ho : o < 256) :
    decodeX l (encodeX i) = parseXOp l o w := by
  have h1 := unpack_pack [(48, w.op.toNat), (8, w.flags.toNat), (8, o), (64, w.x1.toNat), (64, w.x2.toNat), (64, w.x3.toNat)]
  simp only [List.map] at h1
  simp only [encodeX, h, decodeX, h1, ofNat_mod, Nat.mod_eq_of_lt (show o < 2 ^ 8 from ho)]

end Sys2Proof.Machine
end

