-- ==== Sys2Proof/Laws/PerInstr.lean ====
section
/-! SUPPORT. Each instruction's encoding decodes to it (R12 to R43): one lemma for each constructor. -/
namespace Sys2Proof.Machine

theorem parse_nop (idle : BitVec 3) : parseS (encodeS (.nop idle)) = .ok (.nop idle) := by
  refine (parseS_pack _ _ _ rfl).trans ?_
  show need _ _ = _
  simp only [ofNat_mod]; rfl

theorem parse_add (idle : BitVec 3) (d : BitVec 5) (a : BitVec 5) (b : BitVec 5) : parseS (encodeS (.add idle d a b)) = .ok (.add idle d a b) := by
  refine (parseS_pack _ _ _ rfl).trans ?_
  show parseSReg _ _ _ _ _ = _; simp only [pack_div, pack_mod]; show Except.ok _ = _; simp only [ofNat_mod]

theorem parse_sub (idle : BitVec 3) (d : BitVec 5) (a : BitVec 5) (b : BitVec 5) : parseS (encodeS (.sub idle d a b)) = .ok (.sub idle d a b) := by
  refine (parseS_pack _ _ _ rfl).trans ?_
  show parseSReg _ _ _ _ _ = _; simp only [pack_div, pack_mod]; show Except.ok _ = _; simp only [ofNat_mod]

theorem parse_and (idle : BitVec 3) (d : BitVec 5) (a : BitVec 5) (b : BitVec 5) : parseS (encodeS (.and idle d a b)) = .ok (.and idle d a b) := by
  refine (parseS_pack _ _ _ rfl).trans ?_
  show parseSReg _ _ _ _ _ = _; simp only [pack_div, pack_mod]; show Except.ok _ = _; simp only [ofNat_mod]

theorem parse_or (idle : BitVec 3) (d : BitVec 5) (a : BitVec 5) (b : BitVec 5) : parseS (encodeS (.or idle d a b)) = .ok (.or idle d a b) := by
  refine (parseS_pack _ _ _ rfl).trans ?_
  show parseSReg _ _ _ _ _ = _; simp only [pack_div, pack_mod]; show Except.ok _ = _; simp only [ofNat_mod]

theorem parse_xor (idle : BitVec 3) (d : BitVec 5) (a : BitVec 5) (b : BitVec 5) : parseS (encodeS (.xor idle d a b)) = .ok (.xor idle d a b) := by
  refine (parseS_pack _ _ _ rfl).trans ?_
  show parseSReg _ _ _ _ _ = _; simp only [pack_div, pack_mod]; show Except.ok _ = _; simp only [ofNat_mod]

theorem parse_andn (idle : BitVec 3) (d : BitVec 5) (a : BitVec 5) (b : BitVec 5) : parseS (encodeS (.andn idle d a b)) = .ok (.andn idle d a b) := by
  refine (parseS_pack _ _ _ rfl).trans ?_
  show parseSReg _ _ _ _ _ = _; simp only [pack_div, pack_mod]; show Except.ok _ = _; simp only [ofNat_mod]

theorem parse_shl (idle : BitVec 3) (d : BitVec 5) (a : BitVec 5) (b : BitVec 5) : parseS (encodeS (.shl idle d a b)) = .ok (.shl idle d a b) := by
  refine (parseS_pack _ _ _ rfl).trans ?_
  show parseSReg _ _ _ _ _ = _; simp only [pack_div, pack_mod]; show Except.ok _ = _; simp only [ofNat_mod]

theorem parse_shr (idle : BitVec 3) (d : BitVec 5) (a : BitVec 5) (b : BitVec 5) : parseS (encodeS (.shr idle d a b)) = .ok (.shr idle d a b) := by
  refine (parseS_pack _ _ _ rfl).trans ?_
  show parseSReg _ _ _ _ _ = _; simp only [pack_div, pack_mod]; show Except.ok _ = _; simp only [ofNat_mod]

theorem parse_sra (idle : BitVec 3) (d : BitVec 5) (a : BitVec 5) (b : BitVec 5) : parseS (encodeS (.sra idle d a b)) = .ok (.sra idle d a b) := by
  refine (parseS_pack _ _ _ rfl).trans ?_
  show parseSReg _ _ _ _ _ = _; simp only [pack_div, pack_mod]; show Except.ok _ = _; simp only [ofNat_mod]

theorem parse_min (idle : BitVec 3) (d : BitVec 5) (a : BitVec 5) (b : BitVec 5) : parseS (encodeS (.min idle d a b)) = .ok (.min idle d a b) := by
  refine (parseS_pack _ _ _ rfl).trans ?_
  show parseSReg _ _ _ _ _ = _; simp only [pack_div, pack_mod]; show Except.ok _ = _; simp only [ofNat_mod]

theorem parse_max (idle : BitVec 3) (d : BitVec 5) (a : BitVec 5) (b : BitVec 5) : parseS (encodeS (.max idle d a b)) = .ok (.max idle d a b) := by
  refine (parseS_pack _ _ _ rfl).trans ?_
  show parseSReg _ _ _ _ _ = _; simp only [pack_div, pack_mod]; show Except.ok _ = _; simp only [ofNat_mod]

theorem parse_minu (idle : BitVec 3) (d : BitVec 5) (a : BitVec 5) (b : BitVec 5) : parseS (encodeS (.minu idle d a b)) = .ok (.minu idle d a b) := by
  refine (parseS_pack _ _ _ rfl).trans ?_
  show parseSReg _ _ _ _ _ = _; simp only [pack_div, pack_mod]; show Except.ok _ = _; simp only [ofNat_mod]

theorem parse_maxu (idle : BitVec 3) (d : BitVec 5) (a : BitVec 5) (b : BitVec 5) : parseS (encodeS (.maxu idle d a b)) = .ok (.maxu idle d a b) := by
  refine (parseS_pack _ _ _ rfl).trans ?_
  show parseSReg _ _ _ _ _ = _; simp only [pack_div, pack_mod]; show Except.ok _ = _; simp only [ofNat_mod]

theorem parse_seq (idle : BitVec 3) (d : BitVec 5) (a : BitVec 5) (b : BitVec 5) : parseS (encodeS (.seq idle d a b)) = .ok (.seq idle d a b) := by
  refine (parseS_pack _ _ _ rfl).trans ?_
  show parseSReg _ _ _ _ _ = _; simp only [pack_div, pack_mod]; show Except.ok _ = _; simp only [ofNat_mod]

theorem parse_sne (idle : BitVec 3) (d : BitVec 5) (a : BitVec 5) (b : BitVec 5) : parseS (encodeS (.sne idle d a b)) = .ok (.sne idle d a b) := by
  refine (parseS_pack _ _ _ rfl).trans ?_
  show parseSReg _ _ _ _ _ = _; simp only [pack_div, pack_mod]; show Except.ok _ = _; simp only [ofNat_mod]

theorem parse_slt (idle : BitVec 3) (d : BitVec 5) (a : BitVec 5) (b : BitVec 5) : parseS (encodeS (.slt idle d a b)) = .ok (.slt idle d a b) := by
  refine (parseS_pack _ _ _ rfl).trans ?_
  show parseSReg _ _ _ _ _ = _; simp only [pack_div, pack_mod]; show Except.ok _ = _; simp only [ofNat_mod]

theorem parse_sltu (idle : BitVec 3) (d : BitVec 5) (a : BitVec 5) (b : BitVec 5) : parseS (encodeS (.sltu idle d a b)) = .ok (.sltu idle d a b) := by
  refine (parseS_pack _ _ _ rfl).trans ?_
  show parseSReg _ _ _ _ _ = _; simp only [pack_div, pack_mod]; show Except.ok _ = _; simp only [ofNat_mod]

theorem parse_sle (idle : BitVec 3) (d : BitVec 5) (a : BitVec 5) (b : BitVec 5) : parseS (encodeS (.sle idle d a b)) = .ok (.sle idle d a b) := by
  refine (parseS_pack _ _ _ rfl).trans ?_
  show parseSReg _ _ _ _ _ = _; simp only [pack_div, pack_mod]; show Except.ok _ = _; simp only [ofNat_mod]

theorem parse_sleu (idle : BitVec 3) (d : BitVec 5) (a : BitVec 5) (b : BitVec 5) : parseS (encodeS (.sleu idle d a b)) = .ok (.sleu idle d a b) := by
  refine (parseS_pack _ _ _ rfl).trans ?_
  show parseSReg _ _ _ _ _ = _; simp only [pack_div, pack_mod]; show Except.ok _ = _; simp only [ofNat_mod]

theorem parse_mul (idle : BitVec 3) (d : BitVec 5) (a : BitVec 5) (b : BitVec 5) : parseS (encodeS (.mul idle d a b)) = .ok (.mul idle d a b) := by
  refine (parseS_pack _ _ _ rfl).trans ?_
  show parseSReg _ _ _ _ _ = _; simp only [pack_div, pack_mod]; show Except.ok _ = _; simp only [ofNat_mod]

theorem parse_mulh (idle : BitVec 3) (d : BitVec 5) (a : BitVec 5) (b : BitVec 5) : parseS (encodeS (.mulh idle d a b)) = .ok (.mulh idle d a b) := by
  refine (parseS_pack _ _ _ rfl).trans ?_
  show parseSReg _ _ _ _ _ = _; simp only [pack_div, pack_mod]; show Except.ok _ = _; simp only [ofNat_mod]

theorem parse_mulhu (idle : BitVec 3) (d : BitVec 5) (a : BitVec 5) (b : BitVec 5) : parseS (encodeS (.mulhu idle d a b)) = .ok (.mulhu idle d a b) := by
  refine (parseS_pack _ _ _ rfl).trans ?_
  show parseSReg _ _ _ _ _ = _; simp only [pack_div, pack_mod]; show Except.ok _ = _; simp only [ofNat_mod]

theorem parse_div (idle : BitVec 3) (d : BitVec 5) (a : BitVec 5) (b : BitVec 5) : parseS (encodeS (.div idle d a b)) = .ok (.div idle d a b) := by
  refine (parseS_pack _ _ _ rfl).trans ?_
  show parseSReg _ _ _ _ _ = _; simp only [pack_div, pack_mod]; show Except.ok _ = _; simp only [ofNat_mod]

theorem parse_divu (idle : BitVec 3) (d : BitVec 5) (a : BitVec 5) (b : BitVec 5) : parseS (encodeS (.divu idle d a b)) = .ok (.divu idle d a b) := by
  refine (parseS_pack _ _ _ rfl).trans ?_
  show parseSReg _ _ _ _ _ = _; simp only [pack_div, pack_mod]; show Except.ok _ = _; simp only [ofNat_mod]

theorem parse_rem (idle : BitVec 3) (d : BitVec 5) (a : BitVec 5) (b : BitVec 5) : parseS (encodeS (.rem idle d a b)) = .ok (.rem idle d a b) := by
  refine (parseS_pack _ _ _ rfl).trans ?_
  show parseSReg _ _ _ _ _ = _; simp only [pack_div, pack_mod]; show Except.ok _ = _; simp only [ofNat_mod]

theorem parse_remu (idle : BitVec 3) (d : BitVec 5) (a : BitVec 5) (b : BitVec 5) : parseS (encodeS (.remu idle d a b)) = .ok (.remu idle d a b) := by
  refine (parseS_pack _ _ _ rfl).trans ?_
  show parseSReg _ _ _ _ _ = _; simp only [pack_div, pack_mod]; show Except.ok _ = _; simp only [ofNat_mod]

theorem parse_clz (idle : BitVec 3) (d : BitVec 5) (a : BitVec 5) : parseS (encodeS (.clz idle d a)) = .ok (.clz idle d a) := by
  refine (parseS_pack _ _ _ rfl).trans ?_
  show parseSReg _ _ _ _ _ = _; simp only [pack_div, pack_mod]; show need _ _ = _; simp only [ofNat_mod]; rfl

theorem parse_ctz (idle : BitVec 3) (d : BitVec 5) (a : BitVec 5) : parseS (encodeS (.ctz idle d a)) = .ok (.ctz idle d a) := by
  refine (parseS_pack _ _ _ rfl).trans ?_
  show parseSReg _ _ _ _ _ = _; simp only [pack_div, pack_mod]; show need _ _ = _; simp only [ofNat_mod]; rfl

theorem parse_popc (idle : BitVec 3) (d : BitVec 5) (a : BitVec 5) : parseS (encodeS (.popc idle d a)) = .ok (.popc idle d a) := by
  refine (parseS_pack _ _ _ rfl).trans ?_
  show parseSReg _ _ _ _ _ = _; simp only [pack_div, pack_mod]; show need _ _ = _; simp only [ofNat_mod]; rfl

theorem parse_addi (idle : BitVec 3) (d : BitVec 5) (a : BitVec 5) (imm : BitVec 13) : parseS (encodeS (.addi idle d a imm)) = .ok (.addi idle d a imm) := by
  refine (parseS_pack _ _ _ rfl).trans ?_
  show Except.ok _ = _
  simp only [pack_div, pack_mod, ofNat_mod]

theorem parse_andi (idle : BitVec 3) (d : BitVec 5) (a : BitVec 5) (imm : BitVec 13) : parseS (encodeS (.andi idle d a imm)) = .ok (.andi idle d a imm) := by
  refine (parseS_pack _ _ _ rfl).trans ?_
  show Except.ok _ = _
  simp only [pack_div, pack_mod, ofNat_mod]

theorem parse_ori (idle : BitVec 3) (d : BitVec 5) (a : BitVec 5) (imm : BitVec 13) : parseS (encodeS (.ori idle d a imm)) = .ok (.ori idle d a imm) := by
  refine (parseS_pack _ _ _ rfl).trans ?_
  show Except.ok _ = _
  simp only [pack_div, pack_mod, ofNat_mod]

theorem parse_xori (idle : BitVec 3) (d : BitVec 5) (a : BitVec 5) (imm : BitVec 13) : parseS (encodeS (.xori idle d a imm)) = .ok (.xori idle d a imm) := by
  refine (parseS_pack _ _ _ rfl).trans ?_
  show Except.ok _ = _
  simp only [pack_div, pack_mod, ofNat_mod]

theorem parse_shli (idle : BitVec 3) (d : BitVec 5) (a : BitVec 5) (cnt : BitVec 6) : parseS (encodeS (.shli idle d a cnt)) = .ok (.shli idle d a cnt) := by
  refine (parseS_pack _ _ _ rfl).trans ?_
  show need _ _ = _
  simp only [pack_div, pack_mod, ofNat_mod]; rfl

theorem parse_shri (idle : BitVec 3) (d : BitVec 5) (a : BitVec 5) (cnt : BitVec 6) : parseS (encodeS (.shri idle d a cnt)) = .ok (.shri idle d a cnt) := by
  refine (parseS_pack _ _ _ rfl).trans ?_
  show need _ _ = _
  simp only [pack_div, pack_mod, ofNat_mod]; rfl

theorem parse_srai (idle : BitVec 3) (d : BitVec 5) (a : BitVec 5) (cnt : BitVec 6) : parseS (encodeS (.srai idle d a cnt)) = .ok (.srai idle d a cnt) := by
  refine (parseS_pack _ _ _ rfl).trans ?_
  show need _ _ = _
  simp only [pack_div, pack_mod, ofNat_mod]; rfl

theorem parse_slti (idle : BitVec 3) (d : BitVec 5) (a : BitVec 5) (imm : BitVec 13) : parseS (encodeS (.slti idle d a imm)) = .ok (.slti idle d a imm) := by
  refine (parseS_pack _ _ _ rfl).trans ?_
  show Except.ok _ = _
  simp only [pack_div, pack_mod, ofNat_mod]

theorem parse_sltiu (idle : BitVec 3) (d : BitVec 5) (a : BitVec 5) (imm : BitVec 13) : parseS (encodeS (.sltiu idle d a imm)) = .ok (.sltiu idle d a imm) := by
  refine (parseS_pack _ _ _ rfl).trans ?_
  show Except.ok _ = _
  simp only [pack_div, pack_mod, ofNat_mod]

theorem parse_seqi (idle : BitVec 3) (d : BitVec 5) (a : BitVec 5) (imm : BitVec 13) : parseS (encodeS (.seqi idle d a imm)) = .ok (.seqi idle d a imm) := by
  refine (parseS_pack _ _ _ rfl).trans ?_
  show Except.ok _ = _
  simp only [pack_div, pack_mod, ofNat_mod]

theorem parse_muli (idle : BitVec 3) (d : BitVec 5) (a : BitVec 5) (imm : BitVec 13) : parseS (encodeS (.muli idle d a imm)) = .ok (.muli idle d a imm) := by
  refine (parseS_pack _ _ _ rfl).trans ?_
  show Except.ok _ = _
  simp only [pack_div, pack_mod, ofNat_mod]

theorem parse_extu (idle : BitVec 3) (d : BitVec 5) (a : BitVec 5) (w : BitVec 6) (p : BitVec 6) : parseS (encodeS (.extu idle d a w p)) = .ok (.extu idle d a w p) := by
  refine (parseS_pack _ _ _ rfl).trans ?_
  show need _ _ = _
  simp only [pack_div, pack_mod, ofNat_mod]; rfl

theorem parse_exts (idle : BitVec 3) (d : BitVec 5) (a : BitVec 5) (w : BitVec 6) (p : BitVec 6) : parseS (encodeS (.exts idle d a w p)) = .ok (.exts idle d a w p) := by
  refine (parseS_pack _ _ _ rfl).trans ?_
  show need _ _ = _
  simp only [pack_div, pack_mod, ofNat_mod]; rfl

theorem parse_ins (idle : BitVec 3) (d : BitVec 5) (a : BitVec 5) (w : BitVec 6) (p : BitVec 6) : parseS (encodeS (.ins idle d a w p)) = .ok (.ins idle d a w p) := by
  refine (parseS_pack _ _ _ rfl).trans ?_
  show need _ _ = _
  simp only [pack_div, pack_mod, ofNat_mod]; rfl

theorem parse_lih (idle : BitVec 3) (d : BitVec 5) (imm : BitVec 18) : parseS (encodeS (.lih idle d imm)) = .ok (.lih idle d imm) := by
  refine (parseS_pack _ _ _ rfl).trans ?_
  show Except.ok _ = _
  simp only [pack_div, pack_mod, ofNat_mod]

theorem parse_lipc (idle : BitVec 3) (d : BitVec 5) (imm : BitVec 18) : parseS (encodeS (.lipc idle d imm)) = .ok (.lipc idle d imm) := by
  refine (parseS_pack _ _ _ rfl).trans ?_
  show Except.ok _ = _
  simp only [pack_div, pack_mod, ofNat_mod]

theorem parse_beqz (idle : BitVec 3) (a : BitVec 5) (off : BitVec 18) : parseS (encodeS (.beqz idle a off)) = .ok (.beqz idle a off) := by
  refine (parseS_pack _ _ _ rfl).trans ?_
  show Except.ok _ = _
  simp only [pack_div, pack_mod, ofNat_mod]

theorem parse_bnez (idle : BitVec 3) (a : BitVec 5) (off : BitVec 18) : parseS (encodeS (.bnez idle a off)) = .ok (.bnez idle a off) := by
  refine (parseS_pack _ _ _ rfl).trans ?_
  show Except.ok _ = _
  simp only [pack_div, pack_mod, ofNat_mod]

theorem parse_bltz (idle : BitVec 3) (a : BitVec 5) (off : BitVec 18) : parseS (encodeS (.bltz idle a off)) = .ok (.bltz idle a off) := by
  refine (parseS_pack _ _ _ rfl).trans ?_
  show Except.ok _ = _
  simp only [pack_div, pack_mod, ofNat_mod]

theorem parse_bgez (idle : BitVec 3) (a : BitVec 5) (off : BitVec 18) : parseS (encodeS (.bgez idle a off)) = .ok (.bgez idle a off) := by
  refine (parseS_pack _ _ _ rfl).trans ?_
  show Except.ok _ = _
  simp only [pack_div, pack_mod, ofNat_mod]

theorem parse_br (idle : BitVec 3) (off : BitVec 18) : parseS (encodeS (.br idle off)) = .ok (.br idle off) := by
  refine (parseS_pack _ _ _ rfl).trans ?_
  show need _ _ = _
  simp only [pack_div, pack_mod, ofNat_mod]; rfl

theorem parse_call (idle : BitVec 3) (off : BitVec 18) : parseS (encodeS (.call idle off)) = .ok (.call idle off) := by
  refine (parseS_pack _ _ _ rfl).trans ?_
  show need _ _ = _
  simp only [pack_div, pack_mod, ofNat_mod]; rfl

theorem parse_jr (idle : BitVec 3) (a : BitVec 5) : parseS (encodeS (.jr idle a)) = .ok (.jr idle a) := by
  refine (parseS_pack _ _ _ rfl).trans ?_
  show need _ _ = _
  simp only [pack_div, pack_mod, ofNat_mod]; rfl

theorem parse_callr (idle : BitVec 3) (d : BitVec 5) (a : BitVec 5) : parseS (encodeS (.callr idle d a)) = .ok (.callr idle d a) := by
  refine (parseS_pack _ _ _ rfl).trans ?_
  show need _ _ = _
  simp only [pack_div, pack_mod, ofNat_mod]; rfl

theorem parse_loop (idle : BitVec 3) (a : BitVec 5) (off : BitVec 18) : parseS (encodeS (.loop idle a off)) = .ok (.loop idle a off) := by
  refine (parseS_pack _ _ _ rfl).trans ?_
  show Except.ok _ = _
  simp only [pack_div, pack_mod, ofNat_mod]

theorem parse_ldb (idle : BitVec 3) (d : BitVec 5) (a : BitVec 5) (imm : BitVec 13) : parseS (encodeS (.ldb idle d a imm)) = .ok (.ldb idle d a imm) := by
  refine (parseS_pack _ _ _ rfl).trans ?_
  show Except.ok _ = _
  simp only [pack_div, pack_mod, ofNat_mod]

theorem parse_ldbu (idle : BitVec 3) (d : BitVec 5) (a : BitVec 5) (imm : BitVec 13) : parseS (encodeS (.ldbu idle d a imm)) = .ok (.ldbu idle d a imm) := by
  refine (parseS_pack _ _ _ rfl).trans ?_
  show Except.ok _ = _
  simp only [pack_div, pack_mod, ofNat_mod]

theorem parse_ldh (idle : BitVec 3) (d : BitVec 5) (a : BitVec 5) (imm : BitVec 13) : parseS (encodeS (.ldh idle d a imm)) = .ok (.ldh idle d a imm) := by
  refine (parseS_pack _ _ _ rfl).trans ?_
  show Except.ok _ = _
  simp only [pack_div, pack_mod, ofNat_mod]

theorem parse_ldhu (idle : BitVec 3) (d : BitVec 5) (a : BitVec 5) (imm : BitVec 13) : parseS (encodeS (.ldhu idle d a imm)) = .ok (.ldhu idle d a imm) := by
  refine (parseS_pack _ _ _ rfl).trans ?_
  show Except.ok _ = _
  simp only [pack_div, pack_mod, ofNat_mod]

theorem parse_ldw (idle : BitVec 3) (d : BitVec 5) (a : BitVec 5) (imm : BitVec 13) : parseS (encodeS (.ldw idle d a imm)) = .ok (.ldw idle d a imm) := by
  refine (parseS_pack _ _ _ rfl).trans ?_
  show Except.ok _ = _
  simp only [pack_div, pack_mod, ofNat_mod]

theorem parse_ldwu (idle : BitVec 3) (d : BitVec 5) (a : BitVec 5) (imm : BitVec 13) : parseS (encodeS (.ldwu idle d a imm)) = .ok (.ldwu idle d a imm) := by
  refine (parseS_pack _ _ _ rfl).trans ?_
  show Except.ok _ = _
  simp only [pack_div, pack_mod, ofNat_mod]

theorem parse_ldd (idle : BitVec 3) (d : BitVec 5) (a : BitVec 5) (imm : BitVec 13) : parseS (encodeS (.ldd idle d a imm)) = .ok (.ldd idle d a imm) := by
  refine (parseS_pack _ _ _ rfl).trans ?_
  show Except.ok _ = _
  simp only [pack_div, pack_mod, ofNat_mod]

theorem parse_ldc (idle : BitVec 3) (d : BitVec 5) (a : BitVec 5) (imm : BitVec 13) : parseS (encodeS (.ldc idle d a imm)) = .ok (.ldc idle d a imm) := by
  refine (parseS_pack _ _ _ rfl).trans ?_
  show Except.ok _ = _
  simp only [pack_div, pack_mod, ofNat_mod]

theorem parse_stb (idle : BitVec 3) (d : BitVec 5) (a : BitVec 5) (imm : BitVec 13) : parseS (encodeS (.stb idle d a imm)) = .ok (.stb idle d a imm) := by
  refine (parseS_pack _ _ _ rfl).trans ?_
  show Except.ok _ = _
  simp only [pack_div, pack_mod, ofNat_mod]

theorem parse_sth (idle : BitVec 3) (d : BitVec 5) (a : BitVec 5) (imm : BitVec 13) : parseS (encodeS (.sth idle d a imm)) = .ok (.sth idle d a imm) := by
  refine (parseS_pack _ _ _ rfl).trans ?_
  show Except.ok _ = _
  simp only [pack_div, pack_mod, ofNat_mod]

theorem parse_stw (idle : BitVec 3) (d : BitVec 5) (a : BitVec 5) (imm : BitVec 13) : parseS (encodeS (.stw idle d a imm)) = .ok (.stw idle d a imm) := by
  refine (parseS_pack _ _ _ rfl).trans ?_
  show Except.ok _ = _
  simp only [pack_div, pack_mod, ofNat_mod]

theorem parse_std (idle : BitVec 3) (d : BitVec 5) (a : BitVec 5) (imm : BitVec 13) : parseS (encodeS (.std idle d a imm)) = .ok (.std idle d a imm) := by
  refine (parseS_pack _ _ _ rfl).trans ?_
  show Except.ok _ = _
  simp only [pack_div, pack_mod, ofNat_mod]

theorem parse_lda (idle : BitVec 3) (d : BitVec 5) (a : BitVec 5) (b : BitVec 5) (sz : BitVec 2) (u : BitVec 1) (ord : BitVec 1) (sc : BitVec 3) : parseS (encodeS (.lda idle d a b sz u ord sc)) = .ok (.lda idle d a b sz u ord sc) := by
  refine (parseS_pack _ _ _ rfl).trans ?_
  show need _ _ = _
  simp only [pack_div, pack_mod, ofNat_mod]; rfl

theorem parse_sta (idle : BitVec 3) (d : BitVec 5) (a : BitVec 5) (b : BitVec 5) (sz : BitVec 2) (ord : BitVec 1) (sc : BitVec 3) : parseS (encodeS (.sta idle d a b sz ord sc)) = .ok (.sta idle d a b sz ord sc) := by
  refine (parseS_pack _ _ _ rfl).trans ?_
  show need _ _ = _
  simp only [pack_div, pack_mod, ofNat_mod]; rfl

theorem parse_atom (idle : BitVec 3) (d : BitVec 5) (a : BitVec 5) (b : BitVec 5) (op : BitVec 4) (sz : BitVec 1) : parseS (encodeS (.atom idle d a b op sz)) = .ok (.atom idle d a b op sz) := by
  refine (parseS_pack _ _ _ rfl).trans ?_
  show need _ _ = _
  simp only [pack_div, pack_mod, ofNat_mod]; rfl

theorem parse_atomAcq (idle : BitVec 3) (d : BitVec 5) (a : BitVec 5) (b : BitVec 5) (op : BitVec 4) (sz : BitVec 1) (sc : BitVec 3) : parseS (encodeS (.atomAcq idle d a b op sz sc)) = .ok (.atomAcq idle d a b op sz sc) := by
  refine (parseS_pack _ _ _ rfl).trans ?_
  show Except.ok _ = _
  simp only [pack_div, pack_mod, ofNat_mod]

theorem parse_atomRel (idle : BitVec 3) (d : BitVec 5) (a : BitVec 5) (b : BitVec 5) (op : BitVec 4) (sz : BitVec 1) (sc : BitVec 3) : parseS (encodeS (.atomRel idle d a b op sz sc)) = .ok (.atomRel idle d a b op sz sc) := by
  refine (parseS_pack _ _ _ rfl).trans ?_
  show Except.ok _ = _
  simp only [pack_div, pack_mod, ofNat_mod]

theorem parse_atomAr (idle : BitVec 3) (d : BitVec 5) (a : BitVec 5) (b : BitVec 5) (op : BitVec 4) (sz : BitVec 1) (sc : BitVec 3) : parseS (encodeS (.atomAr idle d a b op sz sc)) = .ok (.atomAr idle d a b op sz sc) := by
  refine (parseS_pack _ _ _ rfl).trans ?_
  show Except.ok _ = _
  simp only [pack_div, pack_mod, ofNat_mod]

theorem parse_fence (idle : BitVec 3) (sc : BitVec 3) : parseS (encodeS (.fence idle sc)) = .ok (.fence idle sc) := by
  refine (parseS_pack _ _ _ rfl).trans ?_
  show (if pack _ / 2 ^ 3 / 2 ^ 1 % 2 ^ 1 = 0 then need _ _ else need _ _) = _
  simp only [pack_div, pack_mod, ofNat_mod]; rfl

theorem parse_fenceU (idle : BitVec 3) (sc : BitVec 3) : parseS (encodeS (.fenceU idle sc)) = .ok (.fenceU idle sc) := by
  refine (parseS_pack _ _ _ rfl).trans ?_
  show (if pack _ / 2 ^ 3 / 2 ^ 1 % 2 ^ 1 = 0 then need _ _ else need _ _) = _
  simp only [pack_div, pack_mod, ofNat_mod]; rfl

theorem parse_cinv (idle : BitVec 3) : parseS (encodeS (.cinv idle)) = .ok (.cinv idle) := by
  refine (parseS_pack _ _ _ rfl).trans ?_
  show need _ _ = _
  simp only [ofNat_mod]; rfl

theorem parse_mfs (idle : BitVec 3) (d : BitVec 5) (n : BitVec 13) : parseS (encodeS (.mfs idle d n)) = .ok (.mfs idle d n) := by
  refine (parseS_pack _ _ _ rfl).trans ?_
  show need _ _ = _
  simp only [pack_div, pack_mod, ofNat_mod]; rfl

theorem parse_mts (idle : BitVec 3) (a : BitVec 5) (n : BitVec 13) : parseS (encodeS (.mts idle a n)) = .ok (.mts idle a n) := by
  refine (parseS_pack _ _ _ rfl).trans ?_
  show need _ _ = _
  simp only [pack_div, pack_mod, ofNat_mod]; rfl

theorem parse_trap (idle : BitVec 3) (code : BitVec 13) : parseS (encodeS (.trap idle code)) = .ok (.trap idle code) := by
  refine (parseS_pack _ _ _ rfl).trans ?_
  show need _ _ = _
  simp only [pack_div, pack_mod, ofNat_mod]; rfl

theorem parse_rft (idle : BitVec 3) : parseS (encodeS (.rft idle)) = .ok (.rft idle) := by
  refine (parseS_pack _ _ _ rfl).trans ?_
  show need _ _ = _
  simp only [ofNat_mod]; rfl

theorem parse_halt (idle : BitVec 3) : parseS (encodeS (.halt idle)) = .ok (.halt idle) := by
  refine (parseS_pack _ _ _ rfl).trans ?_
  show need _ _ = _
  simp only [ofNat_mod]; rfl

theorem parse_publish (idle : BitVec 3) (w : BitVec 4) : parseS (encodeS (.publish idle w)) = .ok (.publish idle w) := by
  refine (parseS_pack _ _ _ rfl).trans ?_
  show need _ _ = _
  simp only [pack_div, pack_mod, ofNat_mod]; rfl

theorem parse_setphase (idle : BitVec 3) (a : BitVec 5) (lead : BitVec 13) : parseS (encodeS (.setphase idle a lead)) = .ok (.setphase idle a lead) := by
  refine (parseS_pack _ _ _ rfl).trans ?_
  show need _ _ = _
  simp only [pack_div, pack_mod, ofNat_mod]; rfl

theorem parse_vnop : parseV (encodeV (.vnop)) = .ok (.vnop) := by
  refine (parseV_pack _ _ rfl).trans ?_
  show need _ _ = _
  simp only [pack]; rfl

theorem parse_vadd (ty : BitVec 4) (p : BitVec 4) (d : BitVec 8) (a : BitVec 8) (b : BitVec 8) : parseV (encodeV (.vadd ty p d a b)) = .ok (.vadd ty p d a b) := by
  refine (parseV_pack _ _ rfl).trans ?_
  show need _ _ = _
  simp only [pack_div, pack_mod, ofNat_mod]; rfl

theorem parse_vsub (ty : BitVec 4) (p : BitVec 4) (d : BitVec 8) (a : BitVec 8) (b : BitVec 8) : parseV (encodeV (.vsub ty p d a b)) = .ok (.vsub ty p d a b) := by
  refine (parseV_pack _ _ rfl).trans ?_
  show need _ _ = _
  simp only [pack_div, pack_mod, ofNat_mod]; rfl

theorem parse_vmul (ty : BitVec 4) (p : BitVec 4) (d : BitVec 8) (a : BitVec 8) (b : BitVec 8) : parseV (encodeV (.vmul ty p d a b)) = .ok (.vmul ty p d a b) := by
  refine (parseV_pack _ _ rfl).trans ?_
  show need _ _ = _
  simp only [pack_div, pack_mod, ofNat_mod]; rfl

theorem parse_vmulh (ty : BitVec 4) (p : BitVec 4) (d : BitVec 8) (a : BitVec 8) (b : BitVec 8) : parseV (encodeV (.vmulh ty p d a b)) = .ok (.vmulh ty p d a b) := by
  refine (parseV_pack _ _ rfl).trans ?_
  show need _ _ = _
  simp only [pack_div, pack_mod, ofNat_mod]; rfl

theorem parse_vadds (ty : BitVec 4) (p : BitVec 4) (d : BitVec 8) (a : BitVec 8) (b : BitVec 8) : parseV (encodeV (.vadds ty p d a b)) = .ok (.vadds ty p d a b) := by
  refine (parseV_pack _ _ rfl).trans ?_
  show need _ _ = _
  simp only [pack_div, pack_mod, ofNat_mod]; rfl

theorem parse_vsubs (ty : BitVec 4) (p : BitVec 4) (d : BitVec 8) (a : BitVec 8) (b : BitVec 8) : parseV (encodeV (.vsubs ty p d a b)) = .ok (.vsubs ty p d a b) := by
  refine (parseV_pack _ _ rfl).trans ?_
  show need _ _ = _
  simp only [pack_div, pack_mod, ofNat_mod]; rfl

theorem parse_vmin (ty : BitVec 4) (p : BitVec 4) (d : BitVec 8) (a : BitVec 8) (b : BitVec 8) : parseV (encodeV (.vmin ty p d a b)) = .ok (.vmin ty p d a b) := by
  refine (parseV_pack _ _ rfl).trans ?_
  show need _ _ = _
  simp only [pack_div, pack_mod, ofNat_mod]; rfl

theorem parse_vmax (ty : BitVec 4) (p : BitVec 4) (d : BitVec 8) (a : BitVec 8) (b : BitVec 8) : parseV (encodeV (.vmax ty p d a b)) = .ok (.vmax ty p d a b) := by
  refine (parseV_pack _ _ rfl).trans ?_
  show need _ _ = _
  simp only [pack_div, pack_mod, ofNat_mod]; rfl

theorem parse_vabs (ty : BitVec 4) (p : BitVec 4) (d : BitVec 8) (a : BitVec 8) : parseV (encodeV (.vabs ty p d a)) = .ok (.vabs ty p d a) := by
  refine (parseV_pack _ _ rfl).trans ?_
  show need _ _ = _
  simp only [pack_div, pack_mod, ofNat_mod]; rfl

theorem parse_vneg (ty : BitVec 4) (p : BitVec 4) (d : BitVec 8) (a : BitVec 8) : parseV (encodeV (.vneg ty p d a)) = .ok (.vneg ty p d a) := by
  refine (parseV_pack _ _ rfl).trans ?_
  show need _ _ = _
  simp only [pack_div, pack_mod, ofNat_mod]; rfl

theorem parse_vmulw (ty : BitVec 4) (p : BitVec 4) (d : BitVec 8) (a : BitVec 8) (b : BitVec 8) : parseV (encodeV (.vmulw ty p d a b)) = .ok (.vmulw ty p d a b) := by
  refine (parseV_pack _ _ rfl).trans ?_
  show need _ _ = _
  simp only [pack_div, pack_mod, ofNat_mod]; rfl

theorem parse_vaddw (ty : BitVec 4) (p : BitVec 4) (d : BitVec 8) (a : BitVec 8) (b : BitVec 8) : parseV (encodeV (.vaddw ty p d a b)) = .ok (.vaddw ty p d a b) := by
  refine (parseV_pack _ _ rfl).trans ?_
  show need _ _ = _
  simp only [pack_div, pack_mod, ofNat_mod]; rfl

theorem parse_vnarrow (ty : BitVec 4) (p : BitVec 4) (d : BitVec 8) (a : BitVec 8) : parseV (encodeV (.vnarrow ty p d a)) = .ok (.vnarrow ty p d a) := by
  refine (parseV_pack _ _ rfl).trans ?_
  show need _ _ = _
  simp only [pack_div, pack_mod, ofNat_mod]; rfl

theorem parse_vaddi (ty : BitVec 4) (p : BitVec 4) (d : BitVec 8) (a : BitVec 8) (imm : BitVec 8) : parseV (encodeV (.vaddi ty p d a imm)) = .ok (.vaddi ty p d a imm) := by
  refine (parseV_pack _ _ rfl).trans ?_
  show need _ _ = _
  simp only [pack_div, pack_mod, ofNat_mod]; rfl

theorem parse_vmac (ty : BitVec 4) (p : BitVec 4) (d : BitVec 8) (a : BitVec 8) (b : BitVec 8) : parseV (encodeV (.vmac ty p d a b)) = .ok (.vmac ty p d a b) := by
  refine (parseV_pack _ _ rfl).trans ?_
  show need _ _ = _
  simp only [pack_div, pack_mod, ofNat_mod]; rfl

theorem parse_vand (ty : BitVec 4) (p : BitVec 4) (d : BitVec 8) (a : BitVec 8) (b : BitVec 8) : parseV (encodeV (.vand ty p d a b)) = .ok (.vand ty p d a b) := by
  refine (parseV_pack _ _ rfl).trans ?_
  show need _ _ = _
  simp only [pack_div, pack_mod, ofNat_mod]; rfl

theorem parse_vor (ty : BitVec 4) (p : BitVec 4) (d : BitVec 8) (a : BitVec 8) (b : BitVec 8) : parseV (encodeV (.vor ty p d a b)) = .ok (.vor ty p d a b) := by
  refine (parseV_pack _ _ rfl).trans ?_
  show need _ _ = _
  simp only [pack_div, pack_mod, ofNat_mod]; rfl

theorem parse_vxor (ty : BitVec 4) (p : BitVec 4) (d : BitVec 8) (a : BitVec 8) (b : BitVec 8) : parseV (encodeV (.vxor ty p d a b)) = .ok (.vxor ty p d a b) := by
  refine (parseV_pack _ _ rfl).trans ?_
  show need _ _ = _
  simp only [pack_div, pack_mod, ofNat_mod]; rfl

theorem parse_vandn (ty : BitVec 4) (p : BitVec 4) (d : BitVec 8) (a : BitVec 8) (b : BitVec 8) : parseV (encodeV (.vandn ty p d a b)) = .ok (.vandn ty p d a b) := by
  refine (parseV_pack _ _ rfl).trans ?_
  show need _ _ = _
  simp only [pack_div, pack_mod, ofNat_mod]; rfl

theorem parse_vnot (ty : BitVec 4) (p : BitVec 4) (d : BitVec 8) (a : BitVec 8) : parseV (encodeV (.vnot ty p d a)) = .ok (.vnot ty p d a) := by
  refine (parseV_pack _ _ rfl).trans ?_
  show need _ _ = _
  simp only [pack_div, pack_mod, ofNat_mod]; rfl

theorem parse_vshl (ty : BitVec 4) (p : BitVec 4) (d : BitVec 8) (a : BitVec 8) (b : BitVec 8) : parseV (encodeV (.vshl ty p d a b)) = .ok (.vshl ty p d a b) := by
  refine (parseV_pack _ _ rfl).trans ?_
  show need _ _ = _
  simp only [pack_div, pack_mod, ofNat_mod]; rfl

theorem parse_vshr (ty : BitVec 4) (p : BitVec 4) (d : BitVec 8) (a : BitVec 8) (b : BitVec 8) : parseV (encodeV (.vshr ty p d a b)) = .ok (.vshr ty p d a b) := by
  refine (parseV_pack _ _ rfl).trans ?_
  show need _ _ = _
  simp only [pack_div, pack_mod, ofNat_mod]; rfl

theorem parse_vsra (ty : BitVec 4) (p : BitVec 4) (d : BitVec 8) (a : BitVec 8) (b : BitVec 8) : parseV (encodeV (.vsra ty p d a b)) = .ok (.vsra ty p d a b) := by
  refine (parseV_pack _ _ rfl).trans ?_
  show need _ _ = _
  simp only [pack_div, pack_mod, ofNat_mod]; rfl

theorem parse_vshli (ty : BitVec 4) (p : BitVec 4) (d : BitVec 8) (a : BitVec 8) (imm : BitVec 8) : parseV (encodeV (.vshli ty p d a imm)) = .ok (.vshli ty p d a imm) := by
  refine (parseV_pack _ _ rfl).trans ?_
  show need _ _ = _
  simp only [pack_div, pack_mod, ofNat_mod]; rfl

theorem parse_vshri (ty : BitVec 4) (p : BitVec 4) (d : BitVec 8) (a : BitVec 8) (imm : BitVec 8) : parseV (encodeV (.vshri ty p d a imm)) = .ok (.vshri ty p d a imm) := by
  refine (parseV_pack _ _ rfl).trans ?_
  show need _ _ = _
  simp only [pack_div, pack_mod, ofNat_mod]; rfl

theorem parse_vsrai (ty : BitVec 4) (p : BitVec 4) (d : BitVec 8) (a : BitVec 8) (imm : BitVec 8) : parseV (encodeV (.vsrai ty p d a imm)) = .ok (.vsrai ty p d a imm) := by
  refine (parseV_pack _ _ rfl).trans ?_
  show need _ _ = _
  simp only [pack_div, pack_mod, ofNat_mod]; rfl

theorem parse_vcmp (ty : BitVec 4) (p : BitVec 4) (d : BitVec 4) (a : BitVec 8) (b : BitVec 8) (imm : BitVec 8) : parseV (encodeV (.vcmp ty p d a b imm)) = .ok (.vcmp ty p d a b imm) := by
  refine (parseV_pack _ _ rfl).trans ?_
  show need _ _ = _
  simp only [pack_div, pack_mod, ofNat_mod]; rfl

theorem parse_vsel (ty : BitVec 4) (p : BitVec 4) (d : BitVec 8) (a : BitVec 8) (b : BitVec 8) (c : BitVec 4) : parseV (encodeV (.vsel ty p d a b c)) = .ok (.vsel ty p d a b c) := by
  refine (parseV_pack _ _ rfl).trans ?_
  show need _ _ = _
  simp only [pack_div, pack_mod, ofNat_mod]; rfl

theorem parse_vsplat (ty : BitVec 4) (p : BitVec 4) (d : BitVec 8) (a : BitVec 5) : parseV (encodeV (.vsplat ty p d a)) = .ok (.vsplat ty p d a) := by
  refine (parseV_pack _ _ rfl).trans ?_
  show need _ _ = _
  simp only [pack_div, pack_mod, ofNat_mod]; rfl

theorem parse_vsplati (ty : BitVec 4) (p : BitVec 4) (d : BitVec 8) (imm : BitVec 16) : parseV (encodeV (.vsplati ty p d imm)) = .ok (.vsplati ty p d imm) := by
  refine (parseV_pack _ _ rfl).trans ?_
  show need _ _ = _
  simp only [pack_div, pack_mod, ofNat_mod]; rfl

theorem parse_vins (ty : BitVec 4) (p : BitVec 4) (d : BitVec 8) (a : BitVec 5) (b : BitVec 5) : parseV (encodeV (.vins ty p d a b)) = .ok (.vins ty p d a b) := by
  refine (parseV_pack _ _ rfl).trans ?_
  show need _ _ = _
  simp only [pack_div, pack_mod, ofNat_mod]; rfl

theorem parse_vext (ty : BitVec 4) (d : BitVec 5) (a : BitVec 8) (b : BitVec 5) : parseV (encodeV (.vext ty d a b)) = .ok (.vext ty d a b) := by
  refine (parseV_pack _ _ rfl).trans ?_
  show need _ _ = _
  simp only [pack_div, pack_mod, ofNat_mod]; rfl

theorem parse_vmov (ty : BitVec 4) (p : BitVec 4) (d : BitVec 8) (a : BitVec 8) : parseV (encodeV (.vmov ty p d a)) = .ok (.vmov ty p d a) := by
  refine (parseV_pack _ _ rfl).trans ?_
  show need _ _ = _
  simp only [pack_div, pack_mod, ofNat_mod]; rfl

theorem parse_vfma (ty : BitVec 4) (p : BitVec 4) (d : BitVec 8) (a : BitVec 8) (b : BitVec 8) (c : BitVec 8) : parseV (encodeV (.vfma ty p d a b c)) = .ok (.vfma ty p d a b c) := by
  refine (parseV_pack _ _ rfl).trans ?_
  show Except.ok _ = _
  simp only [pack_div, pack_mod, ofNat_mod]

theorem parse_vfms (ty : BitVec 4) (p : BitVec 4) (d : BitVec 8) (a : BitVec 8) (b : BitVec 8) (c : BitVec 8) : parseV (encodeV (.vfms ty p d a b c)) = .ok (.vfms ty p d a b c) := by
  refine (parseV_pack _ _ rfl).trans ?_
  show Except.ok _ = _
  simp only [pack_div, pack_mod, ofNat_mod]

theorem parse_vfnma (ty : BitVec 4) (p : BitVec 4) (d : BitVec 8) (a : BitVec 8) (b : BitVec 8) (c : BitVec 8) : parseV (encodeV (.vfnma ty p d a b c)) = .ok (.vfnma ty p d a b c) := by
  refine (parseV_pack _ _ rfl).trans ?_
  show Except.ok _ = _
  simp only [pack_div, pack_mod, ofNat_mod]

theorem parse_vcvt (ty : BitVec 4) (p : BitVec 4) (d : BitVec 8) (a : BitVec 8) (imm : BitVec 8) : parseV (encodeV (.vcvt ty p d a imm)) = .ok (.vcvt ty p d a imm) := by
  refine (parseV_pack _ _ rfl).trans ?_
  show need _ _ = _
  simp only [pack_div, pack_mod, ofNat_mod]; rfl

theorem parse_vdot (ty : BitVec 4) (p : BitVec 4) (d : BitVec 8) (a : BitVec 8) (b : BitVec 8) (c : BitVec 8) : parseV (encodeV (.vdot ty p d a b c)) = .ok (.vdot ty p d a b c) := by
  refine (parseV_pack _ _ rfl).trans ?_
  show Except.ok _ = _
  simp only [pack_div, pack_mod, ofNat_mod]

theorem parse_vrcp (ty : BitVec 4) (p : BitVec 4) (d : BitVec 8) (a : BitVec 8) : parseV (encodeV (.vrcp ty p d a)) = .ok (.vrcp ty p d a) := by
  refine (parseV_pack _ _ rfl).trans ?_
  show need _ _ = _
  simp only [pack_div, pack_mod, ofNat_mod]; rfl

theorem parse_vrsq (ty : BitVec 4) (p : BitVec 4) (d : BitVec 8) (a : BitVec 8) : parseV (encodeV (.vrsq ty p d a)) = .ok (.vrsq ty p d a) := by
  refine (parseV_pack _ _ rfl).trans ?_
  show need _ _ = _
  simp only [pack_div, pack_mod, ofNat_mod]; rfl

theorem parse_vrcpn (ty : BitVec 4) (p : BitVec 4) (d : BitVec 8) (a : BitVec 8) (b : BitVec 8) : parseV (encodeV (.vrcpn ty p d a b)) = .ok (.vrcpn ty p d a b) := by
  refine (parseV_pack _ _ rfl).trans ?_
  show need _ _ = _
  simp only [pack_div, pack_mod, ofNat_mod]; rfl

theorem parse_vrsqn (ty : BitVec 4) (p : BitVec 4) (d : BitVec 8) (a : BitVec 8) (b : BitVec 8) : parseV (encodeV (.vrsqn ty p d a b)) = .ok (.vrsqn ty p d a b) := by
  refine (parseV_pack _ _ rfl).trans ?_
  show need _ _ = _
  simp only [pack_div, pack_mod, ofNat_mod]; rfl

theorem parse_vexp2 (ty : BitVec 4) (p : BitVec 4) (d : BitVec 8) (a : BitVec 8) : parseV (encodeV (.vexp2 ty p d a)) = .ok (.vexp2 ty p d a) := by
  refine (parseV_pack _ _ rfl).trans ?_
  show need _ _ = _
  simp only [pack_div, pack_mod, ofNat_mod]; rfl

theorem parse_vlog2 (ty : BitVec 4) (p : BitVec 4) (d : BitVec 8) (a : BitVec 8) : parseV (encodeV (.vlog2 ty p d a)) = .ok (.vlog2 ty p d a) := by
  refine (parseV_pack _ _ rfl).trans ?_
  show need _ _ = _
  simp only [pack_div, pack_mod, ofNat_mod]; rfl

theorem parse_vredadd (ty : BitVec 4) (p : BitVec 4) (d : BitVec 8) (a : BitVec 8) : parseV (encodeV (.vredadd ty p d a)) = .ok (.vredadd ty p d a) := by
  refine (parseV_pack _ _ rfl).trans ?_
  show need _ _ = _
  simp only [pack_div, pack_mod, ofNat_mod]; rfl

theorem parse_vredmin (ty : BitVec 4) (p : BitVec 4) (d : BitVec 8) (a : BitVec 8) : parseV (encodeV (.vredmin ty p d a)) = .ok (.vredmin ty p d a) := by
  refine (parseV_pack _ _ rfl).trans ?_
  show need _ _ = _
  simp only [pack_div, pack_mod, ofNat_mod]; rfl

theorem parse_vredmax (ty : BitVec 4) (p : BitVec 4) (d : BitVec 8) (a : BitVec 8) : parseV (encodeV (.vredmax ty p d a)) = .ok (.vredmax ty p d a) := by
  refine (parseV_pack _ _ rfl).trans ?_
  show need _ _ = _
  simp only [pack_div, pack_mod, ofNat_mod]; rfl

theorem parse_vscan (ty : BitVec 4) (p : BitVec 4) (d : BitVec 8) (a : BitVec 8) : parseV (encodeV (.vscan ty p d a)) = .ok (.vscan ty p d a) := by
  refine (parseV_pack _ _ rfl).trans ?_
  show need _ _ = _
  simp only [pack_div, pack_mod, ofNat_mod]; rfl

theorem parse_vppopc (ty : BitVec 4) (p : BitVec 4) (d : BitVec 8) (a : BitVec 4) : parseV (encodeV (.vppopc ty p d a)) = .ok (.vppopc ty p d a) := by
  refine (parseV_pack _ _ rfl).trans ?_
  show need _ _ = _
  simp only [pack_div, pack_mod, ofNat_mod]; rfl

theorem parse_vtopk (ty : BitVec 4) (p : BitVec 4) (d : BitVec 8) (a : BitVec 8) (b : BitVec 8) (imm : BitVec 8) : parseV (encodeV (.vtopk ty p d a b imm)) = .ok (.vtopk ty p d a b imm) := by
  refine (parseV_pack _ _ rfl).trans ?_
  show Except.ok _ = _
  simp only [pack_div, pack_mod, ofNat_mod]

theorem parse_vperm (ty : BitVec 4) (p : BitVec 4) (d : BitVec 8) (a : BitVec 8) (b : BitVec 8) : parseV (encodeV (.vperm ty p d a b)) = .ok (.vperm ty p d a b) := by
  refine (parseV_pack _ _ rfl).trans ?_
  show need _ _ = _
  simp only [pack_div, pack_mod, ofNat_mod]; rfl

theorem parse_vslide (ty : BitVec 4) (p : BitVec 4) (d : BitVec 8) (a : BitVec 8) (b : BitVec 8) (imm : BitVec 8) : parseV (encodeV (.vslide ty p d a b imm)) = .ok (.vslide ty p d a b imm) := by
  refine (parseV_pack _ _ rfl).trans ?_
  show Except.ok _ = _
  simp only [pack_div, pack_mod, ofNat_mod]

theorem parse_vzip (ty : BitVec 4) (p : BitVec 4) (d : BitVec 8) (a : BitVec 8) (b : BitVec 8) : parseV (encodeV (.vzip ty p d a b)) = .ok (.vzip ty p d a b) := by
  refine (parseV_pack _ _ rfl).trans ?_
  show need _ _ = _
  simp only [pack_div, pack_mod, ofNat_mod]; rfl

theorem parse_vunzip (ty : BitVec 4) (p : BitVec 4) (d : BitVec 8) (a : BitVec 8) : parseV (encodeV (.vunzip ty p d a)) = .ok (.vunzip ty p d a) := by
  refine (parseV_pack _ _ rfl).trans ?_
  show need _ _ = _
  simp only [pack_div, pack_mod, ofNat_mod]; rfl

theorem parse_vcompress (ty : BitVec 4) (d : BitVec 8) (a : BitVec 8) (c : BitVec 4) : parseV (encodeV (.vcompress ty d a c)) = .ok (.vcompress ty d a c) := by
  refine (parseV_pack _ _ rfl).trans ?_
  show need _ _ = _
  simp only [pack_div, pack_mod, ofNat_mod]; rfl

theorem parse_vexpand (ty : BitVec 4) (d : BitVec 8) (a : BitVec 8) (c : BitVec 4) : parseV (encodeV (.vexpand ty d a c)) = .ok (.vexpand ty d a c) := by
  refine (parseV_pack _ _ rfl).trans ?_
  show need _ _ = _
  simp only [pack_div, pack_mod, ofNat_mod]; rfl

theorem parse_vbcaste (ty : BitVec 4) (p : BitVec 4) (d : BitVec 8) (a : BitVec 8) (imm : BitVec 8) : parseV (encodeV (.vbcaste ty p d a imm)) = .ok (.vbcaste ty p d a imm) := by
  refine (parseV_pack _ _ rfl).trans ?_
  show need _ _ = _
  simp only [pack_div, pack_mod, ofNat_mod]; rfl

theorem parse_vcbdec (ty : BitVec 4) (p : BitVec 4) (d : BitVec 8) (a : BitVec 8) (imm : BitVec 8) : parseV (encodeV (.vcbdec ty p d a imm)) = .ok (.vcbdec ty p d a imm) := by
  refine (parseV_pack _ _ rfl).trans ?_
  show need _ _ = _
  simp only [pack_div, pack_mod, ofNat_mod]; rfl

theorem parse_scacc (ty : BitVec 4) (p : BitVec 4) (d : BitVec 8) (a : BitVec 8) (tile : BitVec 8) (imm : BitVec 8) : parseV (encodeV (.scacc ty p d a tile imm)) = .ok (.scacc ty p d a tile imm) := by
  refine (parseV_pack _ _ rfl).trans ?_
  show Except.ok _ = _
  simp only [pack_div, pack_mod, ofNat_mod]

theorem parse_pand (ty : BitVec 4) (p : BitVec 4) (d : BitVec 4) (a : BitVec 4) (b : BitVec 4) : parseV (encodeV (.pand ty p d a b)) = .ok (.pand ty p d a b) := by
  refine (parseV_pack _ _ rfl).trans ?_
  show need _ _ = _
  simp only [pack_div, pack_mod, ofNat_mod]; rfl

theorem parse_por (ty : BitVec 4) (p : BitVec 4) (d : BitVec 4) (a : BitVec 4) (b : BitVec 4) : parseV (encodeV (.por ty p d a b)) = .ok (.por ty p d a b) := by
  refine (parseV_pack _ _ rfl).trans ?_
  show need _ _ = _
  simp only [pack_div, pack_mod, ofNat_mod]; rfl

theorem parse_pxor (ty : BitVec 4) (p : BitVec 4) (d : BitVec 4) (a : BitVec 4) (b : BitVec 4) : parseV (encodeV (.pxor ty p d a b)) = .ok (.pxor ty p d a b) := by
  refine (parseV_pack _ _ rfl).trans ?_
  show need _ _ = _
  simp only [pack_div, pack_mod, ofNat_mod]; rfl

theorem parse_pandn (ty : BitVec 4) (p : BitVec 4) (d : BitVec 4) (a : BitVec 4) (b : BitVec 4) : parseV (encodeV (.pandn ty p d a b)) = .ok (.pandn ty p d a b) := by
  refine (parseV_pack _ _ rfl).trans ?_
  show need _ _ = _
  simp only [pack_div, pack_mod, ofNat_mod]; rfl

theorem parse_pnot (ty : BitVec 4) (p : BitVec 4) (d : BitVec 4) (a : BitVec 4) : parseV (encodeV (.pnot ty p d a)) = .ok (.pnot ty p d a) := by
  refine (parseV_pack _ _ rfl).trans ?_
  show need _ _ = _
  simp only [pack_div, pack_mod, ofNat_mod]; rfl

theorem parse_pseti (ty : BitVec 4) (d : BitVec 4) (imm : BitVec 16) : parseV (encodeV (.pseti ty d imm)) = .ok (.pseti ty d imm) := by
  refine (parseV_pack _ _ rfl).trans ?_
  show need _ _ = _
  simp only [pack_div, pack_mod, ofNat_mod]; rfl

theorem parse_ppopc (ty : BitVec 4) (p : BitVec 4) (d : BitVec 5) (a : BitVec 4) : parseV (encodeV (.ppopc ty p d a)) = .ok (.ppopc ty p d a) := by
  refine (parseV_pack _ _ rfl).trans ?_
  show need _ _ = _
  simp only [pack_div, pack_mod, ofNat_mod]; rfl

theorem parse_pfirst (ty : BitVec 4) (p : BitVec 4) (d : BitVec 5) (a : BitVec 4) : parseV (encodeV (.pfirst ty p d a)) = .ok (.pfirst ty p d a) := by
  refine (parseV_pack _ _ rfl).trans ?_
  show need _ _ = _
  simp only [pack_div, pack_mod, ofNat_mod]; rfl

theorem parse_vpclr (ty : BitVec 4) (p : BitVec 4) (d : BitVec 8) : parseV (encodeV (.vpclr ty p d)) = .ok (.vpclr ty p d) := by
  refine (parseV_pack _ _ rfl).trans ?_
  show need _ _ = _
  simp only [pack_div, pack_mod, ofNat_mod]; rfl

theorem parse_vptest (ty : BitVec 4) (p : BitVec 4) (d : BitVec 4) (a : BitVec 8) : parseV (encodeV (.vptest ty p d a)) = .ok (.vptest ty p d a) := by
  refine (parseV_pack _ _ rfl).trans ?_
  show need _ _ = _
  simp only [pack_div, pack_mod, ofNat_mod]; rfl

theorem parse_mnop : parseM (encodeM (.mnop)) = .ok (.mnop) := by
  refine (parseM_pack _ _ rfl).trans ?_
  show need _ _ = _
  simp only [pack]; rfl

theorem parse_vld (vr : BitVec 6) (w : BitVec 2) (sa : BitVec 5) (imm : BitVec 16) : parseM (encodeM (.vld vr w sa imm)) = .ok (.vld vr w sa imm) := by
  refine (parseM_pack _ _ rfl).trans ?_
  show need _ _ = _
  simp only [pack_div, pack_mod, ofNat_mod]; rfl

theorem parse_vst (vr : BitVec 6) (w : BitVec 2) (sa : BitVec 5) (imm : BitVec 16) (p : BitVec 4) (gr : BitVec 2) : parseM (encodeM (.vst vr w sa imm p gr)) = .ok (.vst vr w sa imm p gr) := by
  refine (parseM_pack _ _ rfl).trans ?_
  show need _ _ = _
  simp only [pack_div, pack_mod, ofNat_mod]; rfl

theorem parse_vgather (vr : BitVec 6) (sa : BitVec 5) (vb : BitVec 6) (p : BitVec 4) : parseM (encodeM (.vgather vr sa vb p)) = .ok (.vgather vr sa vb p) := by
  refine (parseM_pack _ _ rfl).trans ?_
  show need _ _ = _
  simp only [pack_div, pack_mod, ofNat_mod]; rfl

theorem parse_vscatter (vr : BitVec 6) (sa : BitVec 5) (vb : BitVec 6) (p : BitVec 4) : parseM (encodeM (.vscatter vr sa vb p)) = .ok (.vscatter vr sa vb p) := by
  refine (parseM_pack _ _ rfl).trans ?_
  show need _ _ = _
  simp only [pack_div, pack_mod, ofNat_mod]; rfl

theorem parse_vrmg (vd : BitVec 6) (va : BitVec 6) (p : BitVec 4) (i : BitVec 1) (imm : BitVec 10) (sb : BitVec 5) : parseM (encodeM (.vrmg vd va p i imm sb)) = .ok (.vrmg vd va p i imm sb) := by
  refine (parseM_pack _ _ rfl).trans ?_
  show need _ _ = _
  simp only [pack_div, pack_mod, ofNat_mod]; rfl

theorem parse_claim (slot : BitVec 5) (auto : BitVec 1) : parseM (encodeM (.claim slot auto)) = .ok (.claim slot auto) := by
  refine (parseM_pack _ _ rfl).trans ?_
  show need _ _ = _
  simp only [pack_div, pack_mod, ofNat_mod]; rfl

theorem parse_release (slot : BitVec 5) : parseM (encodeM (.release slot)) = .ok (.release slot) := by
  refine (parseM_pack _ _ rfl).trans ?_
  show need _ _ = _
  simp only [pack_div, pack_mod, ofNat_mod]; rfl

theorem parse_mtc (eng : BitVec 1) (set : BitVec 1) (vn : BitVec 6) (ovr : BitVec 1) : parseM (encodeM (.mtc eng set vn ovr)) = .ok (.mtc eng set vn ovr) := by
  refine (parseM_pack _ _ rfl).trans ?_
  show need _ _ = _
  simp only [pack_div, pack_mod, ofNat_mod]; rfl

theorem parse_accrd (vd : BitVec 6) (tile : BitVec 7) (row : BitVec 4) (sel : BitVec 2) : parseM (encodeM (.accrd vd tile row sel)) = .ok (.accrd vd tile row sel) := by
  refine (parseM_pack _ _ rfl).trans ?_
  show need _ _ = _
  simp only [pack_div, pack_mod, ofNat_mod]; rfl

theorem parse_enq (ring : BitVec 3) (vn : BitVec 6) (seg : BitVec 3) (cnt : BitVec 3) (rel : BitVec 1) (sc : BitVec 3) : parseM (encodeM (.enq ring vn seg cnt rel sc)) = .ok (.enq ring vn seg cnt rel sc) := by
  refine (parseM_pack _ _ rfl).trans ?_
  show need _ _ = _
  simp only [pack_div, pack_mod, ofNat_mod]; rfl

theorem parse_tlwait (tl : BitVec 3) (sa : BitVec 5) (sc : BitVec 5) (rmt : BitVec 1) (imm : BitVec 16) : parseM (encodeM (.tlwait tl sa sc rmt imm)) = .ok (.tlwait tl sa sc rmt imm) := by
  refine (parseM_pack _ _ rfl).trans ?_
  show need _ _ = _
  simp only [pack_div, pack_mod, ofNat_mod]; rfl

theorem parse_tladv (tl : BitVec 3) (cnt : BitVec 8) : parseM (encodeM (.tladv tl cnt)) = .ok (.tladv tl cnt) := by
  refine (parseM_pack _ _ rfl).trans ?_
  show need _ _ = _
  simp only [pack_div, pack_mod, ofNat_mod]; rfl

theorem parse_tagwaitAny (sa : BitVec 5) : parseM (encodeM (.tagwaitAny sa)) = .ok (.tagwaitAny sa) := by
  refine (parseM_pack _ _ rfl).trans ?_
  show need _ _ = _
  simp only [pack_div, pack_mod, ofNat_mod]; rfl

theorem parse_tagwaitAll (sa : BitVec 5) : parseM (encodeM (.tagwaitAll sa)) = .ok (.tagwaitAll sa) := by
  refine (parseM_pack _ _ rfl).trans ?_
  show need _ _ = _
  simp only [pack_div, pack_mod, ofNat_mod]; rfl

theorem parse_tagff (sa : BitVec 5) (sd : BitVec 5) : parseM (encodeM (.tagff sa sd)) = .ok (.tagff sa sd) := by
  refine (parseM_pack _ _ rfl).trans ?_
  show need _ _ = _
  simp only [pack_div, pack_mod, ofNat_mod]; rfl

theorem parse_tagclr (sa : BitVec 5) : parseM (encodeM (.tagclr sa)) = .ok (.tagclr sa) := by
  refine (parseM_pack _ _ rfl).trans ?_
  show need _ _ = _
  simp only [pack_div, pack_mod, ofNat_mod]; rfl

theorem parse_rvinit (rv : BitVec 5) (lev : BitVec 2) (reg : BitVec 5) : parseM (encodeM (.rvinit rv lev reg)) = .ok (.rvinit rv lev reg) := by
  refine (parseM_pack _ _ rfl).trans ?_
  show need _ _ = _
  simp only [pack_div, pack_mod, ofNat_mod]; rfl

theorem parse_arrive (rv : BitVec 5) (lev : BitVec 2) (reg : BitVec 5) : parseM (encodeM (.arrive rv lev reg)) = .ok (.arrive rv lev reg) := by
  refine (parseM_pack _ _ rfl).trans ?_
  show need _ _ = _
  simp only [pack_div, pack_mod, ofNat_mod]; rfl

theorem parse_rvwait (rv : BitVec 5) (lev : BitVec 2) (reg : BitVec 5) : parseM (encodeM (.rvwait rv lev reg)) = .ok (.rvwait rv lev reg) := by
  refine (parseM_pack _ _ rfl).trans ?_
  show need _ _ = _
  simp only [pack_div, pack_mod, ofNat_mod]; rfl

theorem parse_bufw (buf : BitVec 8) (sd : BitVec 5) : parseM (encodeM (.bufw buf sd)) = .ok (.bufw buf sd) := by
  refine (parseM_pack _ _ rfl).trans ?_
  show need _ _ = _
  simp only [pack_div, pack_mod, ofNat_mod]; rfl

theorem parse_bufp (buf : BitVec 8) : parseM (encodeM (.bufp buf)) = .ok (.bufp buf) := by
  refine (parseM_pack _ _ rfl).trans ?_
  show need _ _ = _
  simp only [pack_div, pack_mod, ofNat_mod]; rfl

theorem parse_bufr (buf : BitVec 8) (sd : BitVec 5) (sa : BitVec 5) : parseM (encodeM (.bufr buf sd sa)) = .ok (.bufr buf sd sa) := by
  refine (parseM_pack _ _ rfl).trans ?_
  show need _ _ = _
  simp only [pack_div, pack_mod, ofNat_mod]; rfl

theorem parse_bufx (buf : BitVec 8) (sa : BitVec 5) : parseM (encodeM (.bufx buf sa)) = .ok (.bufx buf sa) := by
  refine (parseM_pack _ _ rfl).trans ?_
  show need _ _ = _
  simp only [pack_div, pack_mod, ofNat_mod]; rfl

theorem parse_livemark (i : BitVec 1) (imm : BitVec 13) (sa : BitVec 5) : parseM (encodeM (.livemark i imm sa)) = .ok (.livemark i imm sa) := by
  refine (parseM_pack _ _ rfl).trans ?_
  show need _ _ = _
  simp only [pack_div, pack_mod, ofNat_mod]; rfl

end Sys2Proof.Machine

namespace Sys2Proof.Laws.RoundTrip
open Sys2Proof.Machine

/-- A well-formed instruction is what the decoder reads from its encoding, in the slot, on the ring or in the lane where it
stands. -/
def Statement (i : Instr) : Prop :=
  i.wf = true →
    (inS i = true → decodeS (encodeS i) = .ok i) ∧ (inV i = true → decodeV (encodeV i) = .ok i) ∧
      (inM i = true → decodeM (encodeM i) = .ok i) ∧
      (∀ r n c, cmdParts i = some (r, n, c) → decodeEntry r (encodeEntry i) = .ok i) ∧
      ∀ o l w, xferParts i = some (o, l, w) → decodeX l (encodeX i) = .ok i

/-- What a slot test that answers no leaves to show. -/
theorem none_of {p : Prop} {b : Bool} (h : b = false) : b = true → p := fun t => Bool.noConfusion (h.symm.trans t)

/-- Parts that do not exist leave nothing to show. -/
theorem noParts {α : Type} {o : Option α} {x : α} {p : Prop} (h : o = none) (t : o = some x) : p := by
  rw [h] at t; exact absurd t (by simp)

theorem ofS {i : Instr} (hv : inV i = false) (hm : inM i = false) (hc : cmdParts i = none) (hx : xferParts i = none)
    (h : parseS (encodeS i) = .ok i) : Statement i := fun hw =>
  ⟨fun _ => checked_ok h hw, none_of hv, none_of hm, fun _ _ _ t => noParts hc t,
    fun _ _ _ t => noParts hx t⟩

theorem ofV {i : Instr} (hs : inS i = false) (hm : inM i = false) (hc : cmdParts i = none) (hx : xferParts i = none)
    (h : parseV (encodeV i) = .ok i) : Statement i := fun hw =>
  ⟨none_of hs, fun _ => checked_ok h hw, none_of hm, fun _ _ _ t => noParts hc t,
    fun _ _ _ t => noParts hx t⟩

theorem ofM {i : Instr} (hs : inS i = false) (hv : inV i = false) (hc : cmdParts i = none) (hx : xferParts i = none)
    (h : parseM (encodeM i) = .ok i) : Statement i := fun hw =>
  ⟨none_of hs, none_of hv, fun _ => checked_ok h hw, fun _ _ _ t => noParts hc t,
    fun _ _ _ t => noParts hx t⟩

theorem ofC {i : Instr} {r n : Nat} {c : Cmd} (hs : inS i = false) (hv : inV i = false) (hm : inM i = false)
    (hx : xferParts i = none) (hc : cmdParts i = some (r, n, c)) (hn : n < 32) (hr : i.wf = true → r ≤ 5 ∧ cmdOk (r == 2) c = true)
    (h : parseCmdNo r n c = .ok i) : Statement i := fun hw =>
  ⟨none_of hs, none_of hv, none_of hm, fun r' n' c' t => by
      obtain ⟨rfl, rfl, rfl⟩ : r = r' ∧ n = n' ∧ c = c' := by simpa using hc.symm.trans t
      exact (decodeEntry_parts hc (hr hw).1 hn (hr hw).2).trans h,
    fun _ _ _ t => noParts hx t⟩

theorem ofX {i : Instr} {o : Nat} {l : BitVec 3} {w : XWords} (hs : inS i = false) (hv : inV i = false) (hm : inM i = false)
    (hc : cmdParts i = none) (hx : xferParts i = some (o, l, w)) (ho : o < 256) (h : parseXOp l o w = .ok i) : Statement i :=
  fun _ => ⟨none_of hs, none_of hv, none_of hm, fun _ _ _ t => noParts hc t, fun o' l' w' t => by
    obtain ⟨rfl, rfl, rfl⟩ : o = o' ∧ l = l' ∧ w = w' := by simpa using hx.symm.trans t
    exact (decodeX_parts hx ho).trans h⟩

/-- A step of the device has no encoding. -/
theorem ofE {i : Instr} (hs : inS i = false) (hv : inV i = false) (hm : inM i = false) (hc : cmdParts i = none)
    (hx : xferParts i = none) : Statement i := fun _ =>
  ⟨none_of hs, none_of hv, none_of hm, fun _ _ _ t => noParts hc t,
    fun _ _ _ t => noParts hx t⟩

theorem nop (idle : BitVec 3) : Statement (.nop idle) := ofS rfl rfl rfl rfl (parse_nop idle)
theorem add (idle : BitVec 3) (d : BitVec 5) (a : BitVec 5) (b : BitVec 5) : Statement (.add idle d a b) := ofS rfl rfl rfl rfl (parse_add idle d a b)
theorem sub (idle : BitVec 3) (d : BitVec 5) (a : BitVec 5) (b : BitVec 5) : Statement (.sub idle d a b) := ofS rfl rfl rfl rfl (parse_sub idle d a b)
theorem and (idle : BitVec 3) (d : BitVec 5) (a : BitVec 5) (b : BitVec 5) : Statement (.and idle d a b) := ofS rfl rfl rfl rfl (parse_and idle d a b)
theorem or (idle : BitVec 3) (d : BitVec 5) (a : BitVec 5) (b : BitVec 5) : Statement (.or idle d a b) := ofS rfl rfl rfl rfl (parse_or idle d a b)
theorem xor (idle : BitVec 3) (d : BitVec 5) (a : BitVec 5) (b : BitVec 5) : Statement (.xor idle d a b) := ofS rfl rfl rfl rfl (parse_xor idle d a b)
theorem andn (idle : BitVec 3) (d : BitVec 5) (a : BitVec 5) (b : BitVec 5) : Statement (.andn idle d a b) := ofS rfl rfl rfl rfl (parse_andn idle d a b)
theorem shl (idle : BitVec 3) (d : BitVec 5) (a : BitVec 5) (b : BitVec 5) : Statement (.shl idle d a b) := ofS rfl rfl rfl rfl (parse_shl idle d a b)
theorem shr (idle : BitVec 3) (d : BitVec 5) (a : BitVec 5) (b : BitVec 5) : Statement (.shr idle d a b) := ofS rfl rfl rfl rfl (parse_shr idle d a b)
theorem sra (idle : BitVec 3) (d : BitVec 5) (a : BitVec 5) (b : BitVec 5) : Statement (.sra idle d a b) := ofS rfl rfl rfl rfl (parse_sra idle d a b)
theorem min (idle : BitVec 3) (d : BitVec 5) (a : BitVec 5) (b : BitVec 5) : Statement (.min idle d a b) := ofS rfl rfl rfl rfl (parse_min idle d a b)
theorem max (idle : BitVec 3) (d : BitVec 5) (a : BitVec 5) (b : BitVec 5) : Statement (.max idle d a b) := ofS rfl rfl rfl rfl (parse_max idle d a b)
theorem minu (idle : BitVec 3) (d : BitVec 5) (a : BitVec 5) (b : BitVec 5) : Statement (.minu idle d a b) := ofS rfl rfl rfl rfl (parse_minu idle d a b)
theorem maxu (idle : BitVec 3) (d : BitVec 5) (a : BitVec 5) (b : BitVec 5) : Statement (.maxu idle d a b) := ofS rfl rfl rfl rfl (parse_maxu idle d a b)
theorem seq (idle : BitVec 3) (d : BitVec 5) (a : BitVec 5) (b : BitVec 5) : Statement (.seq idle d a b) := ofS rfl rfl rfl rfl (parse_seq idle d a b)
theorem sne (idle : BitVec 3) (d : BitVec 5) (a : BitVec 5) (b : BitVec 5) : Statement (.sne idle d a b) := ofS rfl rfl rfl rfl (parse_sne idle d a b)
theorem slt (idle : BitVec 3) (d : BitVec 5) (a : BitVec 5) (b : BitVec 5) : Statement (.slt idle d a b) := ofS rfl rfl rfl rfl (parse_slt idle d a b)
theorem sltu (idle : BitVec 3) (d : BitVec 5) (a : BitVec 5) (b : BitVec 5) : Statement (.sltu idle d a b) := ofS rfl rfl rfl rfl (parse_sltu idle d a b)
theorem sle (idle : BitVec 3) (d : BitVec 5) (a : BitVec 5) (b : BitVec 5) : Statement (.sle idle d a b) := ofS rfl rfl rfl rfl (parse_sle idle d a b)
theorem sleu (idle : BitVec 3) (d : BitVec 5) (a : BitVec 5) (b : BitVec 5) : Statement (.sleu idle d a b) := ofS rfl rfl rfl rfl (parse_sleu idle d a b)
theorem mul (idle : BitVec 3) (d : BitVec 5) (a : BitVec 5) (b : BitVec 5) : Statement (.mul idle d a b) := ofS rfl rfl rfl rfl (parse_mul idle d a b)
theorem mulh (idle : BitVec 3) (d : BitVec 5) (a : BitVec 5) (b : BitVec 5) : Statement (.mulh idle d a b) := ofS rfl rfl rfl rfl (parse_mulh idle d a b)
theorem mulhu (idle : BitVec 3) (d : BitVec 5) (a : BitVec 5) (b : BitVec 5) : Statement (.mulhu idle d a b) := ofS rfl rfl rfl rfl (parse_mulhu idle d a b)
theorem div (idle : BitVec 3) (d : BitVec 5) (a : BitVec 5) (b : BitVec 5) : Statement (.div idle d a b) := ofS rfl rfl rfl rfl (parse_div idle d a b)
theorem divu (idle : BitVec 3) (d : BitVec 5) (a : BitVec 5) (b : BitVec 5) : Statement (.divu idle d a b) := ofS rfl rfl rfl rfl (parse_divu idle d a b)
theorem rem (idle : BitVec 3) (d : BitVec 5) (a : BitVec 5) (b : BitVec 5) : Statement (.rem idle d a b) := ofS rfl rfl rfl rfl (parse_rem idle d a b)
theorem remu (idle : BitVec 3) (d : BitVec 5) (a : BitVec 5) (b : BitVec 5) : Statement (.remu idle d a b) := ofS rfl rfl rfl rfl (parse_remu idle d a b)
theorem clz (idle : BitVec 3) (d : BitVec 5) (a : BitVec 5) : Statement (.clz idle d a) := ofS rfl rfl rfl rfl (parse_clz idle d a)
theorem ctz (idle : BitVec 3) (d : BitVec 5) (a : BitVec 5) : Statement (.ctz idle d a) := ofS rfl rfl rfl rfl (parse_ctz idle d a)
theorem popc (idle : BitVec 3) (d : BitVec 5) (a : BitVec 5) : Statement (.popc idle d a) := ofS rfl rfl rfl rfl (parse_popc idle d a)
theorem addi (idle : BitVec 3) (d : BitVec 5) (a : BitVec 5) (imm : BitVec 13) : Statement (.addi idle d a imm) := ofS rfl rfl rfl rfl (parse_addi idle d a imm)
theorem andi (idle : BitVec 3) (d : BitVec 5) (a : BitVec 5) (imm : BitVec 13) : Statement (.andi idle d a imm) := ofS rfl rfl rfl rfl (parse_andi idle d a imm)
theorem ori (idle : BitVec 3) (d : BitVec 5) (a : BitVec 5) (imm : BitVec 13) : Statement (.ori idle d a imm) := ofS rfl rfl rfl rfl (parse_ori idle d a imm)
theorem xori (idle : BitVec 3) (d : BitVec 5) (a : BitVec 5) (imm : BitVec 13) : Statement (.xori idle d a imm) := ofS rfl rfl rfl rfl (parse_xori idle d a imm)
theorem shli (idle : BitVec 3) (d : BitVec 5) (a : BitVec 5) (cnt : BitVec 6) : Statement (.shli idle d a cnt) := ofS rfl rfl rfl rfl (parse_shli idle d a cnt)
theorem shri (idle : BitVec 3) (d : BitVec 5) (a : BitVec 5) (cnt : BitVec 6) : Statement (.shri idle d a cnt) := ofS rfl rfl rfl rfl (parse_shri idle d a cnt)
theorem srai (idle : BitVec 3) (d : BitVec 5) (a : BitVec 5) (cnt : BitVec 6) : Statement (.srai idle d a cnt) := ofS rfl rfl rfl rfl (parse_srai idle d a cnt)
theorem slti (idle : BitVec 3) (d : BitVec 5) (a : BitVec 5) (imm : BitVec 13) : Statement (.slti idle d a imm) := ofS rfl rfl rfl rfl (parse_slti idle d a imm)
theorem sltiu (idle : BitVec 3) (d : BitVec 5) (a : BitVec 5) (imm : BitVec 13) : Statement (.sltiu idle d a imm) := ofS rfl rfl rfl rfl (parse_sltiu idle d a imm)
theorem seqi (idle : BitVec 3) (d : BitVec 5) (a : BitVec 5) (imm : BitVec 13) : Statement (.seqi idle d a imm) := ofS rfl rfl rfl rfl (parse_seqi idle d a imm)
theorem muli (idle : BitVec 3) (d : BitVec 5) (a : BitVec 5) (imm : BitVec 13) : Statement (.muli idle d a imm) := ofS rfl rfl rfl rfl (parse_muli idle d a imm)
theorem extu (idle : BitVec 3) (d : BitVec 5) (a : BitVec 5) (w : BitVec 6) (p : BitVec 6) : Statement (.extu idle d a w p) := ofS rfl rfl rfl rfl (parse_extu idle d a w p)
theorem exts (idle : BitVec 3) (d : BitVec 5) (a : BitVec 5) (w : BitVec 6) (p : BitVec 6) : Statement (.exts idle d a w p) := ofS rfl rfl rfl rfl (parse_exts idle d a w p)
theorem ins (idle : BitVec 3) (d : BitVec 5) (a : BitVec 5) (w : BitVec 6) (p : BitVec 6) : Statement (.ins idle d a w p) := ofS rfl rfl rfl rfl (parse_ins idle d a w p)
theorem lih (idle : BitVec 3) (d : BitVec 5) (imm : BitVec 18) : Statement (.lih idle d imm) := ofS rfl rfl rfl rfl (parse_lih idle d imm)
theorem lipc (idle : BitVec 3) (d : BitVec 5) (imm : BitVec 18) : Statement (.lipc idle d imm) := ofS rfl rfl rfl rfl (parse_lipc idle d imm)
theorem beqz (idle : BitVec 3) (a : BitVec 5) (off : BitVec 18) : Statement (.beqz idle a off) := ofS rfl rfl rfl rfl (parse_beqz idle a off)
theorem bnez (idle : BitVec 3) (a : BitVec 5) (off : BitVec 18) : Statement (.bnez idle a off) := ofS rfl rfl rfl rfl (parse_bnez idle a off)
theorem bltz (idle : BitVec 3) (a : BitVec 5) (off : BitVec 18) : Statement (.bltz idle a off) := ofS rfl rfl rfl rfl (parse_bltz idle a off)
theorem bgez (idle : BitVec 3) (a : BitVec 5) (off : BitVec 18) : Statement (.bgez idle a off) := ofS rfl rfl rfl rfl (parse_bgez idle a off)
theorem br (idle : BitVec 3) (off : BitVec 18) : Statement (.br idle off) := ofS rfl rfl rfl rfl (parse_br idle off)
theorem call (idle : BitVec 3) (off : BitVec 18) : Statement (.call idle off) := ofS rfl rfl rfl rfl (parse_call idle off)
theorem jr (idle : BitVec 3) (a : BitVec 5) : Statement (.jr idle a) := ofS rfl rfl rfl rfl (parse_jr idle a)
theorem callr (idle : BitVec 3) (d : BitVec 5) (a : BitVec 5) : Statement (.callr idle d a) := ofS rfl rfl rfl rfl (parse_callr idle d a)
theorem loop (idle : BitVec 3) (a : BitVec 5) (off : BitVec 18) : Statement (.loop idle a off) := ofS rfl rfl rfl rfl (parse_loop idle a off)
theorem ldb (idle : BitVec 3) (d : BitVec 5) (a : BitVec 5) (imm : BitVec 13) : Statement (.ldb idle d a imm) := ofS rfl rfl rfl rfl (parse_ldb idle d a imm)
theorem ldbu (idle : BitVec 3) (d : BitVec 5) (a : BitVec 5) (imm : BitVec 13) : Statement (.ldbu idle d a imm) := ofS rfl rfl rfl rfl (parse_ldbu idle d a imm)
theorem ldh (idle : BitVec 3) (d : BitVec 5) (a : BitVec 5) (imm : BitVec 13) : Statement (.ldh idle d a imm) := ofS rfl rfl rfl rfl (parse_ldh idle d a imm)
theorem ldhu (idle : BitVec 3) (d : BitVec 5) (a : BitVec 5) (imm : BitVec 13) : Statement (.ldhu idle d a imm) := ofS rfl rfl rfl rfl (parse_ldhu idle d a imm)
theorem ldw (idle : BitVec 3) (d : BitVec 5) (a : BitVec 5) (imm : BitVec 13) : Statement (.ldw idle d a imm) := ofS rfl rfl rfl rfl (parse_ldw idle d a imm)
theorem ldwu (idle : BitVec 3) (d : BitVec 5) (a : BitVec 5) (imm : BitVec 13) : Statement (.ldwu idle d a imm) := ofS rfl rfl rfl rfl (parse_ldwu idle d a imm)
theorem ldd (idle : BitVec 3) (d : BitVec 5) (a : BitVec 5) (imm : BitVec 13) : Statement (.ldd idle d a imm) := ofS rfl rfl rfl rfl (parse_ldd idle d a imm)
theorem ldc (idle : BitVec 3) (d : BitVec 5) (a : BitVec 5) (imm : BitVec 13) : Statement (.ldc idle d a imm) := ofS rfl rfl rfl rfl (parse_ldc idle d a imm)
theorem stb (idle : BitVec 3) (d : BitVec 5) (a : BitVec 5) (imm : BitVec 13) : Statement (.stb idle d a imm) := ofS rfl rfl rfl rfl (parse_stb idle d a imm)
theorem sth (idle : BitVec 3) (d : BitVec 5) (a : BitVec 5) (imm : BitVec 13) : Statement (.sth idle d a imm) := ofS rfl rfl rfl rfl (parse_sth idle d a imm)
theorem stw (idle : BitVec 3) (d : BitVec 5) (a : BitVec 5) (imm : BitVec 13) : Statement (.stw idle d a imm) := ofS rfl rfl rfl rfl (parse_stw idle d a imm)
theorem std (idle : BitVec 3) (d : BitVec 5) (a : BitVec 5) (imm : BitVec 13) : Statement (.std idle d a imm) := ofS rfl rfl rfl rfl (parse_std idle d a imm)
theorem lda (idle : BitVec 3) (d : BitVec 5) (a : BitVec 5) (b : BitVec 5) (sz : BitVec 2) (u : BitVec 1) (ord : BitVec 1) (sc : BitVec 3) : Statement (.lda idle d a b sz u ord sc) := ofS rfl rfl rfl rfl (parse_lda idle d a b sz u ord sc)
theorem sta (idle : BitVec 3) (d : BitVec 5) (a : BitVec 5) (b : BitVec 5) (sz : BitVec 2) (ord : BitVec 1) (sc : BitVec 3) : Statement (.sta idle d a b sz ord sc) := ofS rfl rfl rfl rfl (parse_sta idle d a b sz ord sc)
theorem atom (idle : BitVec 3) (d : BitVec 5) (a : BitVec 5) (b : BitVec 5) (op : BitVec 4) (sz : BitVec 1) : Statement (.atom idle d a b op sz) := ofS rfl rfl rfl rfl (parse_atom idle d a b op sz)
theorem atomAcq (idle : BitVec 3) (d : BitVec 5) (a : BitVec 5) (b : BitVec 5) (op : BitVec 4) (sz : BitVec 1) (sc : BitVec 3) : Statement (.atomAcq idle d a b op sz sc) := ofS rfl rfl rfl rfl (parse_atomAcq idle d a b op sz sc)
theorem atomRel (idle : BitVec 3) (d : BitVec 5) (a : BitVec 5) (b : BitVec 5) (op : BitVec 4) (sz : BitVec 1) (sc : BitVec 3) : Statement (.atomRel idle d a b op sz sc) := ofS rfl rfl rfl rfl (parse_atomRel idle d a b op sz sc)
theorem atomAr (idle : BitVec 3) (d : BitVec 5) (a : BitVec 5) (b : BitVec 5) (op : BitVec 4) (sz : BitVec 1) (sc : BitVec 3) : Statement (.atomAr idle d a b op sz sc) := ofS rfl rfl rfl rfl (parse_atomAr idle d a b op sz sc)
theorem fence (idle : BitVec 3) (sc : BitVec 3) : Statement (.fence idle sc) := ofS rfl rfl rfl rfl (parse_fence idle sc)
theorem fenceU (idle : BitVec 3) (sc : BitVec 3) : Statement (.fenceU idle sc) := ofS rfl rfl rfl rfl (parse_fenceU idle sc)
theorem cinv (idle : BitVec 3) : Statement (.cinv idle) := ofS rfl rfl rfl rfl (parse_cinv idle)
theorem mfs (idle : BitVec 3) (d : BitVec 5) (n : BitVec 13) : Statement (.mfs idle d n) := ofS rfl rfl rfl rfl (parse_mfs idle d n)
theorem mts (idle : BitVec 3) (a : BitVec 5) (n : BitVec 13) : Statement (.mts idle a n) := ofS rfl rfl rfl rfl (parse_mts idle a n)
theorem trap (idle : BitVec 3) (code : BitVec 13) : Statement (.trap idle code) := ofS rfl rfl rfl rfl (parse_trap idle code)
theorem rft (idle : BitVec 3) : Statement (.rft idle) := ofS rfl rfl rfl rfl (parse_rft idle)
theorem halt (idle : BitVec 3) : Statement (.halt idle) := ofS rfl rfl rfl rfl (parse_halt idle)
theorem publish (idle : BitVec 3) (w : BitVec 4) : Statement (.publish idle w) := ofS rfl rfl rfl rfl (parse_publish idle w)
theorem setphase (idle : BitVec 3) (a : BitVec 5) (lead : BitVec 13) : Statement (.setphase idle a lead) := ofS rfl rfl rfl rfl (parse_setphase idle a lead)
theorem vnop : Statement (.vnop) := ofV rfl rfl rfl rfl (parse_vnop)
theorem vadd (ty : BitVec 4) (p : BitVec 4) (d : BitVec 8) (a : BitVec 8) (b : BitVec 8) : Statement (.vadd ty p d a b) := ofV rfl rfl rfl rfl (parse_vadd ty p d a b)
theorem vsub (ty : BitVec 4) (p : BitVec 4) (d : BitVec 8) (a : BitVec 8) (b : BitVec 8) : Statement (.vsub ty p d a b) := ofV rfl rfl rfl rfl (parse_vsub ty p d a b)
theorem vmul (ty : BitVec 4) (p : BitVec 4) (d : BitVec 8) (a : BitVec 8) (b : BitVec 8) : Statement (.vmul ty p d a b) := ofV rfl rfl rfl rfl (parse_vmul ty p d a b)
theorem vmulh (ty : BitVec 4) (p : BitVec 4) (d : BitVec 8) (a : BitVec 8) (b : BitVec 8) : Statement (.vmulh ty p d a b) := ofV rfl rfl rfl rfl (parse_vmulh ty p d a b)
theorem vadds (ty : BitVec 4) (p : BitVec 4) (d : BitVec 8) (a : BitVec 8) (b : BitVec 8) : Statement (.vadds ty p d a b) := ofV rfl rfl rfl rfl (parse_vadds ty p d a b)
theorem vsubs (ty : BitVec 4) (p : BitVec 4) (d : BitVec 8) (a : BitVec 8) (b : BitVec 8) : Statement (.vsubs ty p d a b) := ofV rfl rfl rfl rfl (parse_vsubs ty p d a b)
theorem vmin (ty : BitVec 4) (p : BitVec 4) (d : BitVec 8) (a : BitVec 8) (b : BitVec 8) : Statement (.vmin ty p d a b) := ofV rfl rfl rfl rfl (parse_vmin ty p d a b)
theorem vmax (ty : BitVec 4) (p : BitVec 4) (d : BitVec 8) (a : BitVec 8) (b : BitVec 8) : Statement (.vmax ty p d a b) := ofV rfl rfl rfl rfl (parse_vmax ty p d a b)
theorem vabs (ty : BitVec 4) (p : BitVec 4) (d : BitVec 8) (a : BitVec 8) : Statement (.vabs ty p d a) := ofV rfl rfl rfl rfl (parse_vabs ty p d a)
theorem vneg (ty : BitVec 4) (p : BitVec 4) (d : BitVec 8) (a : BitVec 8) : Statement (.vneg ty p d a) := ofV rfl rfl rfl rfl (parse_vneg ty p d a)
theorem vmulw (ty : BitVec 4) (p : BitVec 4) (d : BitVec 8) (a : BitVec 8) (b : BitVec 8) : Statement (.vmulw ty p d a b) := ofV rfl rfl rfl rfl (parse_vmulw ty p d a b)
theorem vaddw (ty : BitVec 4) (p : BitVec 4) (d : BitVec 8) (a : BitVec 8) (b : BitVec 8) : Statement (.vaddw ty p d a b) := ofV rfl rfl rfl rfl (parse_vaddw ty p d a b)
theorem vnarrow (ty : BitVec 4) (p : BitVec 4) (d : BitVec 8) (a : BitVec 8) : Statement (.vnarrow ty p d a) := ofV rfl rfl rfl rfl (parse_vnarrow ty p d a)
theorem vaddi (ty : BitVec 4) (p : BitVec 4) (d : BitVec 8) (a : BitVec 8) (imm : BitVec 8) : Statement (.vaddi ty p d a imm) := ofV rfl rfl rfl rfl (parse_vaddi ty p d a imm)
theorem vmac (ty : BitVec 4) (p : BitVec 4) (d : BitVec 8) (a : BitVec 8) (b : BitVec 8) : Statement (.vmac ty p d a b) := ofV rfl rfl rfl rfl (parse_vmac ty p d a b)
theorem vand (ty : BitVec 4) (p : BitVec 4) (d : BitVec 8) (a : BitVec 8) (b : BitVec 8) : Statement (.vand ty p d a b) := ofV rfl rfl rfl rfl (parse_vand ty p d a b)
theorem vor (ty : BitVec 4) (p : BitVec 4) (d : BitVec 8) (a : BitVec 8) (b : BitVec 8) : Statement (.vor ty p d a b) := ofV rfl rfl rfl rfl (parse_vor ty p d a b)
theorem vxor (ty : BitVec 4) (p : BitVec 4) (d : BitVec 8) (a : BitVec 8) (b : BitVec 8) : Statement (.vxor ty p d a b) := ofV rfl rfl rfl rfl (parse_vxor ty p d a b)
theorem vandn (ty : BitVec 4) (p : BitVec 4) (d : BitVec 8) (a : BitVec 8) (b : BitVec 8) : Statement (.vandn ty p d a b) := ofV rfl rfl rfl rfl (parse_vandn ty p d a b)
theorem vnot (ty : BitVec 4) (p : BitVec 4) (d : BitVec 8) (a : BitVec 8) : Statement (.vnot ty p d a) := ofV rfl rfl rfl rfl (parse_vnot ty p d a)
theorem vshl (ty : BitVec 4) (p : BitVec 4) (d : BitVec 8) (a : BitVec 8) (b : BitVec 8) : Statement (.vshl ty p d a b) := ofV rfl rfl rfl rfl (parse_vshl ty p d a b)
theorem vshr (ty : BitVec 4) (p : BitVec 4) (d : BitVec 8) (a : BitVec 8) (b : BitVec 8) : Statement (.vshr ty p d a b) := ofV rfl rfl rfl rfl (parse_vshr ty p d a b)
theorem vsra (ty : BitVec 4) (p : BitVec 4) (d : BitVec 8) (a : BitVec 8) (b : BitVec 8) : Statement (.vsra ty p d a b) := ofV rfl rfl rfl rfl (parse_vsra ty p d a b)
theorem vshli (ty : BitVec 4) (p : BitVec 4) (d : BitVec 8) (a : BitVec 8) (imm : BitVec 8) : Statement (.vshli ty p d a imm) := ofV rfl rfl rfl rfl (parse_vshli ty p d a imm)
theorem vshri (ty : BitVec 4) (p : BitVec 4) (d : BitVec 8) (a : BitVec 8) (imm : BitVec 8) : Statement (.vshri ty p d a imm) := ofV rfl rfl rfl rfl (parse_vshri ty p d a imm)
theorem vsrai (ty : BitVec 4) (p : BitVec 4) (d : BitVec 8) (a : BitVec 8) (imm : BitVec 8) : Statement (.vsrai ty p d a imm) := ofV rfl rfl rfl rfl (parse_vsrai ty p d a imm)
theorem vcmp (ty : BitVec 4) (p : BitVec 4) (d : BitVec 4) (a : BitVec 8) (b : BitVec 8) (imm : BitVec 8) : Statement (.vcmp ty p d a b imm) := ofV rfl rfl rfl rfl (parse_vcmp ty p d a b imm)
theorem vsel (ty : BitVec 4) (p : BitVec 4) (d : BitVec 8) (a : BitVec 8) (b : BitVec 8) (c : BitVec 4) : Statement (.vsel ty p d a b c) := ofV rfl rfl rfl rfl (parse_vsel ty p d a b c)
theorem vsplat (ty : BitVec 4) (p : BitVec 4) (d : BitVec 8) (a : BitVec 5) : Statement (.vsplat ty p d a) := ofV rfl rfl rfl rfl (parse_vsplat ty p d a)
theorem vsplati (ty : BitVec 4) (p : BitVec 4) (d : BitVec 8) (imm : BitVec 16) : Statement (.vsplati ty p d imm) := ofV rfl rfl rfl rfl (parse_vsplati ty p d imm)
theorem vins (ty : BitVec 4) (p : BitVec 4) (d : BitVec 8) (a : BitVec 5) (b : BitVec 5) : Statement (.vins ty p d a b) := ofV rfl rfl rfl rfl (parse_vins ty p d a b)
theorem vext (ty : BitVec 4) (d : BitVec 5) (a : BitVec 8) (b : BitVec 5) : Statement (.vext ty d a b) := ofV rfl rfl rfl rfl (parse_vext ty d a b)
theorem vmov (ty : BitVec 4) (p : BitVec 4) (d : BitVec 8) (a : BitVec 8) : Statement (.vmov ty p d a) := ofV rfl rfl rfl rfl (parse_vmov ty p d a)
theorem vfma (ty : BitVec 4) (p : BitVec 4) (d : BitVec 8) (a : BitVec 8) (b : BitVec 8) (c : BitVec 8) : Statement (.vfma ty p d a b c) := ofV rfl rfl rfl rfl (parse_vfma ty p d a b c)
theorem vfms (ty : BitVec 4) (p : BitVec 4) (d : BitVec 8) (a : BitVec 8) (b : BitVec 8) (c : BitVec 8) : Statement (.vfms ty p d a b c) := ofV rfl rfl rfl rfl (parse_vfms ty p d a b c)
theorem vfnma (ty : BitVec 4) (p : BitVec 4) (d : BitVec 8) (a : BitVec 8) (b : BitVec 8) (c : BitVec 8) : Statement (.vfnma ty p d a b c) := ofV rfl rfl rfl rfl (parse_vfnma ty p d a b c)
theorem vcvt (ty : BitVec 4) (p : BitVec 4) (d : BitVec 8) (a : BitVec 8) (imm : BitVec 8) : Statement (.vcvt ty p d a imm) := ofV rfl rfl rfl rfl (parse_vcvt ty p d a imm)
theorem vdot (ty : BitVec 4) (p : BitVec 4) (d : BitVec 8) (a : BitVec 8) (b : BitVec 8) (c : BitVec 8) : Statement (.vdot ty p d a b c) := ofV rfl rfl rfl rfl (parse_vdot ty p d a b c)
theorem vrcp (ty : BitVec 4) (p : BitVec 4) (d : BitVec 8) (a : BitVec 8) : Statement (.vrcp ty p d a) := ofV rfl rfl rfl rfl (parse_vrcp ty p d a)
theorem vrsq (ty : BitVec 4) (p : BitVec 4) (d : BitVec 8) (a : BitVec 8) : Statement (.vrsq ty p d a) := ofV rfl rfl rfl rfl (parse_vrsq ty p d a)
theorem vrcpn (ty : BitVec 4) (p : BitVec 4) (d : BitVec 8) (a : BitVec 8) (b : BitVec 8) : Statement (.vrcpn ty p d a b) := ofV rfl rfl rfl rfl (parse_vrcpn ty p d a b)
theorem vrsqn (ty : BitVec 4) (p : BitVec 4) (d : BitVec 8) (a : BitVec 8) (b : BitVec 8) : Statement (.vrsqn ty p d a b) := ofV rfl rfl rfl rfl (parse_vrsqn ty p d a b)
theorem vexp2 (ty : BitVec 4) (p : BitVec 4) (d : BitVec 8) (a : BitVec 8) : Statement (.vexp2 ty p d a) := ofV rfl rfl rfl rfl (parse_vexp2 ty p d a)
theorem vlog2 (ty : BitVec 4) (p : BitVec 4) (d : BitVec 8) (a : BitVec 8) : Statement (.vlog2 ty p d a) := ofV rfl rfl rfl rfl (parse_vlog2 ty p d a)
theorem vredadd (ty : BitVec 4) (p : BitVec 4) (d : BitVec 8) (a : BitVec 8) : Statement (.vredadd ty p d a) := ofV rfl rfl rfl rfl (parse_vredadd ty p d a)
theorem vredmin (ty : BitVec 4) (p : BitVec 4) (d : BitVec 8) (a : BitVec 8) : Statement (.vredmin ty p d a) := ofV rfl rfl rfl rfl (parse_vredmin ty p d a)
theorem vredmax (ty : BitVec 4) (p : BitVec 4) (d : BitVec 8) (a : BitVec 8) : Statement (.vredmax ty p d a) := ofV rfl rfl rfl rfl (parse_vredmax ty p d a)
theorem vscan (ty : BitVec 4) (p : BitVec 4) (d : BitVec 8) (a : BitVec 8) : Statement (.vscan ty p d a) := ofV rfl rfl rfl rfl (parse_vscan ty p d a)
theorem vppopc (ty : BitVec 4) (p : BitVec 4) (d : BitVec 8) (a : BitVec 4) : Statement (.vppopc ty p d a) := ofV rfl rfl rfl rfl (parse_vppopc ty p d a)
theorem vtopk (ty : BitVec 4) (p : BitVec 4) (d : BitVec 8) (a : BitVec 8) (b : BitVec 8) (imm : BitVec 8) : Statement (.vtopk ty p d a b imm) := ofV rfl rfl rfl rfl (parse_vtopk ty p d a b imm)
theorem vperm (ty : BitVec 4) (p : BitVec 4) (d : BitVec 8) (a : BitVec 8) (b : BitVec 8) : Statement (.vperm ty p d a b) := ofV rfl rfl rfl rfl (parse_vperm ty p d a b)
theorem vslide (ty : BitVec 4) (p : BitVec 4) (d : BitVec 8) (a : BitVec 8) (b : BitVec 8) (imm : BitVec 8) : Statement (.vslide ty p d a b imm) := ofV rfl rfl rfl rfl (parse_vslide ty p d a b imm)
theorem vzip (ty : BitVec 4) (p : BitVec 4) (d : BitVec 8) (a : BitVec 8) (b : BitVec 8) : Statement (.vzip ty p d a b) := ofV rfl rfl rfl rfl (parse_vzip ty p d a b)
theorem vunzip (ty : BitVec 4) (p : BitVec 4) (d : BitVec 8) (a : BitVec 8) : Statement (.vunzip ty p d a) := ofV rfl rfl rfl rfl (parse_vunzip ty p d a)
theorem vcompress (ty : BitVec 4) (d : BitVec 8) (a : BitVec 8) (c : BitVec 4) : Statement (.vcompress ty d a c) := ofV rfl rfl rfl rfl (parse_vcompress ty d a c)
theorem vexpand (ty : BitVec 4) (d : BitVec 8) (a : BitVec 8) (c : BitVec 4) : Statement (.vexpand ty d a c) := ofV rfl rfl rfl rfl (parse_vexpand ty d a c)
theorem vbcaste (ty : BitVec 4) (p : BitVec 4) (d : BitVec 8) (a : BitVec 8) (imm : BitVec 8) : Statement (.vbcaste ty p d a imm) := ofV rfl rfl rfl rfl (parse_vbcaste ty p d a imm)
theorem vcbdec (ty : BitVec 4) (p : BitVec 4) (d : BitVec 8) (a : BitVec 8) (imm : BitVec 8) : Statement (.vcbdec ty p d a imm) := ofV rfl rfl rfl rfl (parse_vcbdec ty p d a imm)
theorem scacc (ty : BitVec 4) (p : BitVec 4) (d : BitVec 8) (a : BitVec 8) (tile : BitVec 8) (imm : BitVec 8) : Statement (.scacc ty p d a tile imm) := ofV rfl rfl rfl rfl (parse_scacc ty p d a tile imm)
theorem pand (ty : BitVec 4) (p : BitVec 4) (d : BitVec 4) (a : BitVec 4) (b : BitVec 4) : Statement (.pand ty p d a b) := ofV rfl rfl rfl rfl (parse_pand ty p d a b)
theorem por (ty : BitVec 4) (p : BitVec 4) (d : BitVec 4) (a : BitVec 4) (b : BitVec 4) : Statement (.por ty p d a b) := ofV rfl rfl rfl rfl (parse_por ty p d a b)
theorem pxor (ty : BitVec 4) (p : BitVec 4) (d : BitVec 4) (a : BitVec 4) (b : BitVec 4) : Statement (.pxor ty p d a b) := ofV rfl rfl rfl rfl (parse_pxor ty p d a b)
theorem pandn (ty : BitVec 4) (p : BitVec 4) (d : BitVec 4) (a : BitVec 4) (b : BitVec 4) : Statement (.pandn ty p d a b) := ofV rfl rfl rfl rfl (parse_pandn ty p d a b)
theorem pnot (ty : BitVec 4) (p : BitVec 4) (d : BitVec 4) (a : BitVec 4) : Statement (.pnot ty p d a) := ofV rfl rfl rfl rfl (parse_pnot ty p d a)
theorem pseti (ty : BitVec 4) (d : BitVec 4) (imm : BitVec 16) : Statement (.pseti ty d imm) := ofV rfl rfl rfl rfl (parse_pseti ty d imm)
theorem ppopc (ty : BitVec 4) (p : BitVec 4) (d : BitVec 5) (a : BitVec 4) : Statement (.ppopc ty p d a) := ofV rfl rfl rfl rfl (parse_ppopc ty p d a)
theorem pfirst (ty : BitVec 4) (p : BitVec 4) (d : BitVec 5) (a : BitVec 4) : Statement (.pfirst ty p d a) := ofV rfl rfl rfl rfl (parse_pfirst ty p d a)
theorem vpclr (ty : BitVec 4) (p : BitVec 4) (d : BitVec 8) : Statement (.vpclr ty p d) := ofV rfl rfl rfl rfl (parse_vpclr ty p d)
theorem vptest (ty : BitVec 4) (p : BitVec 4) (d : BitVec 4) (a : BitVec 8) : Statement (.vptest ty p d a) := ofV rfl rfl rfl rfl (parse_vptest ty p d a)
theorem mnop : Statement (.mnop) := ofM rfl rfl rfl rfl (parse_mnop)
theorem vld (vr : BitVec 6) (w : BitVec 2) (sa : BitVec 5) (imm : BitVec 16) : Statement (.vld vr w sa imm) := ofM rfl rfl rfl rfl (parse_vld vr w sa imm)
theorem vst (vr : BitVec 6) (w : BitVec 2) (sa : BitVec 5) (imm : BitVec 16) (p : BitVec 4) (gr : BitVec 2) : Statement (.vst vr w sa imm p gr) := ofM rfl rfl rfl rfl (parse_vst vr w sa imm p gr)
theorem vgather (vr : BitVec 6) (sa : BitVec 5) (vb : BitVec 6) (p : BitVec 4) : Statement (.vgather vr sa vb p) := ofM rfl rfl rfl rfl (parse_vgather vr sa vb p)
theorem vscatter (vr : BitVec 6) (sa : BitVec 5) (vb : BitVec 6) (p : BitVec 4) : Statement (.vscatter vr sa vb p) := ofM rfl rfl rfl rfl (parse_vscatter vr sa vb p)
theorem vrmg (vd : BitVec 6) (va : BitVec 6) (p : BitVec 4) (i : BitVec 1) (imm : BitVec 10) (sb : BitVec 5) : Statement (.vrmg vd va p i imm sb) := ofM rfl rfl rfl rfl (parse_vrmg vd va p i imm sb)
theorem claim (slot : BitVec 5) (auto : BitVec 1) : Statement (.claim slot auto) := ofM rfl rfl rfl rfl (parse_claim slot auto)
theorem release (slot : BitVec 5) : Statement (.release slot) := ofM rfl rfl rfl rfl (parse_release slot)
theorem mtc (eng : BitVec 1) (set : BitVec 1) (vn : BitVec 6) (ovr : BitVec 1) : Statement (.mtc eng set vn ovr) := ofM rfl rfl rfl rfl (parse_mtc eng set vn ovr)
theorem accrd (vd : BitVec 6) (tile : BitVec 7) (row : BitVec 4) (sel : BitVec 2) : Statement (.accrd vd tile row sel) := ofM rfl rfl rfl rfl (parse_accrd vd tile row sel)
theorem enq (ring : BitVec 3) (vn : BitVec 6) (seg : BitVec 3) (cnt : BitVec 3) (rel : BitVec 1) (sc : BitVec 3) : Statement (.enq ring vn seg cnt rel sc) := ofM rfl rfl rfl rfl (parse_enq ring vn seg cnt rel sc)
theorem tlwait (tl : BitVec 3) (sa : BitVec 5) (sc : BitVec 5) (rmt : BitVec 1) (imm : BitVec 16) : Statement (.tlwait tl sa sc rmt imm) := ofM rfl rfl rfl rfl (parse_tlwait tl sa sc rmt imm)
theorem tladv (tl : BitVec 3) (cnt : BitVec 8) : Statement (.tladv tl cnt) := ofM rfl rfl rfl rfl (parse_tladv tl cnt)
theorem tagwaitAny (sa : BitVec 5) : Statement (.tagwaitAny sa) := ofM rfl rfl rfl rfl (parse_tagwaitAny sa)
theorem tagwaitAll (sa : BitVec 5) : Statement (.tagwaitAll sa) := ofM rfl rfl rfl rfl (parse_tagwaitAll sa)
theorem tagff (sa : BitVec 5) (sd : BitVec 5) : Statement (.tagff sa sd) := ofM rfl rfl rfl rfl (parse_tagff sa sd)
theorem tagclr (sa : BitVec 5) : Statement (.tagclr sa) := ofM rfl rfl rfl rfl (parse_tagclr sa)
theorem rvinit (rv : BitVec 5) (lev : BitVec 2) (reg : BitVec 5) : Statement (.rvinit rv lev reg) := ofM rfl rfl rfl rfl (parse_rvinit rv lev reg)
theorem arrive (rv : BitVec 5) (lev : BitVec 2) (reg : BitVec 5) : Statement (.arrive rv lev reg) := ofM rfl rfl rfl rfl (parse_arrive rv lev reg)
theorem rvwait (rv : BitVec 5) (lev : BitVec 2) (reg : BitVec 5) : Statement (.rvwait rv lev reg) := ofM rfl rfl rfl rfl (parse_rvwait rv lev reg)
theorem bufw (buf : BitVec 8) (sd : BitVec 5) : Statement (.bufw buf sd) := ofM rfl rfl rfl rfl (parse_bufw buf sd)
theorem bufp (buf : BitVec 8) : Statement (.bufp buf) := ofM rfl rfl rfl rfl (parse_bufp buf)
theorem bufr (buf : BitVec 8) (sd : BitVec 5) (sa : BitVec 5) : Statement (.bufr buf sd sa) := ofM rfl rfl rfl rfl (parse_bufr buf sd sa)
theorem bufx (buf : BitVec 8) (sa : BitVec 5) : Statement (.bufx buf sa) := ofM rfl rfl rfl rfl (parse_bufx buf sa)
theorem livemark (i : BitVec 1) (imm : BitVec 13) (sa : BitVec 5) : Statement (.livemark i imm sa) := ofM rfl rfl rfl rfl (parse_livemark i imm sa)
theorem cnop (ring : BitVec 3) (c : Cmd) : Statement (.cnop ring c) := ofC rfl rfl rfl rfl rfl (by decide)
    (fun hw => by
      have h : (decide (ring.toNat ≤ 5) && cmdOk (ring == 2) c) = true := hw
      have e : (ring.toNat == 2) = (ring == 2) := by rw [Bool.eq_iff_iff]; simp [← BitVec.toNat_inj]
      rw [e]; simpa using h)
    (by show Except.ok (Instr.cnop (BitVec.ofNat 3 ring.toNat) c) = _; simp)
theorem opld (c : Cmd) : Statement (.opld c) := ofC rfl rfl rfl rfl rfl (by decide) (fun hw => ⟨by decide, hw⟩) rfl
theorem mmgo (c : Cmd) : Statement (.mmgo c) := ofC rfl rfl rfl rfl rfl (by decide) (fun hw => ⟨by decide, hw⟩) rfl
theorem mmsl (c : Cmd) : Statement (.mmsl c) := ofC rfl rfl rfl rfl rfl (by decide) (fun hw => ⟨by decide, hw⟩) rfl
theorem accz (c : Cmd) : Statement (.accz c) := ofC rfl rfl rfl rfl rfl (by decide) (fun hw => ⟨by decide, hw⟩) rfl
theorem accst (c : Cmd) : Statement (.accst c) := ofC rfl rfl rfl rfl rfl (by decide) (fun hw => ⟨by decide, hw⟩) rfl
theorem accld (c : Cmd) : Statement (.accld c) := ofC rfl rfl rfl rfl rfl (by decide) (fun hw => ⟨by decide, hw⟩) rfl
theorem mdqfill (c : Cmd) : Statement (.mdqfill c) := ofC rfl rfl rfl rfl rfl (by decide) (fun hw => ⟨by decide, hw⟩) rfl
theorem skgo (c : Cmd) : Statement (.skgo c) := ofC rfl rfl rfl rfl rfl (by decide) (fun hw => ⟨by decide, hw⟩) rfl
theorem skscore (c : Cmd) : Statement (.skscore c) := ofC rfl rfl rfl rfl rfl (by decide) (fun hw => ⟨by decide, hw⟩) rfl
theorem cbtab (c : Cmd) : Statement (.cbtab c) := ofC rfl rfl rfl rfl rfl (by decide) (fun hw => ⟨by decide, hw⟩) rfl
theorem cpy (c : Cmd) : Statement (.cpy c) := ofC rfl rfl rfl rfl rfl (by decide) (fun hw => ⟨by decide, hw⟩) rfl
theorem cpyg (c : Cmd) : Statement (.cpyg c) := ofC rfl rfl rfl rfl rfl (by decide) (fun hw => ⟨by decide, hw⟩) rfl
theorem cpys (c : Cmd) : Statement (.cpys c) := ofC rfl rfl rfl rfl rfl (by decide) (fun hw => ⟨by decide, hw⟩) rfl
theorem cpyop (c : Cmd) : Statement (.cpyop c) := ofC rfl rfl rfl rfl rfl (by decide) (fun hw => ⟨by decide, hw⟩) rfl
theorem cpyfill (c : Cmd) : Statement (.cpyfill c) := ofC rfl rfl rfl rfl rfl (by decide) (fun hw => ⟨by decide, hw⟩) rfl
theorem nput (c : Cmd) : Statement (.nput c) := ofC rfl rfl rfl rfl rfl (by decide) (fun hw => ⟨by decide, hw⟩) rfl
theorem nget (c : Cmd) : Statement (.nget c) := ofC rfl rfl rfl rfl rfl (by decide) (fun hw => ⟨by decide, hw⟩) rfl
theorem nsig (c : Cmd) : Statement (.nsig c) := ofC rfl rfl rfl rfl rfl (by decide) (fun hw => ⟨by decide, hw⟩) rfl
theorem natom (c : Cmd) : Statement (.natom c) := ofC rfl rfl rfl rfl rfl (by decide) (fun hw => ⟨by decide, hw⟩) rfl
theorem ncoll (c : Cmd) : Statement (.ncoll c) := ofC rfl rfl rfl rfl rfl (by decide) (fun hw => ⟨by decide, hw⟩) rfl
theorem nxpert (c : Cmd) : Statement (.nxpert c) := ofC rfl rfl rfl rfl rfl (by decide) (fun hw => ⟨by decide, hw⟩) rfl
theorem nabort (c : Cmd) : Statement (.nabort c) := ofC rfl rfl rfl rfl rfl (by decide) (fun hw => ⟨by decide, hw⟩) rfl
theorem btalloc (c : Cmd) : Statement (.btalloc c) := ofC rfl rfl rfl rfl rfl (by decide) (fun hw => ⟨by decide, hw⟩) rfl
theorem btfree (c : Cmd) : Statement (.btfree c) := ofC rfl rfl rfl rfl rfl (by decide) (fun hw => ⟨by decide, hw⟩) rfl
theorem btshare (c : Cmd) : Statement (.btshare c) := ofC rfl rfl rfl rfl rfl (by decide) (fun hw => ⟨by decide, hw⟩) rfl
theorem btcow (c : Cmd) : Statement (.btcow c) := ofC rfl rfl rfl rfl rfl (by decide) (fun hw => ⟨by decide, hw⟩) rfl
theorem btwalk (c : Cmd) : Statement (.btwalk c) := ofC rfl rfl rfl rfl rfl (by decide) (fun hw => ⟨by decide, hw⟩) rfl
theorem btevict (c : Cmd) : Statement (.btevict c) := ofC rfl rfl rfl rfl rfl (by decide) (fun hw => ⟨by decide, hw⟩) rfl
theorem sumupd (c : Cmd) : Statement (.sumupd c) := ofC rfl rfl rfl rfl rfl (by decide) (fun hw => ⟨by decide, hw⟩) rfl
theorem ezopen (c : Cmd) : Statement (.ezopen c) := ofC rfl rfl rfl rfl rfl (by decide) (fun hw => ⟨by decide, hw⟩) rfl
theorem eztree (c : Cmd) : Statement (.eztree c) := ofC rfl rfl rfl rfl rfl (by decide) (fun hw => ⟨by decide, hw⟩) rfl
theorem ezcheck (c : Cmd) : Statement (.ezcheck c) := ofC rfl rfl rfl rfl rfl (by decide) (fun hw => ⟨by decide, hw⟩) rfl
theorem ezpark (c : Cmd) : Statement (.ezpark c) := ofC rfl rfl rfl rfl rfl (by decide) (fun hw => ⟨by decide, hw⟩) rfl
theorem ezresume (c : Cmd) : Statement (.ezresume c) := ofC rfl rfl rfl rfl rfl (by decide) (fun hw => ⟨by decide, hw⟩) rfl
theorem ezclose (c : Cmd) : Statement (.ezclose c) := ofC rfl rfl rfl rfl rfl (by decide) (fun hw => ⟨by decide, hw⟩) rfl
theorem eznext (c : Cmd) : Statement (.eznext c) := ofC rfl rfl rfl rfl rfl (by decide) (fun hw => ⟨by decide, hw⟩) rfl
theorem xrun (c : Cmd) : Statement (.xrun c) := ofC rfl rfl rfl rfl rfl (by decide) (fun hw => ⟨by decide, hw⟩) rfl
theorem xstop (c : Cmd) : Statement (.xstop c) := ofC rfl rfl rfl rfl rfl (by decide) (fun hw => ⟨by decide, hw⟩) rfl
theorem xnop (lane : BitVec 3) (w : XWords) : Statement (.xnop lane w) := ofX rfl rfl rfl rfl rfl (by decide) rfl
theorem xmov (lane : BitVec 3) (w : XWords) : Statement (.xmov lane w) := ofX rfl rfl rfl rfl rfl (by decide) rfl
theorem xmc (lane : BitVec 3) (w : XWords) : Statement (.xmc lane w) := ofX rfl rfl rfl rfl rfl (by decide) rfl
theorem xloop (lane : BitVec 3) (w : XWords) : Statement (.xloop lane w) := ofX rfl rfl rfl rfl rfl (by decide) rfl
theorem xwait (lane : BitVec 3) (w : XWords) : Statement (.xwait lane w) := ofX rfl rfl rfl rfl rfl (by decide) rfl
theorem xsig (lane : BitVec 3) (w : XWords) : Statement (.xsig lane w) := ofX rfl rfl rfl rfl rfl (by decide) rfl
theorem xphase (lane : BitVec 3) (w : XWords) : Statement (.xphase lane w) := ofX rfl rfl rfl rfl rfl (by decide) rfl
theorem xend (lane : BitVec 3) (w : XWords) : Statement (.xend lane w) := ofX rfl rfl rfl rfl rfl (by decide) rfl
theorem exposedResultLanding : Statement (.exposedResultLanding) := ofE rfl rfl rfl rfl rfl
theorem scalarWriteComplete : Statement (.scalarWriteComplete) := ofE rfl rfl rfl rfl rfl
theorem storeBufferDrain (n : BitVec 4) : Statement (.storeBufferDrain n) := ofE rfl rfl rfl rfl rfl
theorem instructionFetch : Statement (.instructionFetch) := ofE rfl rfl rfl rfl rfl
theorem trapEntry (cause : BitVec 8) (slot : BitVec 3) (code : BitVec 13) (tval : BitVec 64) : Statement (.trapEntry cause slot code tval) := ofE rfl rfl rfl rfl rfl
theorem asynchronousTrap : Statement (.asynchronousTrap) := ofE rfl rfl rfl rfl rfl
theorem rftReinstate : Statement (.rftReinstate) := ofE rfl rfl rfl rfl rfl
theorem engineEntryCompletion (ring : BitVec 3) (n : BitVec 3) : Statement (.engineEntryCompletion ring n) := ofE rfl rfl rfl rfl rfl
theorem ringStop (ring : BitVec 3) (n : BitVec 3) : Statement (.ringStop ring n) := ofE rfl rfl rfl rfl rfl
theorem nestStep (sk : Bool) : Statement (.nestStep sk) := ofE rfl rfl rfl rfl rfl
theorem pairStep : Statement (.pairStep) := ofE rfl rfl rfl rfl rfl
theorem slotFillComplete (slot : BitVec 5) : Statement (.slotFillComplete slot) := ofE rfl rfl rfl rfl rfl
theorem tokenRefill (col : BitVec 3) : Statement (.tokenRefill col) := ofE rfl rfl rfl rfl rfl
theorem tokenGrant (col : BitVec 3) : Statement (.tokenGrant col) := ofE rfl rfl rfl rfl rfl
theorem laneSwapComplete : Statement (.laneSwapComplete) := ofE rfl rfl rfl rfl rfl
theorem mclogRead : Statement (.mclogRead) := ofE rfl rfl rfl rfl rfl
theorem corectlResume (core : BitVec 7) : Statement (.corectlResume core) := ofE rfl rfl rfl rfl rfl
theorem corectlRetire (core : BitVec 7) : Statement (.corectlRetire core) := ofE rfl rfl rfl rfl rfl
theorem corectlLmap (core : BitVec 7) (lmap : BitVec 16) : Statement (.corectlLmap core lmap) := ofE rfl rfl rfl rfl rfl
theorem mgmtRegisterWrite (off : BitVec 32) (v : BitVec 64) : Statement (.mgmtRegisterWrite off v) := ofE rfl rfl rfl rfl rfl
theorem tlbinv (v : BitVec 64) : Statement (.tlbinv v) := ofE rfl rfl rfl rfl rfl
theorem tlbinvDone : Statement (.tlbinvDone) := ofE rfl rfl rfl rfl rfl
theorem pageWalk (slot : BitVec 3) (va : BitVec 64) : Statement (.pageWalk slot va) := ofE rfl rfl rfl rfl rfl
theorem keyLoad (h : BitVec 10) (key1 : BitVec 256) (key2 : BitVec 256) (lid : BitVec 64) (base : BitVec 64) (holders : BitVec 8) : Statement (.keyLoad h key1 key2 lid base holders) := ofE rfl rfl rfl rfl rfl
theorem keyUnload (h : BitVec 10) : Statement (.keyUnload h) := ofE rfl rfl rfl rfl rfl
theorem bankAllocate (stack : BitVec 3) (ctx : BitVec 4) (set : Nat) (count : Nat) : Statement (.bankAllocate stack ctx set count) := ofE rfl rfl rfl rfl rfl
theorem bankFree (bank : BitVec 15) : Statement (.bankFree bank) := ofE rfl rfl rfl rfl rfl
theorem scrubComplete (bank : BitVec 15) : Statement (.scrubComplete bank) := ofE rfl rfl rfl rfl rfl
theorem bankIdleTimeout (bank : BitVec 15) : Statement (.bankIdleTimeout bank) := ofE rfl rfl rfl rfl rfl
theorem retainEntry (bank : BitVec 15) : Statement (.retainEntry bank) := ofE rfl rfl rfl rfl rfl
theorem deepEntry (bank : BitVec 15) : Statement (.deepEntry bank) := ofE rfl rfl rfl rfl rfl
theorem bankWake (bank : BitVec 15) : Statement (.bankWake bank) := ofE rfl rfl rfl rfl rfl
theorem bankWakeComplete (bank : BitVec 15) : Statement (.bankWakeComplete bank) := ofE rfl rfl rfl rfl rfl
theorem phaseLevelDue (slot : BitVec 3) (set : BitVec 4) : Statement (.phaseLevelDue slot set) := ofE rfl rfl rfl rfl rfl
theorem refresh (bank : BitVec 15) : Statement (.refresh bank) := ofE rfl rfl rfl rfl rfl
theorem temperatureSample (bank : BitVec 15) (degrees : Int) : Statement (.temperatureSample bank degrees) := ofE rfl rfl rfl rfl rfl
theorem reflossUpdate (col : BitVec 3) : Statement (.reflossUpdate col) := ofE rfl rfl rfl rfl rfl
theorem repairCommit (stack : BitVec 3) : Statement (.repairCommit stack) := ofE rfl rfl rfl rfl rfl
theorem repairCommitDone (stack : BitVec 3) : Statement (.repairCommitDone stack) := ofE rfl rfl rfl rfl rfl
theorem coldReset (rec : Option BoardRecord) : Statement (.coldReset rec) := ofE rfl rfl rfl rfl rfl
theorem warmReset : Statement (.warmReset) := ofE rfl rfl rfl rfl rfl
theorem powerLimitAdjust (col : BitVec 3) (watts : Nat) : Statement (.powerLimitAdjust col watts) := ofE rfl rfl rfl rfl rfl
theorem thermalAlarm (col : BitVec 3) (tj : Int) : Statement (.thermalAlarm col tj) := ofE rfl rfl rfl rfl rfl
theorem droopStretch (col : BitVec 3) : Statement (.droopStretch col) := ofE rfl rfl rfl rfl rfl
theorem droopRecover (col : BitVec 3) : Statement (.droopRecover col) := ofE rfl rfl rfl rfl rfl
theorem contextResident (slot : BitVec 3) (rec : BitVec 512) (stores : List (List Word)) (transport : BitVec 3) : Statement (.contextResident slot rec stores transport) := ofE rfl rfl rfl rfl rfl
theorem contextRemove (slot : BitVec 3) : Statement (.contextRemove slot) := ofE rfl rfl rfl rfl rfl
theorem launchRequest (slot : BitVec 3) (addr : BitVec 64) : Statement (.launchRequest slot addr) := ofE rfl rfl rfl rfl rfl
theorem launch (part : BitVec 3) : Statement (.launch part) := ofE rfl rfl rfl rfl rfl
theorem quantumExpiry (part : BitVec 3) : Statement (.quantumExpiry part) := ofE rfl rfl rfl rfl rfl
theorem gswctlWrite (v : BitVec 64) : Statement (.gswctlWrite v) := ofE rfl rfl rfl rfl rfl
theorem gangSwitchFire : Statement (.gangSwitchFire) := ofE rfl rfl rfl rfl rfl
theorem preemption (part : BitVec 3) : Statement (.preemption part) := ofE rfl rfl rfl rfl rfl
theorem preemptRequest (part : BitVec 3) : Statement (.preemptRequest part) := ofE rfl rfl rfl rfl rfl
theorem contextSave (part : BitVec 3) : Statement (.contextSave part) := ofE rfl rfl rfl rfl rfl
theorem contextRestore (part : BitVec 3) : Statement (.contextRestore part) := ofE rfl rfl rfl rfl rfl
theorem kill (slot : BitVec 3) : Statement (.kill slot) := ofE rfl rfl rfl rfl rfl
theorem requantiseBlock (slot : BitVec 3) (col : BitVec 3) : Statement (.requantiseBlock slot col) := ofE rfl rfl rfl rfl rfl
theorem epochFlip (slot : BitVec 3) (col : BitVec 3) : Statement (.epochFlip slot col) := ofE rfl rfl rfl rfl rfl
theorem drainingFree (slot : BitVec 3) (col : BitVec 3) : Statement (.drainingFree slot col) := ofE rfl rfl rfl rfl rfl
theorem flitReceive (port : BitVec 3) (flit : BitVec 2048) : Statement (.flitReceive port flit) := ofE rfl rfl rfl rfl rfl
theorem linkIdleTimeout (port : BitVec 3) : Statement (.linkIdleTimeout port) := ofE rfl rfl rfl rfl rfl
theorem linkRetrainDone (port : BitVec 3) (ok : Bool) : Statement (.linkRetrainDone port ok) := ofE rfl rfl rfl rfl rfl
theorem readPacket (pkt : Packet) : Statement (.readPacket pkt) := ofE rfl rfl rfl rfl rfl
theorem writePacket (pkt : Packet) : Statement (.writePacket pkt) := ofE rfl rfl rfl rfl rfl
theorem atomicPacket (pkt : Packet) : Statement (.atomicPacket pkt) := ofE rfl rfl rfl rfl rfl
theorem signalPacket (pkt : Packet) : Statement (.signalPacket pkt) := ofE rfl rfl rfl rfl rfl
theorem collectiveTransferPacket (pkt : Packet) : Statement (.collectiveTransferPacket pkt) := ofE rfl rfl rfl rfl rfl
theorem stopPacket (pkt : Packet) : Statement (.stopPacket pkt) := ofE rfl rfl rfl rfl rfl
theorem abortPacket (pkt : Packet) : Statement (.abortPacket pkt) := ofE rfl rfl rfl rfl rfl
theorem responsePacket (pkt : Packet) : Statement (.responsePacket pkt) := ofE rfl rfl rfl rfl rfl
theorem retryPacket (pkt : Packet) : Statement (.retryPacket pkt) := ofE rfl rfl rfl rfl rfl
theorem retryResend : Statement (.retryResend) := ofE rfl rfl rfl rfl rfl
theorem stopReplyTimeout : Statement (.stopReplyTimeout) := ofE rfl rfl rfl rfl rfl
theorem loopWalkerTransfer : Statement (.loopWalkerTransfer) := ofE rfl rfl rfl rfl rfl
theorem datagramReceive (flow : Nat) (seq : BitVec 32) (ack : BitVec 32) (tag : BitVec 128) (pkt : Packet) : Statement (.datagramReceive flow seq ack tag pkt) := ofE rfl rfl rfl rfl rfl
theorem datagramResend (flow : Nat) : Statement (.datagramResend flow) := ofE rfl rfl rfl rfl rfl
theorem retainEntryComplete (bank : BitVec 15) : Statement (.retainEntryComplete bank) := ofE rfl rfl rfl rfl rfl
theorem laneTransferComplete (lane : BitVec 3) (n : BitVec 4) : Statement (.laneTransferComplete lane n) := ofE rfl rfl rfl rfl rfl
theorem preemptAbandonDeadline (part : BitVec 3) : Statement (.preemptAbandonDeadline part) := ofE rfl rfl rfl rfl rfl
theorem tjFallsBelow110 (col : BitVec 3) (tj : Int) : Statement (.tjFallsBelow110 col tj) := ofE rfl rfl rfl rfl rfl
theorem gtimeAlignmentLoss (ieee : Bool) : Statement (.gtimeAlignmentLoss ieee) := ofE rfl rfl rfl rfl rfl
theorem ideEstablishment (link : BitVec 2) : Statement (.ideEstablishment link) := ofE rfl rfl rfl rfl rfl

end Sys2Proof.Laws.RoundTrip
end

