-- ==== Sys2Proof/Safety.lean ====
section
/-! DEFINITION. What counts as a well-kept state and a safe run, in the terms that claims use. -/
namespace Sys2Proof.Machine

/-- Memory is in its canonical form. -/
def MemOk (s : State) : Prop := Memory.wf s.mem = true

/-- A run of `n` steps from `s` ends in a next state: no step stops with a fault or a refusal. -/
def RunsOn (n : Nat) (s : State) : Prop := ∃ t, Sys2Proof.core.run n s = .next t

/-- The focused core's thread will issue the bundle at its pc in the next step: nothing else is on the agenda, the core runs, no
asynchronous trap waits, and the bundle is fetched and decodes to `b` with bits `w`. -/
def Fetches (s : State) (w : Nat) (b : BundleI) : Prop :=
  s.agenda = [] ∧ running s = true ∧ asyncPending s = none ∧ fetchBundle s = .ok w ∧ decodeBundle w = .ok b

end Sys2Proof.Machine
end

