-- ==== Sys2Proof/Certificates/Slice0/Obligations.lean ====
section
/-! DEFINITION. The statements for the provers. Each `Obligations.<Name>` is one; those of one subject stand together, and their
parts, with the words that they share, are in `Sys2Proof.Claims`. -/
namespace Sys2Proof.Claims
open Sys2Proof.Machine

/-- The thread may issue, and no scalar register of the list has a write pending (R52). -/
def Free (s : State) (l : List (BitVec 5)) : Prop := running s = true ∧ l.any (pending s.core) = false

/-- None of the vector and predicate registers named, by logical number, has a slice with wrong parity (R91). -/
def Sound (s : State) (vr pr : List Nat) : Prop :=
  parityHit s.core { uses := [], vreads := vr, preads := pr, eff := fun _ t => .done t none } = none

/-- What an instruction that writes one scalar register leaves: its bundle has retired (R51), and the register has its value,
on which a later bundle waits `lat` cycles (R53, R55). -/
def wroteS (s : State) (idle : BitVec 3) (lat : Nat) (d : BitVec 5) (v : Word) : Host.Outcome State Fault Refusal :=
  .next (retire idle.toNat none (withCore (atIssue s) (wrSL (atIssue s).core lat d v)))

/-- What an instruction without a result of its own leaves: `t`, and its bundle has retired (R51). -/
def retired (idle : BitVec 3) (t : State) : Host.Outcome State Fault Refusal := .next (retire idle.toNat none t)

/-- A control transfer that is taken when `c` holds (R51, R69). -/
def jumps (idle : BitVec 3) (t : State) (c : Bool) (target : Word) : Host.Outcome State Fault Refusal :=
  .next (retire idle.toNat (if c then some target else none) t)

/-- What a V or M instruction leaves whose effect is `t`: its bundle has retired, with no idle cycles. -/
def done (t : State) : Host.Outcome State Fault Refusal := .next (retire 0 none t)

end Sys2Proof.Claims

open Sys2Proof Sys2Proof.Machine Sys2Proof.Claims

/-- R65: the register group. Each instruction whose registers are free retires with the result that R65's table gives; the
latency is that of R55. DIV, REM, DIVU and REMU are stated as quotient and remainder in `DivisionResults`. -/
def Sys2Proof.Claims.RegisterGroupResults : Prop :=
  ∀ (s : State) (idle : BitVec 3) (d a b : BitVec 5), Free s [d, a, b] →
    let x := rdS s.core a
    let y := rdS s.core b
    exec (.add idle d a b) s = wroteS s idle 1 d (x + y) ∧
    exec (.sub idle d a b) s = wroteS s idle 1 d (x - y) ∧
    exec (.and idle d a b) s = wroteS s idle 1 d (x &&& y) ∧
    exec (.or idle d a b) s = wroteS s idle 1 d (x ||| y) ∧
    exec (.xor idle d a b) s = wroteS s idle 1 d (x ^^^ y) ∧
    exec (.andn idle d a b) s = wroteS s idle 1 d (x &&& ~~~y) ∧
    exec (.shl idle d a b) s = wroteS s idle 1 d (BitVec.ofNat 64 (x.toNat * 2 ^ (y.toNat % 64))) ∧
    exec (.shr idle d a b) s = wroteS s idle 1 d (BitVec.ofNat 64 (x.toNat / 2 ^ (y.toNat % 64))) ∧
    exec (.sra idle d a b) s = wroteS s idle 1 d (BitVec.ofInt 64 (x.toInt / (2 ^ (y.toNat % 64) : Nat))) ∧
    exec (.min idle d a b) s = wroteS s idle 1 d (BitVec.ofInt 64 (min x.toInt y.toInt)) ∧
    exec (.max idle d a b) s = wroteS s idle 1 d (BitVec.ofInt 64 (max x.toInt y.toInt)) ∧
    exec (.minu idle d a b) s = wroteS s idle 1 d (BitVec.ofNat 64 (min x.toNat y.toNat)) ∧
    exec (.maxu idle d a b) s = wroteS s idle 1 d (BitVec.ofNat 64 (max x.toNat y.toNat)) ∧
    exec (.seq idle d a b) s = wroteS s idle 1 d (if x = y then 1 else 0) ∧
    exec (.sne idle d a b) s = wroteS s idle 1 d (if x = y then 0 else 1) ∧
    exec (.slt idle d a b) s = wroteS s idle 1 d (if x.toInt < y.toInt then 1 else 0) ∧
    exec (.sle idle d a b) s = wroteS s idle 1 d (if x.toInt ≤ y.toInt then 1 else 0) ∧
    exec (.sltu idle d a b) s = wroteS s idle 1 d (if x.toNat < y.toNat then 1 else 0) ∧
    exec (.sleu idle d a b) s = wroteS s idle 1 d (if x.toNat ≤ y.toNat then 1 else 0) ∧
    exec (.mul idle d a b) s = wroteS s idle 3 d (BitVec.ofNat 64 (x.toNat * y.toNat)) ∧
    exec (.mulh idle d a b) s = wroteS s idle 3 d (BitVec.ofInt 64 (x.toInt * y.toInt / 2 ^ 64)) ∧
    exec (.mulhu idle d a b) s = wroteS s idle 3 d (BitVec.ofNat 64 (x.toNat * y.toNat / 2 ^ 64))

/-- R65: DIV, REM, DIVU and REMU retire with a quotient and a remainder of their operands. Division by zero gives −1, or
2^64 − 1, and the dividend; −2^63 by −1 gives −2^63 and 0; every other signed division rounds towards zero. -/
def Sys2Proof.Claims.DivisionResults : Prop :=
  ∀ (s : State) (idle : BitVec 3) (d a b : BitVec 5), Free s [d, a, b] →
    let x := rdS s.core a
    let y := rdS s.core b
    ∃ q r qu ru : Word,
      exec (.div idle d a b) s = wroteS s idle 20 d q ∧ exec (.rem idle d a b) s = wroteS s idle 20 d r ∧
      exec (.divu idle d a b) s = wroteS s idle 20 d qu ∧ exec (.remu idle d a b) s = wroteS s idle 20 d ru ∧
      (y = 0 → q = BitVec.allOnes 64 ∧ r = x ∧ qu = BitVec.allOnes 64 ∧ ru = x) ∧
      (y ≠ 0 → x.toNat = qu.toNat * y.toNat + ru.toNat ∧ ru.toNat < y.toNat) ∧
      (x.toInt = -2 ^ 63 → y.toInt = -1 → q.toInt = -2 ^ 63 ∧ r = 0) ∧
      (y ≠ 0 → ¬(x.toInt = -2 ^ 63 ∧ y.toInt = -1) →
        x.toInt = q.toInt * y.toInt + r.toInt ∧ r.toInt.natAbs < y.toInt.natAbs ∧ (0 ≤ x.toInt → 0 ≤ r.toInt) ∧
          (x.toInt ≤ 0 → r.toInt ≤ 0))

/-- R65: CLZ, CTZ and POPC retire with the counts that their names say, 64 for a zero operand of CLZ and CTZ. -/
def Sys2Proof.Claims.BitCounts : Prop :=
  ∀ (s : State) (idle : BitVec 3) (d a : BitVec 5), Free s [d, a] →
    let x := rdS s.core a
    ∃ lead trail : Nat,
      exec (.clz idle d a) s = wroteS s idle 1 d (BitVec.ofNat 64 lead) ∧
      exec (.ctz idle d a) s = wroteS s idle 1 d (BitVec.ofNat 64 trail) ∧
      exec (.popc idle d a) s = wroteS s idle 1 d (BitVec.ofNat 64 ((List.range 64).filter fun i => x.getLsbD i).length) ∧
      (x = 0 → lead = 64 ∧ trail = 64) ∧
      (x ≠ 0 → lead < 64 ∧ trail < 64 ∧ x.getLsbD (63 - lead) = true ∧ (∀ i, 63 - lead < i → x.getLsbD i = false) ∧
        x.getLsbD trail = true ∧ ∀ i, i < trail → x.getLsbD i = false)

/-- R66: the immediate forms, with i the sign-extended IMM13. -/
def Sys2Proof.Claims.ImmediateResults : Prop :=
  ∀ (s : State) (idle : BitVec 3) (d a : BitVec 5) (imm : BitVec 13) (cnt : BitVec 6), Free s [d, a] →
    let x := rdS s.core a
    let i := imm.signExtend 64
    exec (.addi idle d a imm) s = wroteS s idle 1 d (x + i) ∧
    exec (.andi idle d a imm) s = wroteS s idle 1 d (x &&& i) ∧
    exec (.ori idle d a imm) s = wroteS s idle 1 d (x ||| i) ∧
    exec (.xori idle d a imm) s = wroteS s idle 1 d (x ^^^ i) ∧
    exec (.shli idle d a cnt) s = wroteS s idle 1 d (BitVec.ofNat 64 (x.toNat * 2 ^ cnt.toNat)) ∧
    exec (.shri idle d a cnt) s = wroteS s idle 1 d (BitVec.ofNat 64 (x.toNat / 2 ^ cnt.toNat)) ∧
    exec (.srai idle d a cnt) s = wroteS s idle 1 d (BitVec.ofInt 64 (x.toInt / (2 ^ cnt.toNat : Nat))) ∧
    exec (.slti idle d a imm) s = wroteS s idle 1 d (if x.toInt < imm.toInt then 1 else 0) ∧
    exec (.sltiu idle d a imm) s = wroteS s idle 1 d (if x.toNat < i.toNat then 1 else 0) ∧
    exec (.seqi idle d a imm) s = wroteS s idle 1 d (if x = i then 1 else 0) ∧
    exec (.muli idle d a imm) s = wroteS s idle 3 d (BitVec.ofNat 64 (x.toNat * i.toNat))

/-- R67, with w the width and p the position: EXTU, EXTS and INS, bit by bit. INS reads its destination too. Also R68: LIH and
LIPC, with R47's effects. -/
def Sys2Proof.Claims.BitFieldsAndConstants : Prop :=
  ∀ (s : State) (idle : BitVec 3) (d a : BitVec 5) (wm p : BitVec 6) (imm : BitVec 18),
    Free s [d, a] → p.toNat + wm.toNat ≤ 63 →
    let x := rdS s.core a
    let w := wm.toNat + 1
    ∃ u e n : Word,
      exec (.extu idle d a wm p) s = wroteS s idle 1 d u ∧ exec (.exts idle d a wm p) s = wroteS s idle 1 d e ∧
      exec (.ins idle d a wm p) s = wroteS s idle 1 d n ∧
      (∀ i, i < 64 → u.getLsbD i = (decide (i < w) && x.getLsbD (p.toNat + i))) ∧
      (∀ i, i < 64 → e.getLsbD i = x.getLsbD (p.toNat + min i wm.toNat)) ∧
      (∀ i, i < 64 → n.getLsbD i =
        if p.toNat ≤ i ∧ i < p.toNat + w then x.getLsbD (i - p.toNat) else (rdS s.core d).getLsbD i) ∧
      exec (.lih idle d imm) s = wroteS s idle 1 d (imm.signExtend 64 * 8192) ∧
      exec (.lipc idle d imm) s = wroteS s idle 1 d ((s.core.pc &&& ~~~(8191 : Word)) + imm.signExtend 64 * 8192)

/-- R69: branches, with their targets. A bundle with a taken transfer retires to the target (and idles two cycles, R51),
any other to the next bundle; CALL writes S31. -/
def Sys2Proof.Claims.BranchResults : Prop :=
  ∀ (s : State) (idle : BitVec 3) (a : BitVec 5) (off : BitVec 18), Free s [a, 31] →
    let x := rdS s.core a
    let l := atIssue s
    let target := s.core.pc + 16 * off.signExtend 64
    exec (.nop idle) s = retired idle l ∧
    exec (.beqz idle a off) s = jumps idle l (x == 0) target ∧
    exec (.bnez idle a off) s = jumps idle l (x != 0) target ∧
    exec (.bltz idle a off) s = jumps idle l (decide (x.toInt < 0)) target ∧
    exec (.bgez idle a off) s = jumps idle l (decide (0 ≤ x.toInt)) target ∧
    exec (.br idle off) s = jumps idle l true target ∧
    exec (.call idle off) s = jumps idle (withCore l (wrSL l.core 1 31 (s.core.pc + 16))) true target

/-- R69: JR and CALLR go to the value that their register held before the link is written, or raise ILLEGAL with TVAL that value,
and no slot takes effect, when it is no multiple of 16. -/
def Sys2Proof.Claims.RegisterJumps : Prop :=
  ∀ (s : State) (idle : BitVec 3) (d a : BitVec 5), Free s [d, a] →
    let x := rdS s.core a
    let l := atIssue s
    (x.toNat % 16 = 0 →
      exec (.jr idle a) s = jumps idle l true x ∧
      exec (.callr idle d a) s = jumps idle (withCore l (wrSL l.core 1 d (s.core.pc + 16))) true x) ∧
    (x.toNat % 16 ≠ 0 →
      exec (.jr idle a) s = .next (takeTrap (mkTrap 1 1 x) s.core.pc s.core.ticks l) ∧
      exec (.callr idle d a) s = .next (takeTrap (mkTrap 1 1 x) s.core.pc s.core.ticks l))

/-- R70: LOOP, as its rule gives it: Sa counts down; while it is not zero after that, the bases rotate back by one and the bundle goes to pc + 16·off. The bases
are those of the next bundle. A bundle whose LOOP names S0 is ILLEGAL. -/
def Obligations.LoopResults : Prop :=
  ∀ (s : State) (idle : BitVec 3) (a : BitVec 5) (off : BitVec 18),
    (Free s [a] → a ≠ 0 →
      let n := rdS s.core a - 1
      let l := atIssue s
      let target := s.core.pc + 16 * off.signExtend 64
      (n = 0 → exec (.loop idle a off) s = retired idle (withCore l (wrSL l.core 1 a n))) ∧
      (n ≠ 0 → exec (.loop idle a off) s =
        jumps idle (withCore l { wrSL l.core 1 a n with vrb := s.core.vrb - 1, prb := s.core.prb - 1 }) true target)) ∧
    (∀ w, decodeS w ≠ .ok (.loop idle 0 off)) ∧
    (let w := off.toNat + 26 * 2 ^ 23 + idle.toNat * 2 ^ 29
     ∃ e, decodeS w = .error e ∧ e.isEmulate = false ∧ ∀ v, decodeBundle (w + 2 ^ 32 * v) = .error (1, e)) ∧
    decodeS 0x0D0FFFFC = .ok (.loop 0 3 0x3FFFC)

namespace Sys2Proof.Claims
open Sys2Proof.Machine

/-- An access of `n` bytes at `ea` by the thread of `s` passes the checks of R280 and R286 and uses the page `lf`; `slot` is the
context's. -/
def Reaches (s : State) (ea : Word) (u : Use) (slot : Nat) (lf : Leaf) : Prop :=
  bits ea.toNat 63 56 ≠ 255 ∧ curSlot s = some slot ∧ translate s slot ea.toNat u = .ok lf

/-- The translation of that access faults with the code. -/
def Denies (s : State) (ea : Word) (u : Use) (code : Nat) : Prop :=
  bits ea.toNat 63 56 ≠ 255 ∧ ∃ slot, curSlot s = some slot ∧ translate s slot ea.toNat u = .error code

/-- A load at `ea`, an acquire where `acq`, finds its bytes in memory: the page is readable, no buffered store is concerned (R303), and
the sectors are correct (R396). -/
def LoadsAt (acq : Bool) (s : State) (ea : Word) (n slot : Nat) (lf : Leaf) : Prop :=
  Reaches s ea .read slot lf ∧ forward acq s.core lf (physOf lf ea.toNat) n = .memory ∧ sectorsOk s (physOf lf ea.toNat) n = true

/-- A load at `ea` is forwarded: the page is readable, and the store buffer gives it the bytes `v` (R303). -/
def ForwardsAt (acq : Bool) (s : State) (ea : Word) (n slot : Nat) (lf : Leaf) (v : Nat) : Prop :=
  Reaches s ea .read slot lf ∧ forward acq s.core lf (physOf lf ea.toNat) n = .value v

/-- What a scalar load from memory leaves (R55, R71): the value in `d` after the cycles of R55 (log 7), and the banks of its walk
and of its bytes reached (R264). -/
def loaded (s : State) (idle : BitVec 3) (d : BitVec 5) (ea : Word) (n slot : Nat) (lf : Leaf) (sg : Bool) :
    Host.Outcome State Fault Refusal :=
  let l := atIssue s
  let pa := physOf lf ea.toNat
  let t := { touch l slot ea.toNat pa with freeCtr := l.freeCtr + 1 }
  retired idle (withCore t (wrSL t.core (memLat l pa) d (extLoad n sg (loadNum l lf.tol ea.toNat pa n))))

/-- What a forwarded load leaves (R55, R303): the value in `d` after 12 cycles. -/
def forwarded (s : State) (idle : BitVec 3) (d : BitVec 5) (ea : Word) (n slot : Nat) (v : Nat) (sg : Bool) :
    Host.Outcome State Fault Refusal :=
  let t := touchWalk (atIssue s) slot ea.toNat
  retired idle (withCore t (wrSL t.core 12 d (extLoad n sg v)))

/-- The store of the low `n` bytes of `v` at `ea`, on the page `lf`. -/
def storeOf (ea : Word) (n : Nat) (lf : Leaf) (v : Word) : StoreEntry :=
  { va := ea.toNat, pa := physOf lf ea.toNat, size := n, data := v.toNat % 2 ^ (8 * n), kind := lf.kind, tol := lf.tol, lg := lf.lg }

/-- What a scalar store leaves (R71, R303): the store stands in the buffer, youngest. -/
def stored (s : State) (idle : BitVec 3) (ea : Word) (n slot : Nat) (lf : Leaf) (d : BitVec 5) :
    Host.Outcome State Fault Refusal :=
  let l := touchWalk (atIssue s) slot ea.toNat
  retired idle (withCore l { l.core with sb := l.core.sb ++ [storeOf ea n lf (rdS s.core d)] })

/-- A buffered store must wait: a link of its route to the memory retrains, or, for memory of another package that is no doorbell
frame, the destination context is away (R352, R357). -/
def Away (s : State) (slot : Nat) (e : StoreEntry) : Prop :=
  let p := paPkg e.pa
  reachable s p = true ∧ (retrains s p = true ∨ (destSlot s slot p = none ∧ e.pa / 65536 * 65536 ∉ doorFrames s))

/-- The bytes of two states read alike at every address that `f` does not hold of. -/
def SameBytes (s t : State) (f : Nat → Prop) : Prop := ∀ a, ¬f a → Memory.read t.mem a = Memory.read s.mem a

end Sys2Proof.Claims

/-- R71, R72, R305: loads from memory. The address is a + imm, or a + b, with its low bits ignored; the value is the number that
the bytes at that address spell, extended as the mnemonic says; where the store buffer forwards them, those (R303), after 12
cycles. LDC does the same when the constant path does not hold the value, and then holds it; what it holds it returns in three cycles (R305;
its choice among the values that R305 allows is the model's, log 25). -/
def Sys2Proof.Claims.LoadsFromMemory : Prop :=
  ∀ (s : State) (idle : BitVec 3) (d a b : BitVec 5) (imm : BitVec 13) (sz : BitVec 2) (u ord : BitVec 1) (sc : BitVec 3)
    (slot : Nat) (lf : Leaf), Free s [d, a, b] →
    let l := atIssue s
    let at_ := fun (n : Nat) => alignDown (rdS s.core a + imm.signExtend 64) n
    let ix := alignDown (rdS s.core a + rdS s.core b) (2 ^ sz.toNat)
    (LoadsAt false l (at_ 1) 1 slot lf → exec (.ldb idle d a imm) s = loaded s idle d (at_ 1) 1 slot lf true ∧
      exec (.ldbu idle d a imm) s = loaded s idle d (at_ 1) 1 slot lf false) ∧
    (LoadsAt false l (at_ 2) 2 slot lf → exec (.ldh idle d a imm) s = loaded s idle d (at_ 2) 2 slot lf true ∧
      exec (.ldhu idle d a imm) s = loaded s idle d (at_ 2) 2 slot lf false) ∧
    (LoadsAt false l (at_ 4) 4 slot lf → exec (.ldw idle d a imm) s = loaded s idle d (at_ 4) 4 slot lf true ∧
      exec (.ldwu idle d a imm) s = loaded s idle d (at_ 4) 4 slot lf false) ∧
    (LoadsAt false l (at_ 8) 8 slot lf → exec (.ldd idle d a imm) s = loaded s idle d (at_ 8) 8 slot lf false) ∧
    (LoadsAt (ord == 1) l ix (2 ^ sz.toNat) slot lf → exec (.lda idle d a b sz u ord sc) s =
      loaded s idle d ix (2 ^ sz.toNat) slot lf (decide (u = 0 ∧ sz ≠ 3))) ∧
    (∀ v, ForwardsAt false l (at_ 1) 1 slot lf v → exec (.ldb idle d a imm) s = forwarded s idle d (at_ 1) 1 slot v true ∧
      exec (.ldbu idle d a imm) s = forwarded s idle d (at_ 1) 1 slot v false) ∧
    (∀ v, ForwardsAt false l (at_ 2) 2 slot lf v → exec (.ldh idle d a imm) s = forwarded s idle d (at_ 2) 2 slot v true ∧
      exec (.ldhu idle d a imm) s = forwarded s idle d (at_ 2) 2 slot v false) ∧
    (∀ v, ForwardsAt false l (at_ 4) 4 slot lf v → exec (.ldw idle d a imm) s = forwarded s idle d (at_ 4) 4 slot v true ∧
      exec (.ldwu idle d a imm) s = forwarded s idle d (at_ 4) 4 slot v false) ∧
    (∀ v, ForwardsAt false l (at_ 8) 8 slot lf v → exec (.ldd idle d a imm) s = forwarded s idle d (at_ 8) 8 slot v false) ∧
    (∀ v, ForwardsAt (ord == 1) l ix (2 ^ sz.toNat) slot lf v → exec (.lda idle d a b sz u ord sc) s =
      forwarded s idle d ix (2 ^ sz.toNat) slot v (decide (u = 0 ∧ sz ≠ 3))) ∧
    (∀ v, Reaches l (at_ 8) .read slot lf → Sparse.get none s.core.cpath (cpathKey lf (at_ 8)) = some v →
      let w := touchWalk l slot (at_ 8).toNat
      exec (.ldc idle d a imm) s = retired idle (withCore w (wrSL w.core 3 d v))) ∧
    (LoadsAt false l (at_ 8) 8 slot lf → Sparse.get none s.core.cpath (cpathKey lf (at_ 8)) = none →
      ∃ t, exec (.ldc idle d a imm) s = .next t ∧
        (d ≠ 0 → rdS t.core d = .ofNat 64 (loadNum l lf.tol (at_ 8).toNat (physOf lf (at_ 8).toNat) 8)) ∧
        Sparse.get none t.core.cpath (cpathKey lf (at_ 8)) =
          some (.ofNat 64 (loadNum l lf.tol (at_ 8).toNat (physOf lf (at_ 8).toNat) 8)) ∧ t.mem = s.mem)

/-- R61, R71: loads and stores of control memory, offset `off` of the core-local window, byte by byte, in program order and without
the store buffer. -/
def Sys2Proof.Claims.ControlMemoryAccesses : Prop :=
  ∀ (s : State) (idle : BitVec 3) (d a : BitVec 5) (imm : BitVec 13), Free s [d, a] →
    let l := atIssue s
    let ea := fun (n : Nat) => alignDown (rdS s.core a + imm.signExtend 64) n
    let off := fun (n : Nat) => bits (ea n).toNat 55 0
    let val := fun (n : Nat) => ofBytes ((List.range n).map fun i => Sparse.get 0 s.core.cmem (off n + i))
    let In := fun (n : Nat) => bits (ea n).toNat 63 56 = 255 ∧ off n < 0x20000
    let put := fun (n : Nat) (o : Host.Outcome State Fault Refusal) => ∃ t, o = .next t ∧
      t = retire idle.toNat none (withCore l { l.core with cmem := t.core.cmem }) ∧
      ∀ k, Sparse.get 0 t.core.cmem k =
        if off n ≤ k ∧ k < off n + n then BitVec.ofNat 8 ((rdS s.core d).toNat / 2 ^ (8 * (k - off n))) else Sparse.get 0 s.core.cmem k
    (In 1 → exec (.ldb idle d a imm) s = wroteS s idle 3 d (extLoad 1 true (val 1)) ∧
      exec (.ldbu idle d a imm) s = wroteS s idle 3 d (extLoad 1 false (val 1)) ∧ put 1 (exec (.stb idle d a imm) s)) ∧
    (In 2 → exec (.ldh idle d a imm) s = wroteS s idle 3 d (extLoad 2 true (val 2)) ∧
      exec (.ldhu idle d a imm) s = wroteS s idle 3 d (extLoad 2 false (val 2)) ∧ put 2 (exec (.sth idle d a imm) s)) ∧
    (In 4 → exec (.ldw idle d a imm) s = wroteS s idle 3 d (extLoad 4 true (val 4)) ∧
      exec (.ldwu idle d a imm) s = wroteS s idle 3 d (extLoad 4 false (val 4)) ∧ put 4 (exec (.stw idle d a imm) s)) ∧
    (In 8 → exec (.ldd idle d a imm) s = wroteS s idle 3 d (extLoad 8 false (val 8)) ∧ put 8 (exec (.std idle d a imm) s))

/-- R61, R62: an 8-byte access to system register `n` at offset 0x20000 + 8n of the core-local window reads it as MFS does, and
writes it as MTS does. An unlisted number, a register that may not be written, and an access narrower than 8 bytes raise PAGE_PROT with
TVAL the address. -/
def Sys2Proof.Claims.SystemRegisterWindow : Prop :=
  ∀ (s : State) (idle : BitVec 3) (d a : BitVec 5) (imm : BitVec 13), Free s [d, a] →
    let l := atIssue s
    let ea := fun (k : Nat) => alignDown (rdS s.core a + imm.signExtend 64) k
    let off := fun (k : Nat) => bits (ea k).toNat 55 0
    let In := fun (k : Nat) => bits (ea k).toNat 63 56 = 255 ∧ 0x20000 ≤ off k ∧ off k < 0x30000
    let n := (off 8 - 0x20000) / 8
    let may := n ∈ sysRW ∨ (s.core.tstat.getLsbD 0 = true ∧ n ∈ sysH)
    let trap := fun (k : Nat) => Host.Outcome.next (takeTrap (mkTrap 4 1 (ea k)) s.core.pc s.core.ticks l)
    (In 8 → n ∈ sysListed → exec (.ldd idle d a imm) s = wroteS s idle 3 d (sysRead l n)) ∧
    (In 8 → n ∉ sysListed → exec (.ldd idle d a imm) s = trap 8) ∧
    (In 8 → may → exec (.std idle d a imm) s = retired idle (withCore l (sysWrite l.core n (rdS s.core d)))) ∧
    (In 8 → ¬may → exec (.std idle d a imm) s = trap 8) ∧
    (In 1 → exec (.ldb idle d a imm) s = trap 1 ∧ exec (.ldbu idle d a imm) s = trap 1 ∧ exec (.stb idle d a imm) s = trap 1) ∧
    (In 2 → exec (.ldh idle d a imm) s = trap 2 ∧ exec (.ldhu idle d a imm) s = trap 2 ∧ exec (.sth idle d a imm) s = trap 2) ∧
    (In 4 → exec (.ldw idle d a imm) s = trap 4 ∧ exec (.ldwu idle d a imm) s = trap 4 ∧ exec (.stw idle d a imm) s = trap 4)

/-- R58, R61: an 8-byte load at offset 0x40000 + 1024·j + o of the core-local window reads the image of landing-buffer entry j: the
value, the poison, the descriptor and zero, with a predicate's bytes 128 to 639 zero. A store there writes the entry's 8 bytes, the
descriptor's without its reserved bits, while TSTAT.INH is 1; while it is 0, and for a narrower access, it is PAGE_PROT with TVAL the
address. So is an 8-byte access to an offset that R61 marks 'none'. -/
def Sys2Proof.Claims.LandingBufferWindow : Prop :=
  ∀ (s : State) (idle : BitVec 3) (d a : BitVec 5) (imm : BitVec 13), Free s [d, a] →
    let l := atIssue s
    let ea := fun (k : Nat) => alignDown (rdS s.core a + imm.signExtend 64) k
    let off := fun (k : Nat) => bits (ea k).toNat 55 0
    let In := fun (k : Nat) => bits (ea k).toNat 63 56 = 255 ∧ 0x40000 ≤ off k ∧ off k < 0x80000
    let j := (off 8 - 0x40000) / 1024
    let o := (off 8 - 0x40000) % 1024
    let e := Sparse.get LbEntry.empty s.core.lb j
    let pred := bits e.desc.toNat 63 56 = 2
    let part := fun (w : Nat) (v : Nat) => BitVec.ofNat 64 (v / 2 ^ (8 * w) % 2 ^ 64)
    let v := rdS s.core d
    let trap := fun (k : Nat) => Host.Outcome.next (takeTrap (mkTrap 4 1 (ea k)) s.core.pc s.core.ticks l)
    (In 8 → exec (.ldd idle d a imm) s = wroteS s idle 3 d
      (if o < 512 then (if pred ∧ 128 ≤ o then 0 else part o e.val.bits.toNat)
       else if o < 640 then (if pred then 0 else part (o - 512) e.val.pz.toNat) else if o = 640 then e.desc else 0)) ∧
    (In 8 → s.core.tstat.getLsbD 0 = true → ∃ t, exec (.std idle d a imm) s = .next t ∧
      t = retire idle.toNat none (withCore l { l.core with lb := t.core.lb }) ∧
      (∀ k, k ≠ j → Sparse.get LbEntry.empty t.core.lb k = Sparse.get LbEntry.empty s.core.lb k) ∧
      let f := Sparse.get LbEntry.empty t.core.lb j
      (¬pred ∨ o < 128 ∨ 640 ≤ o) → (∀ i, i < 64 → part (8 * i) f.val.bits.toNat = if o = 8 * i then v else part (8 * i) e.val.bits.toNat) ∧
      (∀ i, i < 16 → part (8 * i) f.val.pz.toNat = if o = 512 + 8 * i then v else part (8 * i) e.val.pz.toNat) ∧
      f.desc = if o = 640 then v &&& 0xFF00FF3F00000000 else e.desc) ∧
    (In 8 → s.core.tstat.getLsbD 0 = false → exec (.std idle d a imm) s = trap 8) ∧
    (In 1 → exec (.ldb idle d a imm) s = trap 1 ∧ exec (.ldbu idle d a imm) s = trap 1 ∧ exec (.stb idle d a imm) s = trap 1) ∧
    (In 2 → exec (.ldh idle d a imm) s = trap 2 ∧ exec (.ldhu idle d a imm) s = trap 2 ∧ exec (.sth idle d a imm) s = trap 2) ∧
    (In 4 → exec (.ldw idle d a imm) s = trap 4 ∧ exec (.ldwu idle d a imm) s = trap 4 ∧ exec (.stw idle d a imm) s = trap 4) ∧
    (bits (ea 8).toNat 63 56 = 255 → (0x30000 ≤ off 8 ∧ off 8 < 0x40000) ∨ 0x80000 ≤ off 8 →
      exec (.ldd idle d a imm) s = trap 8 ∧ exec (.std idle d a imm) s = trap 8)

/-- R303: on a plain page, a load that lies whole within the youngest store that shares a byte with it takes that store's
bytes; an S-kind load does so when every S-kind store that is buffered shares a byte with it, and waits otherwise (R297); and an
acquire waits while an S-kind store that shares a byte with it is buffered (R301). Where the youngest store that shares a byte does not
cover the load, or one of the two lies on a tolerant page, the load waits. -/
def Sys2Proof.Claims.BufferedStoresForward : Prop :=
  ∀ (acq : Bool) (c : Core) (lf : Leaf) (pa n : Nat) (old young : List StoreEntry) (e : StoreEntry), c.sb = old ++ e :: young →
    e.tol = 0 → lf.tol = 0 → 0 < n → e.pa ≤ pa → pa + n ≤ e.pa + e.size →
    (∀ f ∈ young, overlap (sbRange f) (pa, pa + n) = false) →
    let clear := ∀ f ∈ c.sb, f.kind = 0 → overlap (sbRange f) (pa, pa + n) = true
    let strong := ∃ f ∈ c.sb, f.kind = 0 ∧ overlap (sbRange f) (pa, pa + n) = true
    ((lf.kind = 0 → clear) → (acq = true → ¬strong) →
      forward acq c lf pa n = .value (e.data / 2 ^ (8 * (pa - e.pa)) % 2 ^ (8 * n))) ∧
    (lf.kind = 0 → ¬clear → forward acq c lf pa n = .wait) ∧ (acq = true → strong → forward acq c lf pa n = .wait)

/-- R303: the youngest buffered store that shares a byte with a load does not cover it, or its page or the load's is a tolerant one: the
load waits, until the stores that share a byte have drained. -/
def Sys2Proof.Claims.PartialOverlapWaits : Prop :=
  ∀ (acq : Bool) (c : Core) (lf : Leaf) (pa n : Nat) (old young : List StoreEntry) (e : StoreEntry), c.sb = old ++ e :: young →
    let rng : Nat × Nat := if lf.tol = 0 then (pa, pa + n) else (pa, pa + (n / tolA lf.tol + 2) * tolD lf.tol)
    (∀ f ∈ young, overlap (sbRange f) rng = false) → overlap (sbRange e) rng = true →
    e.tol ≠ 0 ∨ lf.tol ≠ 0 ∨ pa < e.pa ∨ e.pa + e.size < pa + n → forward acq c lf pa n = .wait

/-- R303, R396, R397: a load whose buffered stores make it wait stalls its bundle whole (R52); one whose bytes are uncorrectable stops
its core: registers and pc stay as they are, and the event is logged with the place that failed, as KIND 3, or 2 where another
package holds the memory. -/
def Sys2Proof.Claims.LoadsWaitOrStop : Prop :=
  ∀ (s : State) (idle : BitVec 3) (d a b : BitVec 5) (imm : BitVec 13) (sz : BitVec 2) (u : BitVec 1) (sc : BitVec 3) (slot : Nat)
    (lf : Leaf), Free s [d, a, b] →
    let l := atIssue s
    let at_ := fun (n : Nat) => alignDown (rdS s.core a + imm.signExtend 64) n
    let ix := alignDown (rdS s.core a + rdS s.core b) (2 ^ sz.toNat)
    ∀ (i : Instr) (ea : Word) (n : Nat), (i, ea, n) ∈ [(Instr.ldb idle d a imm, at_ 1, 1), (.ldbu idle d a imm, at_ 1, 1), (.ldh idle d a imm, at_ 2, 2),
        (.ldhu idle d a imm, at_ 2, 2), (.ldw idle d a imm, at_ 4, 4), (.ldwu idle d a imm, at_ 4, 4), (.ldd idle d a imm, at_ 8, 8),
        (.lda idle d a b sz u 0 sc, ix, 2 ^ sz.toNat)] →
      let pa := physOf lf ea.toNat
      Reaches l ea .read slot lf →
      (forward false s.core lf pa n = .wait → exec i s = .next (stallCycle l)) ∧
      (forward false s.core lf pa n = .memory → sectorsOk s pa n = false →
        ∃ t, exec i s = .next t ∧ t.core = { l.core with checkstop := true } ∧ t.mem = s.mem ∧
          (s.mclog.length < 64 → t.mclog = s.mclog ++
            [mcEntry (if paPkg lf.base = s.pkgNo.toNat then 3 else 2) (failPlace s pa n).1 s.coreNo slot (failPlace s pa n).2]))

/-- R71, R72, R303: stores to memory enter the store buffer, with the low bytes of the data register; memory keeps every byte until
the buffer drains. With 16 stores in the buffer they stall (R52). STA.REL is performed at once, after the stores before it that it
orders (R297; log 12), and while one of those waits, so does its bundle (R352, R357). -/
def Sys2Proof.Claims.StoresEnterTheBuffer : Prop :=
  ∀ (s : State) (idle : BitVec 3) (d a b : BitVec 5) (imm : BitVec 13) (sz : BitVec 2) (sc : BitVec 3) (slot : Nat) (lf : Leaf),
    Free s [d, a, b] →
    let l := atIssue s
    let at_ := fun (n : Nat) => alignDown (rdS s.core a + imm.signExtend 64) n
    let ix := alignDown (rdS s.core a + rdS s.core b) (2 ^ sz.toNat)
    let room := s.core.sb.length < 16
    let full := fun (ea : Word) => 16 ≤ s.core.sb.length ∧ bits ea.toNat 63 56 ≠ 255
    let stall := Host.Outcome.next (stallCycle l)
    (room → Reaches l (at_ 1) .write slot lf → exec (.stb idle d a imm) s = stored s idle (at_ 1) 1 slot lf d) ∧
    (room → Reaches l (at_ 2) .write slot lf → exec (.sth idle d a imm) s = stored s idle (at_ 2) 2 slot lf d) ∧
    (room → Reaches l (at_ 4) .write slot lf → exec (.stw idle d a imm) s = stored s idle (at_ 4) 4 slot lf d) ∧
    (room → Reaches l (at_ 8) .write slot lf → exec (.std idle d a imm) s = stored s idle (at_ 8) 8 slot lf d) ∧
    (room → Reaches l ix .write slot lf →
      let e := storeOf ix (2 ^ sz.toNat) lf (rdS s.core d)
      exec (.sta idle d a b sz 0 sc) s = stored s idle ix (2 ^ sz.toNat) slot lf d ∧
      (releaseWaits [sbRange e] s = false → exec (.sta idle d a b sz 1 sc) s =
        retired idle (performStore slot e (release s.core.sb.length [sbRange e] (touchWalk l slot ix.toNat)))) ∧
      (releaseWaits [sbRange e] s = true → exec (.sta idle d a b sz 1 sc) s = stall)) ∧
    (full (at_ 1) → exec (.stb idle d a imm) s = stall) ∧ (full (at_ 2) → exec (.sth idle d a imm) s = stall) ∧
    (full (at_ 4) → exec (.stw idle d a imm) s = stall) ∧ (full (at_ 8) → exec (.std idle d a imm) s = stall) ∧
    (∀ ord, full ix → exec (.sta idle d a b sz ord sc) s = stall)

/-- R297: the stores that a release performs and those that it leaves: every S-kind and R-kind store is performed, in the buffer's
order; a U-kind store stays unless it shares a byte with one that is performed after it, or with the release's own bytes (R296). That
the U-kind stores stay is the model's choice where R297 only does not order them (log 12). A release waits while a store that it
performs waits: a link of its route retrains, or its destination context is away (R352, R357). -/
def Sys2Proof.Claims.ReleasesPerformStores : Prop :=
  ∀ (own : List (Nat × Nat)) (l : List StoreEntry),
    let q := releaseSplit own l
    q.1.Sublist l ∧ q.2.1.Sublist l ∧ q.1.length + q.2.1.length = l.length ∧ (∀ e ∈ l, e.kind ≠ 2 → e ∈ q.1) ∧
    (∀ e ∈ q.2.1, e.kind = 2 ∧ own.any (overlap (sbRange e)) = false) ∧
    (∀ e r, l = e :: r → e.kind = 2 → own.any (overlap (sbRange e)) = true → ∃ p, q.1 = e :: p) ∧
    (∀ old e young, l = old ++ e :: young → e.kind = 2 → own.any (overlap (sbRange e)) = false →
      (∀ f ∈ (releaseSplit own young).1, overlap (sbRange e) (sbRange f) = false) → e ∈ q.2.1) ∧
    (∀ e r, l = e :: r → e.kind = 2 → own.any (overlap (sbRange e)) = false →
      (∀ f ∈ (releaseSplit own r).1, overlap (sbRange e) (sbRange f) = false) →
      q.1 = (releaseSplit own r).1 ∧ q.2.1 = e :: (releaseSplit own r).2.1) ∧
    (∀ s slot, curSlot s = some slot → s.core.sb = l →
      (releaseWaits own s = true ↔ ∃ e ∈ q.1, Away s slot e))

/-- R71: an access whose translation faults takes no effect; its bundle traps with the fault's cause, SLOT 1 and TVAL the address (a
store with a full buffer stalls before that, R52; log 23), and the table entries that its walk read were reached (R263). An
access by STA, LDA, LDC or ATOM to the core-local window is PAGE_PROT (R72, R304, R305). -/
def Obligations.AccessFaultsTrap : Prop :=
  ∀ (s : State) (idle : BitVec 3) (d a b : BitVec 5) (imm : BitVec 13) (op : BitVec 4) (sz : BitVec 2) (u ord z : BitVec 1)
    (sc : BitVec 3) (code : Nat), Free s [d, a, b] → code = 3 ∨ code = 4 ∨ code = 8 ∨ code = 9 →
    let l := atIssue s
    let at_ := fun (n : Nat) => alignDown (rdS s.core a + imm.signExtend 64) n
    let ix := alignDown (rdS s.core a + rdS s.core b) (2 ^ sz.toNat)
    let az := alignDown (rdS s.core a) (if z = 1 then 8 else 4)
    let room := s.core.sb.length < 16
    let trap := fun (c : Nat) (x : Word) =>
      Host.Outcome.next (takeTrap (mkTrap c 1 x) s.core.pc s.core.ticks (trapTouch (mkTrap c 1 x) l))
    (Denies l (at_ 1) .read code → exec (.ldb idle d a imm) s = trap code (at_ 1) ∧ exec (.ldbu idle d a imm) s = trap code (at_ 1)) ∧
    (Denies l (at_ 2) .read code → exec (.ldh idle d a imm) s = trap code (at_ 2) ∧ exec (.ldhu idle d a imm) s = trap code (at_ 2)) ∧
    (Denies l (at_ 4) .read code → exec (.ldw idle d a imm) s = trap code (at_ 4) ∧ exec (.ldwu idle d a imm) s = trap code (at_ 4)) ∧
    (Denies l (at_ 8) .read code → exec (.ldd idle d a imm) s = trap code (at_ 8) ∧ exec (.ldc idle d a imm) s = trap code (at_ 8)) ∧
    (room → Denies l (at_ 1) .write code → exec (.stb idle d a imm) s = trap code (at_ 1)) ∧
    (room → Denies l (at_ 2) .write code → exec (.sth idle d a imm) s = trap code (at_ 2)) ∧
    (room → Denies l (at_ 4) .write code → exec (.stw idle d a imm) s = trap code (at_ 4)) ∧
    (room → Denies l (at_ 8) .write code → exec (.std idle d a imm) s = trap code (at_ 8)) ∧
    (Denies l ix .read code → exec (.lda idle d a b sz u ord sc) s = trap code ix) ∧
    (room → Denies l ix .write code → exec (.sta idle d a b sz ord sc) s = trap code ix) ∧
    (Denies l az .atomic code → exec (.atom idle d a b op z) s = trap code az ∧ exec (.atomAcq idle d a b op z sc) s = trap code az ∧
      exec (.atomRel idle d a b op z sc) s = trap code az ∧ exec (.atomAr idle d a b op z sc) s = trap code az) ∧
    (bits (at_ 8).toNat 63 56 = 255 → exec (.ldc idle d a imm) s = trap 4 (at_ 8)) ∧
    (bits ix.toNat 63 56 = 255 → exec (.lda idle d a b sz u ord sc) s = trap 4 ix ∧ exec (.sta idle d a b sz ord sc) s = trap 4 ix) ∧
    (bits az.toNat 63 56 = 255 → exec (.atom idle d a b op z) s = trap 4 az ∧ exec (.atomAcq idle d a b op z sc) s = trap 4 az ∧
      exec (.atomRel idle d a b op z sc) s = trap 4 az ∧ exec (.atomAr idle d a b op z sc) s = trap 4 az)

/-- R303: a buffered store that may drain, and whose destination a link and a context serve, writes its bytes, and no other byte: on a
plain page the stored bytes are those of its data; on a tolerant page only the elements that it touches change (R141). It stays in
the buffer while a link of its route retrains or its destination context is away (R352, R357); where the route has lost a link, it
is lost and the core checkstops (R396; log 88). -/
def Sys2Proof.Claims.StoreBufferDrains : Prop :=
  ∀ (s : State) (n : BitVec 4) (e : StoreEntry) (slot : Nat),
    s.core.sb[n.toNat]? = some e → curSlot s = some slot → canDrain s.core.sb n.toNat = true →
    let away := Away s slot e
    let lost := deadHop s 6 s.pkgNo.toNat (paPkg e.pa)
    (¬away → lost = none →
      ∃ t, exec (.storeBufferDrain n) s = .next t ∧ t.core = { s.core with sb := s.core.sb.eraseIdx n.toNat } ∧
        SameBytes s t (fun a => (sbRange e).1 ≤ a ∧ a < (sbRange e).2) ∧
        (e.tol = 0 → ∀ i, i < e.size → Memory.read t.mem (e.pa + i) = BitVec.ofNat 8 (e.data / 2 ^ (8 * i)))) ∧
    (away → exec (.storeBufferDrain n) s = .next s) ∧
    (¬away → ∀ h, lost = some h → ∃ t, exec (.storeBufferDrain n) s = .next t ∧ t.core.checkstop = true ∧ t.mem = s.mem ∧
      t.core.sb = s.core.sb.eraseIdx n.toNat)

/-- R304's operations on n bytes, with the old value x, the operand v and the expected value e, each below 2^(8n): ADD, AND, OR, XOR,
SWAP, CAS, which stores only where x is e, and the signed and unsigned minimum and maximum. -/
def Sys2Proof.Claims.AtomicOperations : Prop :=
  ∀ (n x v e : Nat), n = 4 ∨ n = 8 → x < 2 ^ (8 * n) → v < 2 ^ (8 * n) → e < 2 ^ (8 * n) →
    let int := fun (y : Nat) => if y < 2 ^ (8 * n - 1) then (y : Int) else (y : Int) - 2 ^ (8 * n)
    let bit := fun (op : Nat) (f : Bool → Bool → Bool) => ∃ r, atomNew op n x v e = some r ∧ r < 2 ^ (8 * n) ∧
      ∀ i, r.testBit i = (decide (i < 8 * n) && f (x.testBit i) (v.testBit i))
    let pick := fun (op : Nat) (first : Prop) => (first → atomNew op n x v e = some x) ∧ (¬first → atomNew op n x v e = some v)
    atomNew 0 n x v e = some ((x + v) % 2 ^ (8 * n)) ∧
    bit 1 and ∧ bit 2 or ∧ bit 3 xor ∧ atomNew 4 n x v e = some v ∧
    (x = e → atomNew 5 n x v e = some v) ∧ (x ≠ e → atomNew 5 n x v e = none) ∧
    pick 6 (int x ≤ int v) ∧ pick 7 (int v ≤ int x) ∧ pick 8 (x ≤ v) ∧ pick 9 (v ≤ x)

/-- R304: ATOM in its four forms. The old value of the n bytes goes to Sd; the new value that the operation gives is stored, none for a
CAS that fails; no other byte of memory changes. A release form first performs the buffered stores that it orders (R297; log 12), and
stalls while one of them waits (R352, R357). -/
def Sys2Proof.Claims.Atomics : Prop :=
  ∀ (s : State) (idle : BitVec 3) (d a b : BitVec 5) (op : BitVec 4) (sz : BitVec 1) (sc : BitVec 3) (rel : Bool) (slot : Nat)
    (lf : Leaf), Free s [d, a, b] →
    let l := atIssue s
    let n := if sz = 1 then 8 else 4
    let ea := alignDown (rdS s.core a) n
    let pa := physOf lf ea.toNat
    let m := if rel then release s.core.sb.length [(pa, pa + n)] l else l
    Reaches l ea .atomic slot lf →
    (releaseWaits [(pa, pa + n)] s = true →
      exec (.atomRel idle d a b op sz sc) s = .next (stallCycle l) ∧ exec (.atomAr idle d a b op sz sc) s = .next (stallCycle l)) ∧
    (sectorsOk m pa n = true → (rel = true → releaseWaits [(pa, pa + n)] s = false) →
    (rel = false → l.core.sb.any (fun e => overlap (sbRange e) (pa, pa + n) || (e.kind == 0 && lf.kind == 0)) = false) →
    let old := memNum m pa n
    let new := atomNew op.toNat n old ((rdS s.core b).toNat % 2 ^ (8 * n)) ((rdS s.core d).toNat % 2 ^ (8 * n))
    ∃ t, (if rel then exec (.atomRel idle d a b op sz sc) s = .next t ∧ exec (.atomAr idle d a b op sz sc) s = .next t
          else exec (.atom idle d a b op sz) s = .next t ∧ exec (.atomAcq idle d a b op sz sc) s = .next t) ∧
      (∀ r, rdS t.core r = if r = d ∧ d ≠ 0 then .ofNat 64 old else rdS s.core r) ∧
      t.core.pc = s.core.pc + 16 ∧ t.core.ticks = s.core.ticks + 1 + idle.toNat ∧
      SameBytes m t (fun a => pa ≤ a ∧ a < pa + n) ∧
      (∀ x, new = some x → ∀ i, i < n → Memory.read t.mem (pa + i) = BitVec.ofNat 8 (x / 2 ^ (8 * i))) ∧
      (new = none → t.mem = m.mem))

/-- R302, R306: FENCE waits while an S-kind or R-kind store is buffered, FENCE.U while any is; else they retire. CINV empties the
constant path, and never stalls. -/
def Sys2Proof.Claims.Fences : Prop :=
  ∀ (s : State) (idle : BitVec 3) (sc : BitVec 3), Free s [] →
    let l := atIssue s
    (s.core.sb.all (fun e => e.kind == 2) = true → exec (.fence idle sc) s = retired idle l) ∧
    (s.core.sb.all (fun e => e.kind == 2) = false → exec (.fence idle sc) s = .next (stallCycle l)) ∧
    (s.core.sb = [] → exec (.fenceU idle sc) s = retired idle l) ∧
    (s.core.sb ≠ [] → exec (.fenceU idle sc) s = .next (stallCycle l)) ∧
    exec (.cinv idle) s = retired idle (withCore l { l.core with cpath := [] })

namespace Sys2Proof.Claims
open Sys2Proof.Machine

/-- The trap of a bundle is taken at it (R57). -/
def traps (s : State) (c : Nat) (tval : Word) : Host.Outcome State Fault Refusal :=
  .next (takeTrap (mkTrap c 1 tval) s.core.pc s.core.ticks (atIssue s))

/-- R393: the trap record of a trap at tick `tn` can be written, and `u` is the state with it. -/
def Recorded (t : Trap) (epc : Word) (tn : Nat) (s u : State) : Prop :=
  writeTrapRec (capture tn s) epc (tcauseOf t) t.tval = .ok u

/-- Only the scalar registers of `ds`, the pc, the clocks and the landing of earlier results differ. -/
def RegisterFrame (ds : List (BitVec 5)) (s t : State) : Prop :=
  t = { s with core := t.core, clock := t.clock } ∧
  t.core = { s.core with sregs := t.core.sregs, pend := t.core.pend, vregs := t.core.vregs, pregs := t.core.pregs, inflight := t.core.inflight, parityBad := t.core.parityBad, pc := t.core.pc, cycle := t.core.cycle, ticks := t.core.ticks, vrb := t.core.vrb, prb := t.core.prb } ∧
  (∀ r, r ∉ ds → rdS t.core r = rdS s.core r) ∧
  ((t.core.vregs, t.core.pregs, t.core.inflight, t.core.parityBad) = (s.core.vregs, s.core.pregs, s.core.inflight, s.core.parityBad) ∨
    (t.core.vregs, t.core.pregs, t.core.inflight, t.core.parityBad) =
      ((landTo s.core.ticks s.core).vregs, (landTo s.core.ticks s.core).pregs, (landTo s.core.ticks s.core).inflight,
        (landTo s.core.ticks s.core).parityBad))

/-- Scalar registers that a scalar instruction without an access to memory writes, and whether it may rotate the bases; none for
every other instruction. -/
def registerDest : Instr → Option (List (BitVec 5) × Bool)
  | .nop _ | .beqz _ _ _ | .bnez _ _ _ | .bltz _ _ _ | .bgez _ _ _ | .br _ _ | .fence _ _ | .fenceU _ _ => some ([], false)
  | .add _ d _ _ | .sub _ d _ _ | .and _ d _ _ | .or _ d _ _ | .xor _ d _ _ | .andn _ d _ _ | .shl _ d _ _ | .shr _ d _ _
  | .sra _ d _ _ | .min _ d _ _ | .max _ d _ _ | .minu _ d _ _ | .maxu _ d _ _ | .seq _ d _ _ | .sne _ d _ _ | .slt _ d _ _
  | .sltu _ d _ _ | .sle _ d _ _ | .sleu _ d _ _ | .mul _ d _ _ | .mulh _ d _ _ | .mulhu _ d _ _ | .div _ d _ _ | .divu _ d _ _
  | .rem _ d _ _ | .remu _ d _ _ | .clz _ d _ | .ctz _ d _ | .popc _ d _ | .addi _ d _ _ | .andi _ d _ _ | .ori _ d _ _
  | .xori _ d _ _ | .shli _ d _ _ | .shri _ d _ _ | .srai _ d _ _ | .slti _ d _ _ | .sltiu _ d _ _ | .seqi _ d _ _ | .muli _ d _ _
  | .extu _ d _ _ _ | .exts _ d _ _ _ | .ins _ d _ _ _ | .lih _ d _ | .lipc _ d _ | .mfs _ d _ => some ([d], false)
  | .call _ _ => some ([31], false)
  | .loop _ a _ => some ([a], true)
  | _ => none

end Sys2Proof.Claims

/-- R16, R50 to R55, R65 to R70: what the scalar instructions without an access to memory leave alone: all memory, every context, every
other core, and of the core everything but their destination, the pc, the clocks, and exposed results that land. Only LOOP rotates. -/
def Sys2Proof.Claims.RegisterInstructionFrame : Prop :=
  ∀ (i : Instr) (s t : State) (ds : List (BitVec 5)) (rot : Bool), registerDest i = some (ds, rot) → exec i s = .next t →
    RegisterFrame ds s t ∧ (rot = false → t.core.vrb = s.core.vrb ∧ t.core.prb = s.core.prb)

/-- R16: no scalar instruction changes S0: it reads zero in every state. An instruction with destination S0 still retires, and
leaves every scalar register as it was. -/
def Sys2Proof.Claims.ScalarZeroDiscards : Prop :=
  ∀ (s : State) (idle : BitVec 3) (a b : BitVec 5), rdS s.core 0 = 0 ∧
    (Free s [a, b] → ∃ t, exec (.add idle 0 a b) s = .next t ∧ t.core.pc = s.core.pc + 16 ∧ ∀ r, rdS t.core r = rdS s.core r)

/-- R51, R52: a bundle whose register has a write pending stalls whole: nothing issues, a cycle passes and the issue clock stands;
and a core that does not run issues nothing at all. Here for one S, one V and one M instruction. -/
def Sys2Proof.Claims.StalledAndStoppedBundles : Prop :=
  ∀ (s : State) (idle : BitVec 3) (d a b : BitVec 5) (ty p : BitVec 4) (vd cnt : BitVec 8) (imm : BitVec 16),
    (running s = true → [d, a, b].any (pending s.core) = true → exec (.add idle d a b) s = .next (stallCycle (atIssue s))) ∧
    (running s = true → pending s.core a = true → exec (.tlwait 0 a 0 0 imm) s = .next (stallCycle (atIssue s))) ∧
    (stallCycle (atIssue s)).core.ticks = s.core.ticks ∧ (stallCycle (atIssue s)).core.pc = s.core.pc ∧
    (stallCycle (atIssue s)).core.cycle = s.core.cycle + 1 ∧
    (running s = false →
      exec (.add idle d a b) s = .next s ∧ exec (.vsplati ty p vd imm) s = .next s ∧ exec (.tladv 0 cnt) s = .next s)

/-- R53 and R54 as the pipeline's own steps: results that are due land, on a halted core the next one does, at its tick (R76; that a
cycle passes for each tick is log 33), and none while a lane copy runs (R91); pending scalar writes complete in order of their time, and until then a dependent bundle
waits. -/
def Sys2Proof.Claims.LandingsAndCompletions : Prop :=
  ∀ (s : State),
    (s.core.swapLeft ≠ 0 → exec .exposedResultLanding s = .next s) ∧
    (∀ f r, s.core.swapLeft = 0 → sortLand s.core.inflight = f :: r → f.land ≤ s.core.ticks →
      exec .exposedResultLanding s = .next (withCore s (landTo s.core.ticks s.core))) ∧
    (∀ f r, s.core.swapLeft = 0 → sortLand s.core.inflight = f :: r → s.core.ticks < f.land → s.core.halted = true →
      exec .exposedResultLanding s =
        .next (passCycles (f.land - s.core.ticks) (withCore s { landTo f.land s.core with ticks := f.land }))) ∧
    (s.core.pend ≠ [] → ∃ t, exec .scalarWriteComplete s = .next t ∧ t.core.pend.length < s.core.pend.length ∧
      (∀ e ∈ s.core.pend, e ∈ t.core.pend ∨ e.2 ≤ t.core.cycle) ∧ t.core.sregs = s.core.sregs ∧ t.core.ticks = s.core.ticks ∧ t.mem = s.mem)

/-- R54: a result whose tick has come stands in its register at issue; of two that land there at one tick the later-issued stays;
one that is not due leaves the register alone. -/
def Sys2Proof.Claims.ExposedResultsLand : Prop :=
  ∀ (s : State) (f : Inflight), f.kind = .vec → f.preg < 32 → f.land ≤ s.core.ticks →
    (∀ g ∈ s.core.inflight, g.kind = .prd ∨ g.preg ≠ f.preg ∨ s.core.ticks < g.land) →
    rdV (atIssue (withCore s { s.core with inflight := s.core.inflight ++ [f] })).core f.preg = f.val ∧
    rdV (atIssue s).core f.preg = rdV s.core f.preg ∧
    (∀ f2 : Inflight, f2.kind = .vec → f2.preg = f.preg → f2.land = f.land →
      rdV (atIssue (withCore s { s.core with inflight := s.core.inflight ++ [f, f2] })).core f.preg = f2.val) ∧
    (∀ f2 : Inflight, f2.kind = .vec → f2.preg = f.preg → f2.land < f.land →
      rdV (atIssue (withCore s { s.core with inflight := s.core.inflight ++ [f, f2] })).core f.preg = f.val)

/-- R62, R63, R73: MFS of each system register: what R62's table and the field maps of R63 give. PHASE shows the levels in force
(R268), GTIME the nanosecond clock (R390; log 8). -/
def Sys2Proof.Claims.SystemRegisterReads : Prop :=
  ∀ (s : State) (idle : BitVec 3) (d : BitVec 5), Free s [d] →
    let c := s.core
    let reads := fun (n : BitVec 13) (v : Word) => exec (.mfs idle d n) s = wroteS s idle 3 d v
    (∃ v, reads 0x000 v ∧ bits v.toNat 63 32 = s.domNo.toNat ∧ bits v.toNat 31 22 = 0 ∧ bits v.toNat 21 16 = s.pkgNo.toNat ∧
      bits v.toNat 15 7 = 0 ∧ bits v.toNat 6 0 = s.coreNo % 128) ∧
    reads 0x001 0x0100020000000000 ∧ reads 0x002 0x0810180020500806 ∧ reads 0x008 c.team ∧
    reads 0x010 (c.vrb.setWidth 64) ∧ reads 0x011 (c.prb.setWidth 64) ∧ reads 0x018 c.vflags ∧ reads 0x020 c.tags ∧
    (∀ x, curCtx s = some x → reads 0x028 (.ofNat 64 (phaseNow (gtimeOf s) x)) ∧ reads 0x029 x.phasemiss) ∧
    reads 0x030 (.ofNat 64 c.livemark) ∧ reads 0x038 c.lanemap ∧ reads 0x040 (.ofNat 64 c.cycle) ∧
    reads 0x041 (.ofNat 64 c.ticks) ∧ reads 0x042 (.ofNat 64 (gtimeOf s)) ∧
    reads 0x048 c.tvec ∧ reads 0x049 c.evec ∧ reads 0x04A c.epc ∧ reads 0x04B c.tcause ∧ reads 0x04C c.tval ∧
    reads 0x04D c.tstat ∧ reads 0x04E c.tbund0 ∧ reads 0x04F c.tbund1 ∧ reads 0x050 c.tscr0 ∧ reads 0x051 c.tscr1 ∧
    reads 0x052 (.ofNat 64 c.lbcnt)

/-- R62, R73: MTS: the registers of access RW, those of access H inside a handler, and ILLEGAL for every other listed register
(its TVAL of zero is log 31). Reserved bits stay zero (R10), RM 3 is stored as 0 (R142), and LBCNT holds at most 256. -/
def Sys2Proof.Claims.SystemRegisterWrites : Prop :=
  ∀ (s : State) (idle : BitVec 3) (a : BitVec 5) (n : BitVec 13), Free s [a] →
    let x := rdS s.core a
    let l := atIssue s
    let writes := fun (m : BitVec 13) (c : Core) => exec (.mts idle a m) s = retired idle (withCore l c)
    let inh := s.core.tstat.getLsbD 0
    writes 0x010 { l.core with vrb := x.setWidth 5 } ∧ writes 0x011 { l.core with prb := x.setWidth 3 } ∧
    writes 0x018 { l.core with vflags := (x &&& 0x1F) ||| (if bits x.toNat 9 8 = 3 then 0 else x &&& 0x300) } ∧
    writes 0x048 { l.core with tvec := x } ∧ writes 0x049 { l.core with evec := x } ∧
    writes 0x050 { l.core with tscr0 := x } ∧ writes 0x051 { l.core with tscr1 := x } ∧
    (inh = true →
      writes 0x04A { l.core with epc := x } ∧ writes 0x04B { l.core with tcause := x &&& 0x1FFF07FF } ∧
      writes 0x04C { l.core with tval := x } ∧ writes 0x04D { l.core with tstat := x &&& 3 } ∧
      writes 0x04E { l.core with tbund0 := x } ∧ writes 0x04F { l.core with tbund1 := x } ∧
      writes 0x052 { l.core with lbcnt := min x.toNat 256 }) ∧
    (inh = false → n.toNat ∈ [0x04A, 0x04B, 0x04C, 0x04D, 0x04E, 0x04F, 0x052] → exec (.mts idle a n) s = traps s 1 0) ∧
    (n.toNat ∈ [0x000, 0x001, 0x002, 0x008, 0x020, 0x028, 0x029, 0x030, 0x038, 0x040, 0x041, 0x042] →
      exec (.mts idle a n) s = traps s 1 0)

/-- R50, R57, R58, R63: what taking a trap leaves, outside a handler, when its record can be written: the pipeline drained at tick
`tn`, whose ticks have taken their cycles, into the landing buffer in landing order, the trap registers set, and the pc at TVEC or
EVEC. R58 reckons with at most 240 results in flight; that LBCNT counts every one of more than 256 is the model's choice (log 58). -/
def Sys2Proof.Claims.TrapEntryState : Prop :=
  ∀ (t : Trap) (epc : Word) (tn : Nat) (s u : State), s.core.tstat.getLsbD 0 = false → Recorded t epc tn s u →
    let v := takeTrap t epc tn s
    let l := sortLand (s.core.inflight.filter fun f => decide (tn < f.land))
    v.core.epc = epc ∧ v.core.tval = t.tval ∧ v.core.tstat = (if t.emu then 3 else 1) ∧
    bits v.core.tcause.toNat 7 0 = t.cause % 256 ∧ bits v.core.tcause.toNat 10 8 = t.slot % 8 ∧ bits v.core.tcause.toNat 28 16 = t.code % 8192 ∧
    v.core.tbund0 = .ofNat 64 t.bundle ∧ v.core.tbund1 = .ofNat 64 (t.bundle / 2 ^ 64) ∧
    v.core.pc = (if t.emu then s.core.evec else s.core.tvec) &&& 0xFFFFFFFFFFFFFFF0 ∧
    v.core.pend = [] ∧ v.core.inflight = [] ∧ v.core.ticks = tn ∧ v.core.sregs = s.core.sregs ∧
    v.core.vregs = (landTo tn s.core).vregs ∧ v.core.pregs = (landTo tn s.core).pregs ∧ v.core.lbcnt = l.length ∧
    (∀ e ∈ s.core.pend, e.2 ≤ v.core.cycle) ∧ s.core.cycle + (tn - s.core.ticks) ≤ v.core.cycle ∧
    v.core.halted = s.core.halted ∧ v.mem = u.mem ∧
    ∀ j f, l[j]? = some f →
      let e := Sparse.get LbEntry.empty v.core.lb j
      e.val = f.val ∧ bits e.desc.toNat 37 32 = f.preg % 64 ∧ bits e.desc.toNat 47 40 = (f.land - tn) % 256 ∧
        bits e.desc.toNat 63 56 = (if f.kind = .vec then 1 else 2)

/-- R393: the trap record. When the record lies on a plain page of the package that the TLB holds, taking the trap writes there, at
TRBASE + 128·n, the values of R393's table, and no other byte of memory while no buffered store shares a byte with the record. A store
that does is performed before, so that the handler observes every byte of the record. -/
def Sys2Proof.Claims.TrapRecordBytes : Prop :=
  ∀ (t : Trap) (epc : Word) (tn : Nat) (s : State) (slot : Nat) (c : Ctx) (lf : Leaf), s.core.tstat.getLsbD 0 = false →
    curSlot s = some slot → curCtx s = some c →
    let a := trapRecAddr s c
    a % 128 = 0 → a + 128 < 2 ^ 57 → tlbHit s slot a = some lf → tlbHit s slot (a + 64) = some lf → 7 ≤ lf.lg → lf.w = true → lf.tol = 0 → lf.kh = 0 →
    paPkg lf.base = s.pkgNo.toNat → bfield (bankRec s (paBank lf.base)) 31 1 = 0 →
    (∀ e ∈ s.core.sb, deadHop s 6 s.pkgNo.toNat (paPkg e.pa) = none ∧ ¬Away s slot e) →
    let v := takeTrap t epc tn s
    let pa := physOf lf a
    let s1 := capture tn s
    let mine := fun (e : StoreEntry) => overlap (sbRange e) (pa, pa + 128)
    ((∀ e ∈ s.core.sb, mine e = false) → SameBytes s v (fun k => pa ≤ k ∧ k < pa + 128) ∧ v.core.sb = s.core.sb) ∧
    (∀ e ∈ v.core.sb, mine e = false) ∧ v.core.epc = epc ∧
    memNum v pa 8 = epc.toNat ∧ memNum v (pa + 8) 8 = (tcauseOf t).toNat ∧ memNum v (pa + 16) 8 = t.tval.toNat ∧
    memNum v (pa + 24) 8 = gtimeOf s1 ∧
    (∀ q, q < 6 →
      memNum v (pa + 32 + 8 * q) 8 = (getRing s.core q).rseq.toNat ∧
      bits (memNum v (pa + 80 + 4 * q) 4) 5 0 = (getRing s.core q).rp % 64 ∧
      bits (memNum v (pa + 80 + 4 * q) 4) 13 8 = (getRing s.core q).wp % 64 ∧
      bits (memNum v (pa + 80 + 4 * q) 4) 22 16 = (getRing s.core q).occ % 128 ∧
      (memNum v (pa + 104) 1).testBit q = (getRing s.core q).stopped) ∧
    memNum v (pa + 105) 23 = 0

/-- R57, R394: TRAP_ENTRY takes the trap of the bundle at the pc, through EVEC with the bundle's bits for EMULATE; after a TRAP
bundle the return bundle's tick counts the bundle's idle cycles (R51). The bundle is the one that the thread issues, from the
instruction cache or from memory (log 24). A core that does not run takes none. -/
def Sys2Proof.Claims.TrapsAreTaken : Prop :=
  ∀ (s : State) (code : BitVec 13) (cause : BitVec 8) (slot : BitVec 3) (tval : Word),
    (running s = false → exec (.trapEntry cause slot code tval) s = .next s) ∧ (running s = true →
    (cause.toNat ∈ [0x01, 0x03, 0x04, 0x08, 0x09, 0x0A, 0x11] → exec (.trapEntry cause slot code tval) s =
      .next (takeTrap { cause := cause.toNat, slot := slot.toNat, code := code.toNat, tval := tval, bundle := 0, emu := false }
        s.core.pc s.core.ticks (atIssue s))) ∧
    (∀ b, fetchBundle s = .ok b → exec (.trapEntry 2 slot code tval) s =
      .next (takeTrap { cause := 2, slot := slot.toNat, code := code.toNat, tval := tval, bundle := b, emu := true }
        s.core.pc s.core.ticks (atIssue s))) ∧
    (∀ n, n = (match fetchBundle s with | .ok b => b / 2 ^ 29 % 8 | .error _ => 0) → exec (.trapEntry 0x10 slot code tval) s =
      .next (takeTrap { cause := 0x10, slot := slot.toNat, code := code.toNat, tval := tval, bundle := 0, emu := false }
        (s.core.pc + 16) (s.core.ticks + (1 + n)) (atIssue s))))

/-- R394: an asynchronous trap: ABORT first, pending until it is taken, then a ring stop that no record has shown, whose TVAL names the
lowest stopped ring and its RSEQ. Inside a handler and on a core that does not run, halted or not, nothing is taken. -/
def Sys2Proof.Claims.AsynchronousTrapsAreTaken : Prop :=
  ∀ (s : State), (running s = false → exec .asynchronousTrap s = .next s) ∧ (s.core.halted = true → running s = false) ∧
    (running s = true →
    (s.core.tstat.getLsbD 0 = true → exec .asynchronousTrap s = .next s) ∧
    (∀ v r, s.core.tstat.getLsbD 0 = false → s.core.abortPend = v :: r → exec .asynchronousTrap s =
      (let u := takeTrap (mkTrap 0x0B 0 v) s.core.pc s.core.ticks (atIssue s)
       .next (if u.core.tstat.getLsbD 0 then withCore u { u.core with abortPend := r } else u))) ∧
    (∀ q k, s.core.tstat.getLsbD 0 = false → s.core.abortPend = [] → k < 6 → (getRing s.core k).stopped = true →
      (getRing s.core k).reported = false → q ≤ k → (getRing s.core q).stopped = true →
      (∀ j, j < q → (getRing s.core j).stopped = false) →
      ∃ t : Trap, exec .asynchronousTrap s = .next (takeTrap t s.core.pc s.core.ticks (atIssue s)) ∧ t.cause = 0x12 ∧ t.slot = 0 ∧
        t.code = 0 ∧ t.bundle = 0 ∧ t.tval.toNat = q * 2 ^ 56 + (getRing s.core q).rseq.toNat % 2 ^ 56 ∧
        t.emu = (match (getRing s.core q).results with | x :: _ => x.code == 2 | [] => false)) ∧
    (s.core.abortPend = [] → (∀ j, j < 6 → (getRing s.core j).stopped = true → (getRing s.core j).reported = true) →
      exec .asynchronousTrap s = .next s))

/-- R57, R76, R393, R396: a trap inside a handler, a trap whose record cannot be written, and HALT in a handler checkstop the core: the
bundle takes no effect, the trap registers stay, and MCLOG has an entry. While the record's page must wait for another package, so
does the trap (R352, R357). -/
def Sys2Proof.Claims.DoubleTrapsCheckstop : Prop :=
  ∀ (t : Trap) (epc : Word) (tn : Nat) (s : State) (idle : BitVec 3),
    (s.core.tstat.getLsbD 0 = true → takeTrap t epc tn s = checkstop 7 0 s) ∧
    (∀ e, writeTrapRec (capture tn s) epc (tcauseOf t) t.tval = .error e → e ≠ codeRetry → takeTrap t epc tn s = checkstop 7 0 s) ∧
    (s.core.tstat.getLsbD 0 = false → writeTrapRec (capture tn s) epc (tcauseOf t) t.tval = .error codeRetry →
      takeTrap t epc tn s = passCycles 1 s) ∧
    (running s = true → s.core.tstat.getLsbD 0 = true → exec (.halt idle) s = .next (checkstop 7 0 (atIssue s))) ∧
    (∀ unit place, (checkstop unit place s).core = { s.core with checkstop := true } ∧ (checkstop unit place s).mem = s.mem ∧
      (checkstop unit place s).others = s.others ∧ (checkstop unit place s).ctxs = s.ctxs ∧
      (s.mclog.length < 64 → ∃ e, (checkstop unit place s).mclog = s.mclog ++ [e] ∧
        bits e.toNat 63 56 = 0x80 ∧ bits e.toNat 55 48 = 3 ∧ bits e.toNat 47 40 = unit % 256) ∧
      (64 ≤ s.mclog.length → (checkstop unit place s).mclog = s.mclog ∧ (checkstop unit place s).mcLost = true))

/-- R75, R395: RFT, and its reinstatement as a step of its own. Outside a handler RFT is ILLEGAL (its TVAL of zero is log 31); while a result of the handler is in flight
it waits, ticking. Then every landing-buffer entry below LBCNT of KIND 1 or 2 is in flight again, LBCNT and TSTAT are zero, the thread goes on at
EPC, and a ring runs again where the record shows it stopped and not held. The registers stay. RFT waits while a buffered store must
(R352, R357); where the record cannot be read, it waits or the core checkstops (R352, R396). -/
def Sys2Proof.Claims.ReturnFromTrap : Prop :=
  ∀ (s : State) (idle : BitVec 3), running s = true →
    let l := atIssue s
    (s.core.tstat.getLsbD 0 = false → exec (.rft idle) s = traps s 1 0) ∧
    (s.core.tstat.getLsbD 0 = true → l.core.inflight ≠ [] →
      exec (.rft idle) s = .next (passCycles 1 (withCore l { l.core with ticks := s.core.ticks + 1 }))) ∧
    (s.core.tstat.getLsbD 0 = true → l.core.inflight = [] → drainWaits l = true → exec (.rft idle) s = .next (stallCycle l)) ∧
    (∀ slot, curSlot s = some slot → (drainWaits l = true ↔ ∃ e ∈ s.core.sb, Away s slot e)) ∧
    (s.core.tstat.getLsbD 0 = true → l.core.inflight = [] → drainWaits l = false → (drainAll l).core.checkstop = false →
      (∀ e, holdBits (drainAll l) = .error e → e = codeRetry ∧ exec (.rft idle) s = .next (passCycles 1 (drainAll l)) ∨
        ∃ t, exec (.rft idle) s = .next t ∧ t.core.checkstop = true ∧ t.core.tstat = s.core.tstat) ∧
      ∀ h, holdBits (drainAll l) = .ok h → ∃ t, exec (.rft idle) s = .next t ∧
      t.core.tstat = 0 ∧ t.core.lbcnt = 0 ∧ t.core.pc = s.core.epc &&& 0xFFFFFFFFFFFFFFF0 ∧
      t.core.ticks = s.core.ticks + 1 + idle.toNat ∧ t.core.cycle = s.core.cycle + 1 + idle.toNat ∧
      t.core.sregs = s.core.sregs ∧ t.core.vregs = l.core.vregs ∧ t.core.pregs = l.core.pregs ∧
      t.core.epc = s.core.epc ∧ t.core.tcause = s.core.tcause ∧ t.core.sb = [] ∧ t.mem = (drainAll l).mem ∧
      t.core.inflight = (List.range s.core.lbcnt).filterMap (fun j => reinstate t.core.ticks (Sparse.get LbEntry.empty s.core.lb j)) ∧
      ∀ q, q < 6 → (getRing t.core q).stopped =
        ((getRing s.core q).stopped && !(h.1.testBit q && !h.2.testBit q))) ∧
    (s.core.tstat.getLsbD 0 = true → s.core.inflight = [] → exec .rftReinstate s = .next (returnFromTrap 0 s))

/-- R75: a reinstated entry: PREG modulo 64 or 16, REMAIN held to 1 to 16, value and poison as stored; any other KIND is skipped. -/
def Sys2Proof.Claims.ReinstatedEntries : Prop :=
  ∀ (tick : Nat) (e : LbEntry),
    let d := e.desc.toNat
    (bits d 63 56 = 1 → ∃ f, reinstate tick e = some f ∧ f.kind = .vec ∧ f.preg = bits d 37 32 % 64 ∧ f.val = e.val ∧
      f.land = tick + (if bits d 47 40 < 1 then 1 else if 16 < bits d 47 40 then 16 else bits d 47 40)) ∧
    (bits d 63 56 = 2 → ∃ f, reinstate tick e = some f ∧ f.kind = .prd ∧ f.preg = bits d 37 32 % 16 ∧ f.val = e.val ∧
      f.land = tick + (if bits d 47 40 < 1 then 1 else if 16 < bits d 47 40 then 16 else bits d 47 40)) ∧
    (bits d 63 56 ≠ 1 → bits d 63 56 ≠ 2 → reinstate tick e = none)

/-- R76, R404, R269, R270: HALT outside a handler, PUBLISH and SETPHASE. PUBLISH of an unmapped window is SLOT_STATE; it waits while a
store is buffered, and while a sector of the window must be waited for (R352, R357); then the window has a new image and version, and the host to which the context is attached sees the version, over a
link that carries transactions (R400). SETPHASE declares for each set whose level differs
from the one in force the new level and its due time. An image with level 3 or a bit above its sets is ILLEGAL. -/
def Obligations.HaltPublishSetphase : Prop :=
  ∀ (s : State) (idle : BitVec 3) (w : BitVec 4) (a : BitVec 5) (lead : BitVec 13) (slot : Nat) (c : Ctx),
    Free s [a] → curSlot s = some slot → getCtx s slot = some c →
    let l := atIssue s
    let x := rdS s.core a
    let level := fun (img n : Nat) => img / 4 ^ n % 4
    let legal := x.toNat < 2 ^ 32 ∧ ∀ n, n < 16 → level x.toNat n ≠ 3
    let waits := fun (v : Window) => ∃ k, v.base / 64 ≤ k ∧ 64 * k < v.base + v.len ∧ lookup l slot (64 * k) = .error codeRetry
    (s.core.tstat.getLsbD 0 = false → exec (.halt idle) s = retired idle (withCore l { l.core with halted := true })) ∧
    (Sparse.find c.wins w.toNat = none → exec (.publish idle w) s = traps s 0x0A (w.setWidth 64)) ∧
    (∀ v, Sparse.find c.wins w.toNat = some v → s.core.sb ≠ [] ∨ waits v → exec (.publish idle w) s = .next (stallCycle l)) ∧
    (∀ v, Sparse.find c.wins w.toNat = some v → s.core.sb = [] → ¬waits v → ∃ t c2 v2, exec (.publish idle w) s = .next t ∧
      t.core = { l.core with pc := s.core.pc + 16, ticks := s.core.ticks + 1 + idle.toNat, cycle := s.core.cycle + 1 + idle.toNat } ∧
      t.mem = s.mem ∧ getCtx t slot = some c2 ∧ c2 = { c with wins := c2.wins, phasemiss := c2.phasemiss } ∧
      (∀ k, Sparse.find c2.wins k = if k = w.toNat then some v2 else Sparse.find c.wins k) ∧
      v2 = { v with ver := (v.ver + 1) % 2 ^ 64, image := v2.image } ∧ v2.image.length = v.len ∧
      (∀ i y, i < v.len → engLoad l slot 0 (v.base + i) 1 = .ok y → v2.image[i]? = some (.ofNat 8 y)) ∧
      (∀ ep fn, c.host = some (ep, fn) → linkOpen s ep = true → t.hostLog = s.hostLog ++ [.window slot w.toNat v.vaddr v2.ver]) ∧
      (c.host = none → t.hostLog = s.hostLog) ∧
      (∀ ep fn, c.host = some (ep, fn) → linkOpen s ep = false → t.hostLog = s.hostLog)) ∧
    (legal → ∃ t c2, exec (.setphase idle a lead) s = .next t ∧
      t.core = { l.core with pc := s.core.pc + 16, ticks := s.core.ticks + 1 + idle.toNat, cycle := s.core.cycle + 1 + idle.toNat } ∧
      t.mem = s.mem ∧ getCtx t slot = some c2 ∧ c2 = { c with phase := phaseNow (gtimeOf s) c, phasePend := c2.phasePend, wakeFrom := c2.wakeFrom } ∧
      ∀ n, n < 16 → Sparse.find c2.phasePend n =
        if level x.toNat n = level c2.phase n then none
        else some { level := level x.toNat n, due := gtimeOf s + 100 * lead.toNat, since := devNs s }) ∧
    (¬legal → exec (.setphase idle a lead) s = traps s 1 x)

/-- R74: TRAP, as its rule gives it: alone in its bundle; its bundle completes, and the trap is taken with EPC the next bundle, CAUSE 0x10, CODE, SLOT 1 and TVAL 0. Inside a handler it is a
double trap, which checkstops the core. -/
def Obligations.TrapInstruction : Prop :=
  ∀ (s u : State) (idle : BitVec 3) (code : BitVec 13) (w : Nat), running s = true →
    let t : Trap := { cause := 0x10, slot := 1, code := code.toNat, tval := 0, bundle := 0, emu := false }
    let tn := s.core.ticks + 1 + idle.toNat
    (s.core.tstat.getLsbD 0 = false → Recorded t (s.core.pc + 16) tn (atIssue s) u → ∃ v, exec (.trap idle code) s = .next v ∧
      v.core.epc = s.core.pc + 16 ∧ bits v.core.tcause.toNat 7 0 = 0x10 ∧ bits v.core.tcause.toNat 10 8 = 1 ∧ bits v.core.tcause.toNat 28 16 = code.toNat ∧
      v.core.tval = 0 ∧ v.core.tstat = 1 ∧ v.core.pc = s.core.tvec &&& 0xFFFFFFFFFFFFFFF0) ∧
    (s.core.tstat.getLsbD 0 = true → exec (.trap idle code) s = .next (checkstop 7 0 (atIssue s))) ∧
    (decodeS (w % 2 ^ 32) = .ok (.trap idle code) → w / 2 ^ 32 % 2 ^ 96 ≠ 0 → ∃ slot e, decodeBundle w = .error (slot, e) ∧ e.isEmulate = false)

namespace Sys2Proof.Claims
open Sys2Proof.Machine

/-- A V or M bundle with these scalar registers, vector groups and predicates meets no pending write and no parity error. -/
def Ready (s : State) (l : List (BitVec 5)) (gs : List (BitVec 8)) (ps : List (BitVec 4)) : Prop :=
  Free s l ∧ Sound s (gs.flatMap grpRegs) (ps.map (·.toNat))

/-- Element `j` of register `k` of a group, under format `f`, as the bundle reads it at issue. -/
def el (s : State) (f : Nat) (g : BitVec 8) (k j : Nat) : El := (elsF f (rdV (atIssue s).core (grpN g + k))).getD j El.zero

/-- Bit `j` of a predicate at issue. -/
def active (s : State) (p : BitVec 4) (j : Nat) : Bool := pbit (rdP (atIssue s).core p) j

/-- The result registers of a V instruction of latency `lat`: register `k` of the group lands `lat` ticks on, its element `j` the given one
where `act` holds, else what it held at issue (R54, R56, R83). -/
def vecs (s : State) (lat b : Nat) (d : BitVec 8) (act : Nat → Nat → Bool) (r : Nat → Nat → El) : List Inflight :=
  (List.range (grpW d)).map fun k =>
    { land := s.core.ticks + lat, kind := .vec, preg := physV s.core (grpN d + k),
      val :=
        let old := rdV (atIssue s).core (grpN d + k)
        let puts := fun (w v : Nat) (x : Nat → Nat) => joinEls w ((List.range (4096 / b)).map fun j => if act k j then x j else v / 2 ^ (w * j))
        { bits := .ofNat 4096 (puts b old.bits.toNat fun j => (r k j).x),
          pz := .ofNat 1024 (puts (b / 4) old.pz.toNat fun j => if (r k j).z then 2 ^ (b / 4) - 1 else 0) } }

/-- What a V instruction leaves that puts results in flight and raises flags: its bundle retires, and nothing else changes. -/
def flies (s : State) (l : List Inflight) (fl : Nat) : Host.Outcome State Fault Refusal :=
  done (withCore (atIssue s) { (atIssue s).core with inflight := (atIssue s).core.inflight ++ l, vflags := s.core.vflags ||| .ofNat 64 fl })

/-- The flags of the active positions (R143). -/
def raised (w n : Nat) (act : Nat → Nat → Bool) (r : Nat → Nat → FRes) : Nat :=
  (List.range w).foldl (fun a k => (List.range n).foldl (fun a j => if act k j then a ||| (r k j).2.2 else a) a) 0

/-- Column `col` of row `row` of a tile has a bit in an uncorrectable word, or the tile's status word is one (R186, R198): an element takes
48 bits. -/
def unread (s : State) (tile row col : Nat) : Bool :=
  s.core.badTiles.any fun w => w == (127, tile) ||
    (w.1 == tile && decide (48 * (128 * row + col) < 64 * (w.2 + 1)) && decide (64 * w.2 < 48 * (128 * row + col) + 48))

/-- The outcome `o` is that of `p`, but that each uncorrectable word of a tile's row is logged as KIND 2 of UNIT 3, as long as MCLOG has
room (R198, R397). -/
def LogsTile (s : State) (tile row : Nat) (o p : Host.Outcome State Fault Refusal) : Prop :=
  let bad := s.core.badTiles.filter fun w => w == (127, tile) || (w.1 == tile && decide (96 * row ≤ w.2) && decide (w.2 < 96 * row + 96))
  ∃ t, o = .next t ∧ p = .next { t with mclog := s.mclog, mcLost := s.mcLost, hostLog := s.hostLog } ∧
    t.mclog = (s.mclog ++ bad.map fun w => mcEntry 2 3 s.coreNo ((curSlot s).getD 0) (w.1 * 2 ^ 16 + w.2)).take (max 64 s.mclog.length) ∧
    (bad = [] → t.hostLog = s.hostLog ∧ t.mcLost = s.mcLost)

/-- An elementwise instruction without flags. -/
def mapsEls (s : State) (lat : Nat) (ty p : BitVec 4) (d : BitVec 8) (r : Nat → Nat → El) : Host.Outcome State Fault Refusal :=
  flies s (vecs s lat (tyBits ty) d (fun _ j => active s p j) r) 0

/-- An elementwise instruction with flags: each position has its source poison and its result (R145, R146). -/
def mapsFlt (s : State) (lat : Nat) (ty p : BitVec 4) (d : BitVec 8) (z : Nat → Nat → Bool) (r : Nat → Nat → FRes) :
    Host.Outcome State Fault Refusal :=
  flies s (vecs s lat (tyBits ty) d (fun _ j => active s p j) (fun k j => { x := (r k j).1, z := z k j || (r k j).2.1 }))
    (raised (grpW d) (tyN ty) (fun _ j => active s p j) r)

/-- What an instruction leaves that writes a predicate; P0 discards (R84). -/
def setsPred (s : State) (lat : Nat) (d : BitVec 4) (f : Nat → Bool) : Host.Outcome State Fault Refusal :=
  flies s (if d = 0 then [] else
    [{ land := s.core.ticks + lat, kind := .prd, preg := physP s.core d.toNat,
       val := { bits := (ofBits ((List.range 1024).map f)).setWidth 4096, pz := 0 } }]) 0

/-- Value of an integer element (R92). -/
def val (ty : BitVec 4) (x : Nat) : Int := if isSint ty then signed (tyBits ty) x else (x % 2 ^ tyBits ty : Nat)

/-- An element of the type from an integer, saturated to its range. -/
def clamp (ty : BitVec 4) (v : Int) : Nat :=
  let b := tyBits ty
  wrapTo b (if isSint ty then max (-2 ^ (b - 1)) (min v (2 ^ (b - 1) - 1)) else max 0 (min v (2 ^ b - 1)))

/-- A signed mantissa and exponent as a multiple of 2^e, for an `e` that is not above the exponent. -/
def scaled (neg : Bool) (m : Nat) (q e : Int) : Int := (if neg then -1 else 1) * (m : Int) * 2 ^ (q - e).toNat

/-- The exact number of a finite pattern, as a multiple of 2^lo for an `lo` not above its exponent. -/
def numAt (F : Fmt) (lo : Int) (x : Nat) : Int := match fdec F x with | .fin n m e => scaled n m e lo | _ => 0

/-- The number of a pattern that is no NaN, in units of the format's least subnormal; an infinity lies beyond every finite number. -/
def numOf (F : Fmt) (x : Nat) : Int :=
  match fdec F x with
  | .inf n => (if n then -1 else 1) * 2 ^ (2 ^ F.e + F.m)
  | _ => numAt F (1 - (F.bias : Int) - F.m) x

/-- The order of R150: numeric, with −0 below +0. -/
def below (F : Fmt) (x y : Nat) : Prop :=
  numOf F x < numOf F y ∨ numOf F x = numOf F y ∧ (fdec F x).neg = true ∧ (fdec F y).neg = false

/-- `n` is X / 2H rounded to an integer (R130). -/
def nearest (m : Rmode) (n X H : Nat) : Prop :=
  match m with
  | .rne => 2 * n * H ≤ X + H ∧ X ≤ 2 * n * H + H ∧ (2 * n * H = X + H ∨ X = 2 * n * H + H → n % 2 = 0)
  | .rtz => 2 * n * H ≤ X ∧ X < 2 * n * H + 2 * H
  | .rna => 2 * n * H ≤ X + H ∧ X < 2 * n * H + H

/-- The largest finite encodings of R123's table. -/
def maxPat (f : Nat) : Nat :=
  match f with
  | 8 => 0x7E | 9 => 0x7B | 10 => 0x7BFF | 11 => 0x7F7F | 12 => 0x7F7FFFFF | 13 => 0x7FEFFFFFFFFFFFFF | 14 => 0x7 | _ => 0x1F

/-- The formats of R123 that have infinities and NaNs. -/
def hasInf (f : Nat) : Prop := 9 ≤ f ∧ f ≤ 13

/-- The exact value of a source of VCVT (R122, R123, R125, R134). -/
def source (f x : Nat) : FVal :=
  if f ≤ 7 then .fin (decide (val (.ofNat 4 f) x < 0)) (val (.ofNat 4 f) x).natAbs 0
  else if f = 17 then (if x % 256 = 255 then .nan false 0 else .fin false 1 ((x % 256 : Nat) - 127))
  else fdec (fmtOf f) x

/-- The rounding of an exact sum v · 2^e: one rounding, and a zero sum that takes the sign given (R145). -/
def rounded (F : Fmt) (m : Rmode) (v e : Int) (zero : Bool) : FRes :=
  if v = 0 then (signBit F zero, false, 0) else ((roundTo F m (decide (v < 0)) v.natAbs 1 e).1, false, (roundTo F m (decide (v < 0)) v.natAbs 1 e).2)

/-- Active elements of a group in ascending flattened position, with position (R105). -/
def actives (s : State) (ty p : BitVec 4) (a : BitVec 8) : List (Nat × El) :=
  (List.range (grpW a * tyN ty)).filterMap fun i =>
    if active s p (i % tyN ty) then some (i, el s ty.toNat a (i / tyN ty) (i % tyN ty)) else none

end Sys2Proof.Claims

/-- R92, R94: the elementwise integer instructions of two sources: element by element the table's result modulo 2^b, poisoned when a source element
is; inactive positions keep what they held; the latency is that of R55. VAND, VOR, VXOR and VANDN bit by bit, shifts by b or more give zero or
the sign. -/
def Sys2Proof.Claims.IntegerElementwiseResults : Prop :=
  ∀ (s : State) (ty p : BitVec 4) (d a b : BitVec 8), isInt ty = true → grpW d = grpW a → grpW d = grpW b → Ready s [] [a, b, d] [p] →
    let n := tyBits ty
    let x := fun k j => (el s ty.toNat a k j).x
    let y := fun k j => (el s ty.toNat b k j).x
    let z := fun k j => (el s ty.toNat a k j).z || (el s ty.toNat b k j).z
    let puts := fun lat (r : Nat → Nat → Nat) => mapsEls s lat ty p d fun k j => { x := r (x k j) (y k j), z := z k j }
    exec (.vadd ty p d a b) s = puts 2 (fun x y => (x + y) % 2 ^ n) ∧
    exec (.vsub ty p d a b) s = puts 2 (fun x y => (x + (2 ^ n - y)) % 2 ^ n) ∧
    exec (.vmul ty p d a b) s = puts 3 (fun x y => x * y % 2 ^ n) ∧
    exec (.vmulh ty p d a b) s = puts 3 (fun x y => wrapTo n (val ty x * val ty y / 2 ^ n)) ∧
    exec (.vadds ty p d a b) s = puts 2 (fun x y => clamp ty (val ty x + val ty y)) ∧
    exec (.vsubs ty p d a b) s = puts 2 (fun x y => clamp ty (val ty x - val ty y)) ∧
    exec (.vmin ty p d a b) s = puts 2 (fun x y => if val ty y < val ty x then y else x) ∧
    exec (.vmax ty p d a b) s = puts 2 (fun x y => if val ty x < val ty y then y else x) ∧
    exec (.vand ty p d a b) s = puts 2 (fun x y => x &&& y) ∧
    exec (.vor ty p d a b) s = puts 2 (fun x y => x ||| y) ∧
    exec (.vxor ty p d a b) s = puts 2 (fun x y => x ^^^ y) ∧
    exec (.vandn ty p d a b) s = puts 2 (fun x y => x &&& (y ^^^ (2 ^ n - 1))) ∧
    exec (.vshl ty p d a b) s = puts 2 (fun x y => if n ≤ y then 0 else x * 2 ^ y % 2 ^ n) ∧
    exec (.vshr ty p d a b) s = puts 2 (fun x y => if n ≤ y then 0 else x / 2 ^ y) ∧
    exec (.vsra ty p d a b) s = puts 2 (fun x y => wrapTo n (signed n x / (2 ^ min y n : Nat)))

/-- R95 to R97, R119: the integer instructions of one source, with an immediate, and VMAC, whose old destination is a source; VPCLR
clears poison and keeps bits. -/
def Sys2Proof.Claims.IntegerUnaryResults : Prop :=
  ∀ (s : State) (ty p : BitVec 4) (d a b : BitVec 8) (imm : BitVec 8), isInt ty = true → grpW d = grpW a → grpW d = grpW b →
    Ready s [] [a, b, d] [p] →
    let n := tyBits ty
    let e := el s ty.toNat
    let puts := fun lat (r : Nat → Nat) => mapsEls s lat ty p d fun k j => { x := r (e a k j).x, z := (e a k j).z }
    (isSint ty = true → exec (.vabs ty p d a) s = puts 2 (fun x => (val ty x).natAbs % 2 ^ n)) ∧
    (isSint ty = true → exec (.vneg ty p d a) s = puts 2 (fun x => (2 ^ n - x) % 2 ^ n)) ∧
    exec (.vnot ty p d a) s = puts 2 (fun x => 2 ^ n - 1 - x) ∧
    exec (.vaddi ty p d a imm) s = puts 2 (fun x => wrapTo n (val ty x + imm.toInt)) ∧
    (imm.toNat < n →
      exec (.vshli ty p d a imm) s = puts 2 (fun x => x * 2 ^ imm.toNat % 2 ^ n) ∧
      exec (.vshri ty p d a imm) s = puts 2 (fun x => x / 2 ^ imm.toNat) ∧
      exec (.vsrai ty p d a imm) s = puts 2 (fun x => wrapTo n (signed n x / (2 ^ imm.toNat : Nat)))) ∧
    exec (.vmac ty p d a b) s = mapsEls s 3 ty p d (fun k j =>
      { x := ((e d k j).x + (e a k j).x * (e b k j).x) % 2 ^ n, z := (e d k j).z || (e a k j).z || (e b k j).z }) ∧
    exec (.vpclr ty p d) s = mapsEls s 1 ty p d (fun k j => { x := (e d k j).x, z := false })

/-- R86, R98, R99: widening arithmetic is exact: position 2j + h of source register k goes to element j of register 2k + h of the next wider
type, active as its source position; VNARROW is the inverse placement with saturation. -/
def Sys2Proof.Claims.WideningAndNarrowing : Prop :=
  ∀ (s : State) (ty p : BitVec 4) (d a b : BitVec 8), isNint ty = true →
    let e := el s ty.toNat
    let wide := fun (f : Int → Int → Int) => flies s (vecs s 3 (2 * tyBits ty) d (fun k j => active s p (2 * j + k % 2))
      (fun k j => { x := wrapTo (2 * tyBits ty) (f (val ty (e a (k / 2) (2 * j + k % 2)).x) (val ty (e b (k / 2) (2 * j + k % 2)).x)),
                    z := (e a (k / 2) (2 * j + k % 2)).z || (e b (k / 2) (2 * j + k % 2)).z })) 0
    (grpW d = 2 * grpW a → grpW a = grpW b → Ready s [] [a, b, d] [p] →
      exec (.vmulw ty p d a b) s = wide (· * ·) ∧ exec (.vaddw ty p d a b) s = wide (· + ·)) ∧
    (grpW a = 2 * grpW d → Ready s [] [a, d] [p] → exec (.vnarrow ty p d a) s = mapsEls s 3 ty p d (fun k j =>
      let q := el s (wider ty).toNat a (2 * k + j % 2) (j / 2)
      { x := clamp ty (val (wider ty) q.x), z := q.z }))

/-- R95, R100 to R104, R119: moves, selections, broadcasts, insertion, comparison, and VPCLR on every type. VEXT raises POISON_STORE, with SLOT 2 and TVAL 0, on a
poisoned element, and reads zero beyond the register. -/
def Sys2Proof.Claims.MovesAndComparisons : Prop :=
  ∀ (s : State) (ty p c : BitVec 4) (pd : BitVec 4) (d a b : BitVec 8) (ra rb rd : BitVec 5) (imm : BitVec 16) (cond : BitVec 8),
    Ready s [ra, rb, rd] [a, b, d] [p, c] →
    let e := el s ty.toNat
    let n := tyBits ty
    let x := rdS s.core ra
    let i := (rdS s.core rb).toNat
    let sc := x.toNat % 2 ^ (if ty = 15 then 6 else n)
    (grpW d = grpW a → exec (.vmov ty p d a) s = mapsEls s 2 ty p d (e a)) ∧
    (grpW d = grpW a → grpW d = grpW b →
      exec (.vsel ty p d a b c) s = mapsEls s 2 ty p d (fun k j => if active s c j then e a k j else e b k j)) ∧
    exec (.vsplat ty p d ra) s = mapsEls s 2 ty p d (fun _ _ => { x := sc, z := false }) ∧
    exec (.vsplati ty p d imm) s = mapsEls s 2 ty p d (fun _ _ =>
      { x := if ty = 4 then wrapTo 32 imm.toInt else imm.toNat % 2 ^ n, z := false }) ∧
    (grpW d = 1 → exec (.vins ty p d ra rb) s =
      flies s (vecs s 2 n d (fun _ j => j == i && active s p j) (fun _ _ => { x := sc, z := false })) 0) ∧
    (grpW a = 1 → tyN ty ≤ i → exec (.vext ty rd a rb) s = done (withCore (atIssue s) (wrSL (atIssue s).core 4 rd 0))) ∧
    (grpW a = 1 → i < tyN ty → (e a 0 i).z = false → exec (.vext ty rd a rb) s = done (withCore (atIssue s)
      (wrSL (atIssue s).core 4 rd (if isSint ty then .ofInt 64 (signed n (e a 0 i).x) else .ofNat 64 (e a 0 i).x)))) ∧
    (grpW a = 1 → i < tyN ty → (e a 0 i).z = true → exec (.vext ty rd a rb) s =
      .next (takeTrap (mkTrap 0x11 2 0) s.core.pc s.core.ticks (atIssue s))) ∧
    (isInt ty = true → grpW a = 1 → grpW b = 1 → cond.toNat < 6 → exec (.vcmp ty p pd a b cond) s = setsPred s 2 pd fun j =>
      let u := val ty (e a 0 j).x
      let v := val ty (e b 0 j).x
      decide (j < tyN ty) && active s p j && !((e a 0 j).z || (e b 0 j).z) &&
        (match cond.toNat with
         | 0 => u == v | 1 => u != v | 2 => decide (u < v) | 3 => decide (u ≤ v) | 4 => decide (v < u) | _ => decide (v ≤ u))) ∧
    (isFpa ty = true → grpW a = 1 → grpW b = 1 → cond.toNat < 8 → exec (.vcmp ty p pd a b cond) s = setsPred s 4 pd fun j =>
      decide (j < tyN ty) && active s p j && !((e a 0 j).z || (e b 0 j).z) && fCmp (fmtOf ty.toNat) cond.toNat (e a 0 j).x (e b 0 j).x) ∧
    exec (.vpclr ty p d) s = mapsEls s 1 ty p d (fun k j => { x := (e d k j).x, z := false }) ∧
    (grpW a = 1 → exec (.vptest ty p pd a) s = setsPred s 2 pd fun j => decide (j < tyN ty) && active s p j && (e a 0 j).z)

/-- R124, R152: the eight conditions of VCMP on a floating-point type: by number, −0 equal to +0, unordered where an operand is a NaN. -/
def Sys2Proof.Claims.FloatComparisons : Prop :=
  ∀ (ty : BitVec 4) (x y : Nat), isFpa ty = true →
    let F := fmtOf ty.toNat
    let un := (fdec F x).isNan = true ∨ (fdec F y).isNan = true
    (fCmp F 0 x y = true ↔ ¬un ∧ numOf F x = numOf F y) ∧ (fCmp F 1 x y = true ↔ un ∨ numOf F x ≠ numOf F y) ∧
    (fCmp F 2 x y = true ↔ ¬un ∧ numOf F x < numOf F y) ∧ (fCmp F 3 x y = true ↔ ¬un ∧ numOf F x ≤ numOf F y) ∧
    (fCmp F 4 x y = true ↔ ¬un ∧ numOf F y < numOf F x) ∧ (fCmp F 5 x y = true ↔ ¬un ∧ numOf F y ≤ numOf F x) ∧
    (fCmp F 6 x y = true ↔ un) ∧ (fCmp F 7 x y = true ↔ ¬un)

/-- R84, R116 to R118: the predicate instructions: results land after one tick, bits of inactive positions are 0; PPOPC and PFIRST count over the
positions of the element type. -/
def Sys2Proof.Claims.PredicateResults : Prop :=
  ∀ (s : State) (ty p d a b : BitVec 4) (rd : BitVec 5) (imm : BitVec 16), Ready s [rd] [] [p, a, b] →
    let q := active s
    exec (.pand ty p d a b) s = setsPred s 1 d (fun j => q p j && (q a j && q b j)) ∧
    exec (.por ty p d a b) s = setsPred s 1 d (fun j => q p j && (q a j || q b j)) ∧
    exec (.pxor ty p d a b) s = setsPred s 1 d (fun j => q p j && (q a j != q b j)) ∧
    exec (.pandn ty p d a b) s = setsPred s 1 d (fun j => q p j && (q a j && !q b j)) ∧
    exec (.pnot ty p d a) s = setsPred s 1 d (fun j => q p j && !q a j) ∧
    exec (.pseti ty d imm) s = setsPred s 1 d (fun j => decide (j < imm.toNat)) ∧
    exec (.ppopc ty p rd a) s = done (withCore (atIssue s) (wrSL (atIssue s).core 4 rd
      (.ofNat 64 ((List.range (tyN ty)).countP fun j => q a j && q p j)))) ∧
    (∃ r, exec (.pfirst ty p rd a) s = done (withCore (atIssue s) (wrSL (atIssue s).core 4 rd (.ofNat 64 r))) ∧ r ≤ tyN ty ∧
      (∀ j, j < r → (q a j && q p j) = false) ∧ (r < tyN ty → (q a r && q p r) = true)) ∧
    exec .vnop s = flies s [] 0

/-- R142 to R152, R160 to R162: the elementwise floating-point instructions. Each element is its operation of the model on the elements, under the
rounding mode of VFLAGS where the operation has one; poison of a source or an invalid operation poisons it; active positions raise flags. -/
def Sys2Proof.Claims.FloatElementwiseResults : Prop :=
  ∀ (s : State) (ty p : BitVec 4) (d a b c : BitVec 8), isFpa ty = true → grpW d = grpW a → grpW d = grpW b → grpW d = grpW c →
    Ready s [] [a, b, c, d] [p] →
    let F := fmtOf ty.toNat
    let m := rmOf s.core
    let n := tyBits ty
    let x := fun k j => (el s ty.toNat a k j).x
    let y := fun k j => (el s ty.toNat b k j).x
    let w := fun k j => (el s ty.toNat c k j).x
    let za := fun k j => (el s ty.toNat a k j).z
    let zb := fun k j => za k j || (el s ty.toNat b k j).z
    let zc := fun k j => zb k j || (el s ty.toNat c k j).z
    exec (.vadd ty p d a b) s = mapsFlt s 4 ty p d zb (fun k j => fAdd F m false (x k j) (y k j)) ∧
    exec (.vsub ty p d a b) s = mapsFlt s 4 ty p d zb (fun k j => fAdd F m true (x k j) (y k j)) ∧
    exec (.vmul ty p d a b) s = mapsFlt s 4 ty p d zb (fun k j => fMul F m (x k j) (y k j)) ∧
    exec (.vmin ty p d a b) s = mapsEls s 4 ty p d (fun k j => { x := fMinMax F false (x k j) (y k j), z := zb k j }) ∧
    exec (.vmax ty p d a b) s = mapsEls s 4 ty p d (fun k j => { x := fMinMax F true (x k j) (y k j), z := zb k j }) ∧
    exec (.vabs ty p d a) s = mapsEls s 4 ty p d (fun k j => { x := x k j % 2 ^ (n - 1), z := za k j }) ∧
    exec (.vneg ty p d a) s = mapsEls s 4 ty p d (fun k j => { x := (x k j + 2 ^ (n - 1)) % 2 ^ n, z := za k j }) ∧
    exec (.vfma ty p d a b c) s = mapsFlt s 4 ty p d zc (fun k j => fFma F m false false (x k j) (y k j) (w k j)) ∧
    exec (.vfms ty p d a b c) s = mapsFlt s 4 ty p d zc (fun k j => fFma F m false true (x k j) (y k j) (w k j)) ∧
    exec (.vfnma ty p d a b c) s = mapsFlt s 4 ty p d zc (fun k j => fFma F m true false (x k j) (y k j) (w k j)) ∧
    (isApx ty = true →
      exec (.vrcp ty p d a) s = mapsFlt s 5 ty p d za (fun k j => fRcp F (x k j)) ∧
      exec (.vrsq ty p d a) s = mapsFlt s 5 ty p d za (fun k j => fRsq F (x k j)) ∧
      exec (.vrcpn ty p d a b) s = mapsFlt s 4 ty p d zb (fun k j => fNewton F false (x k j) (y k j)) ∧
      exec (.vrsqn ty p d a b) s = mapsFlt s 4 ty p d zb (fun k j => fNewton F true (x k j) (y k j)) ∧
      exec (.vexp2 ty p d a) s = mapsFlt s 8 ty p d za (fun k j => fExp2 F (x k j)) ∧
      exec (.vlog2 ty p d a) s = mapsFlt s 8 ty p d za (fun k j => fLog2 F (x k j)))

/-- R150: VMIN and VMAX: the other operand beside one NaN, the first NaN of two, quietened, and else the lesser or the greater, −0 below
+0; of equal operands the first. -/
def Sys2Proof.Claims.FloatExtremes : Prop :=
  ∀ (ty : BitVec 4) (x y : Nat), isFpa ty = true →
    let F := fmtOf ty.toNat
    (∀ mx, ((fdec F x).isNan = true → (fdec F y).isNan = true → fMinMax F mx x y = quiet F x) ∧
      ((fdec F x).isNan = true → (fdec F y).isNan = false → fMinMax F mx x y = y) ∧
      ((fdec F x).isNan = false → (fdec F y).isNan = true → fMinMax F mx x y = x)) ∧
    ((fdec F x).isNan = false → (fdec F y).isNan = false →
      (below F y x → fMinMax F false x y = y) ∧ (¬below F y x → fMinMax F false x y = x) ∧
      (below F x y → fMinMax F true x y = y) ∧ (¬below F x y → fMinMax F true x y = x))

/-- R145, R146, R148: an element of VADD, VSUB or VMUL: the first NaN of the sources, quietened; opposite infinities in a sum, and an infinity
times zero, are invalid: the default NaN, poisoned, IV; an infinity otherwise wins; and of two finite values the exact sum, difference or
product rounded once, where a zero sum is +0 unless both terms are −0. -/
def Sys2Proof.Claims.FloatSumsAndProducts : Prop :=
  ∀ (ty : BitVec 4) (m : Rmode) (sub : Bool) (x y : Nat), isFpa ty = true →
    let F := fmtOf ty.toNat
    let n := (fdec F x).isNan || (fdec F y).isNan
    let sy := (fdec F y).neg != sub
    ((fdec F x).isNan = true → fAdd F m sub x y = (quiet F x, false, 0) ∧ fMul F m x y = (quiet F x, false, 0)) ∧
    ((fdec F x).isNan = false → (fdec F y).isNan = true →
      fAdd F m sub x y = (quiet F y, false, 0) ∧ fMul F m x y = (quiet F y, false, 0)) ∧
    (n = false → (fdec F x).isInf = true → (fdec F y).isInf = true → (fdec F x).neg ≠ sy → fAdd F m sub x y = (dnan F, true, flIV)) ∧
    (n = false → (fdec F x).isInf = true → (fdec F y).isInf = true → (fdec F x).neg = sy →
      fAdd F m sub x y = (infPat F (fdec F x).neg, false, 0)) ∧
    (n = false → (fdec F x).isInf = true → (fdec F y).isInf = false → fAdd F m sub x y = (infPat F (fdec F x).neg, false, 0)) ∧
    (n = false → (fdec F x).isInf = false → (fdec F y).isInf = true → fAdd F m sub x y = (infPat F sy, false, 0)) ∧
    (∀ nx mx ex ny my ey, fdec F x = .fin nx mx ex → fdec F y = .fin ny my ey →
      let e := min ex ey
      let v := scaled nx mx ex e + scaled (ny != sub) my ey e
      (v ≠ 0 → fAdd F m sub x y =
        ((roundTo F m (decide (v < 0)) v.natAbs 1 e).1, false, (roundTo F m (decide (v < 0)) v.natAbs 1 e).2)) ∧
      (v = 0 → fAdd F m sub x y = (signBit F (nx && (ny != sub) && mx == 0 && my == 0), false, 0))) ∧
    (n = false → (fdec F x).isInf = true → (fdec F y).isZero = true → fMul F m x y = (dnan F, true, flIV)) ∧
    (n = false → (fdec F x).isInf = true → (fdec F y).isZero = false →
      fMul F m x y = (infPat F ((fdec F x).neg != (fdec F y).neg), false, 0)) ∧
    (∀ nx mx ex ny my ey, fdec F x = .fin nx mx ex → fdec F y = .fin ny my ey → mx ≠ 0 → my ≠ 0 →
      fMul F m x y = ((roundTo F m (nx != ny) (mx * my) 1 (ex + ey)).1, false, (roundTo F m (nx != ny) (mx * my) 1 (ex + ey)).2)) ∧
    (n = false → fMul F m x y = fMul F m y x ∧ fAdd F m false x y = fAdd F m false y x)

/-- R145, R146, R149: an element of VFMA, VFMS and VFNMA, by the signs `negP` and `negC` that they give the product and the addend: the
first NaN; an infinity times zero, or opposite infinities in the sum, invalid; an infinity otherwise wins; and of finite values the exact
sum rounded once. -/
def Sys2Proof.Claims.FusedSums : Prop :=
  ∀ (ty : BitVec 4) (m : Rmode) (negP negC : Bool) (a b c : Nat), isFpa ty = true →
    let F := fmtOf ty.toNat
    let A := fdec F a
    let B := fdec F b
    let C := fdec F c
    let r := fFma F m negP negC a b c
    let sp := (A.neg != B.neg) != negP
    let sc := C.neg != negC
    let clear := A.isNan = false ∧ B.isNan = false ∧ C.isNan = false
    (A.isNan = true → r = (quiet F a, false, 0)) ∧ (A.isNan = false → B.isNan = true → r = (quiet F b, false, 0)) ∧
    (A.isNan = false → B.isNan = false → C.isNan = true → r = (quiet F c, false, 0)) ∧
    (clear → A.isInf = true ∧ B.isZero = true ∨ A.isZero = true ∧ B.isInf = true → r = (dnan F, true, flIV)) ∧
    (clear → A.isInf = true ∧ B.isZero = false ∨ A.isZero = false ∧ B.isInf = true →
      r = if C.isInf = true ∧ sc ≠ sp then (dnan F, true, flIV) else (infPat F sp, false, 0)) ∧
    (clear → A.isInf = false → B.isInf = false → C.isInf = true → r = (infPat F sc, false, 0)) ∧
    (∀ na ma ea nb mb eb nc mc ec, A = .fin na ma ea → B = .fin nb mb eb → C = .fin nc mc ec →
      let e := min (ea + eb) ec
      let v := scaled sp (ma * mb) (ea + eb) e + scaled sc mc ec e
      (v ≠ 0 → r = ((roundTo F m (decide (v < 0)) v.natAbs 1 e).1, false, (roundTo F m (decide (v < 0)) v.natAbs 1 e).2)) ∧
      (v = 0 → r = (signBit F (sp && sc && ma * mb == 0 && mc == 0), false, 0)))

/-- R145 to R147, R160 to R162: the special cases of VRCP, VRSQ, VEXP2 and VLOG2, with subnormal sources as zeros, and the Newton steps: the
first NaN, the approximation itself where a source is no use, and else the exact step rounded once. A finite VRCP or VRSQ is the reciprocal,
or that of the root, rounded to twelve bits, then to the type, then flushed. VEXP2 of an integer and VLOG2 of a power of two are exact;
between two integers VEXP2 lies between their powers, and between two powers VLOG2 lies between their logarithms, and both are inexact: which of
the numbers there it is, this statement does not say (log 14). -/
def Sys2Proof.Claims.ApproximationResults : Prop :=
  ∀ (ty : BitVec 4) (x y : Nat), isApx ty = true →
    let F := fmtOf ty.toNat
    let tiny := x / 2 ^ F.m % 2 ^ F.e = 0
    let bad : FRes := (dnan F, true, flIV)
    ((fdec F x).isNan = true → fRcp F x = (quiet F x, false, 0) ∧ fRsq F x = (quiet F x, false, 0) ∧
      fExp2 F x = (quiet F x, false, 0) ∧ fLog2 F x = (quiet F x, false, 0)) ∧
    (tiny → fRcp F x = (infPat F (fdec F x).neg, false, flDZ) ∧ fRsq F x = (infPat F (fdec F x).neg, false, flDZ) ∧
      fExp2 F x = (F.bias * 2 ^ F.m, false, 0) ∧ fLog2 F x = (infPat F true, false, flDZ)) ∧
    (∀ n, fdec F x = .inf n → fRcp F x = (signBit F n, false, 0) ∧ fRsq F x = (if n then bad else (0, false, 0)) ∧
      fExp2 F x = (if n then 0 else infPat F false, false, 0) ∧ fLog2 F x = (if n then bad else (infPat F false, false, 0))) ∧
    (∀ k e, fdec F x = .fin true k e → ¬tiny → fRsq F x = bad ∧ fLog2 F x = bad) ∧
    (∀ n k e, fdec F x = .fin n k e → ¬tiny → ∃ (h : Nat) (q : Int), 2 ^ 11 ≤ h ∧ h ≤ 2 ^ 12 ∧ q + e ≤ 0 ∧
      2 * ((h * k : Int) - 2 ^ (-(q + e)).toNat).natAbs ≤ k ∧
      let o := roundTo F .rne n h 1 q
      fRcp F x = if o.1 % 2 ^ (F.e + F.m) < 2 ^ F.m then (signBit F n, false, flUF + flIX)
        else (o.1, false, o.2 ||| (if h * k = 2 ^ (-(q + e)).toNat then 0 else flIX))) ∧
    (∀ k e, fdec F x = .fin false k e → ¬tiny → ∃ (h : Nat) (q : Int), 2 ^ 11 ≤ h ∧ h ≤ 2 ^ 12 ∧ e + 2 * q ≤ 0 ∧
      (2 * h - 1) * (2 * h - 1) * k ≤ 4 * 2 ^ (-(e + 2 * q)).toNat ∧ 4 * 2 ^ (-(e + 2 * q)).toNat ≤ (2 * h + 1) * (2 * h + 1) * k ∧
      let o := roundTo F .rne false h 1 q
      fRsq F x = if o.1 % 2 ^ (F.e + F.m) < 2 ^ F.m then (0, false, flUF + flIX)
        else (o.1, false, o.2 ||| (if h * h * k = 2 ^ (-(e + 2 * q)).toNat then 0 else flIX))) ∧
    (∀ n k e, fdec F x = .fin n k e → ¬tiny →
      let v : Int := scaled n k e (min e 0)
      let one : Int := 2 ^ (-min e 0).toNat
      ∀ i : Int, i * one ≤ v → v < (i + 1) * one →
        (1 - (F.bias : Int) ≤ i → i ≤ F.bias → v = i * one → fExp2 F x = ((i + F.bias).toNat * 2 ^ F.m, false, 0)) ∧
        (1 - (F.bias : Int) ≤ i → i ≤ F.bias → v ≠ i * one → (i + F.bias).toNat * 2 ^ F.m ≤ (fExp2 F x).1 ∧
          (fExp2 F x).1 ≤ (i + 1 + F.bias).toNat * 2 ^ F.m ∧ (fExp2 F x).2.1 = false ∧ (fExp2 F x).2.2 % 2 = 1) ∧
        ((F.bias : Int) < i → fExp2 F x = (infPat F false, false, flOF + flIX)) ∧
        (i = -(F.bias : Int) → fExp2 F x = (0, false, flUF + flIX) ∨ v ≠ i * one ∧ fExp2 F x = (2 ^ F.m, false, flIX)) ∧
        (i < -(F.bias : Int) → fExp2 F x = (0, false, flUF + flIX))) ∧
    (∀ k e, fdec F x = .fin false k e → ¬tiny → k ≠ 2 ^ k.log2 →
      let one : Int := 2 ^ ((F.bias : Int) + F.m - 1).toNat
      (k.log2 + e) * one ≤ numOf F (fLog2 F x).1 ∧ numOf F (fLog2 F x).1 ≤ (k.log2 + e + 1) * one ∧
        (fdec F (fLog2 F x).1).isNan = false ∧ (fLog2 F x).2.1 = false ∧ (fLog2 F x).2.2 % 2 = 1) ∧
    (∀ k e, fdec F x = .fin false k e → ¬tiny → k = 2 ^ k.log2 → fLog2 F x =
      ((roundInt2 F .rne false (k.log2 + e) 0).1, false, (roundInt2 F .rne false (k.log2 + e) 0).2)) ∧
    (∀ rsq, ((fdec F y).isNan = true → fNewton F rsq y x = (quiet F y, false, 0)) ∧
      ((fdec F y).isNan = false → (fdec F x).isNan = true → fNewton F rsq y x = (quiet F x, false, 0)) ∧
      ((fdec F y).isNan = false → (fdec F x).isNan = false →
        (fdec F x).isInf = true ∨ tiny ∨ (fdec F y).isInf = true ∨ (fdec F y).isZero = true → fNewton F rsq y x = (y, false, 0))) ∧
    (∀ nx mx ex ny my ey, fdec F x = .fin nx mx ex → fdec F y = .fin ny my ey → ¬tiny → my ≠ 0 →
      let e1 := min ey (ex + 2 * ey)
      let r1 := roundInt2 F .rne false (scaled ny (2 * my) ey e1 + scaled (!nx) (mx * my * my) (ex + 2 * ey) e1) e1
      let e2 := min (ey - 1) (ex + 3 * ey - 1)
      let r2 := roundInt2 F .rne false (scaled ny (3 * my) (ey - 1) e2 + scaled (nx == ny) (mx * my * my * my) (ex + 3 * ey - 1) e2) e2
      fNewton F false y x = (r1.1, false, r1.2) ∧ fNewton F true y x = (r2.1, false, r2.2))

/-- R123, R130, R131: round_to on a fraction num/den · 2^e into any floating-point format. A zero keeps its sign. Else let 2^q be the weight of
the last mantissa bit, and `n` the fraction over that weight, rounded to an integer to nearest with ties to even, toward zero, or to nearest
with ties away. Where n · 2^q does not exceed the largest finite number it is the result, with the sign of the source: exact, or IX, and UF below the smallest
normal; else the result is an infinity where the format has one and the mode is not RTZ, and the largest finite number otherwise, with OF and IX. -/
def Sys2Proof.Claims.RoundingProcedure : Prop :=
  (flIX = 1 ∧ flUF = 2 ∧ flOF = 4 ∧ flDZ = 8 ∧ flIV = 16) ∧
  (∀ (f : Nat) (m : Rmode) (neg : Bool) (e q u : Int) (num den n : Nat), 8 ≤ f → f ≤ 16 → 0 < num → 0 < den →
    let F := fmtOf f
    let lo : Int := 1 - (F.bias : Int) - F.m
    let X := num * 2 ^ (e - u).toNat
    let H := den * 2 ^ (q - 1 - u).toNat
    let y : Int := n * 2 ^ (q - lo).toNat
    let r := roundTo F m neg num den e
    u ≤ e → u < q → (q = lo ∨ lo < q ∧ 2 ^ F.m * (2 * H) ≤ X) → X < 2 ^ (F.m + 1) * (2 * H) → nearest m n X H →
    (y ≤ numOf F (maxPat f) → (fdec F r.1).isNan = false ∧ (fdec F r.1).isInf = false ∧ numOf F r.1 = (if neg then -y else y) ∧ (fdec F r.1).neg = neg ∧
      r.1 < 2 ^ (F.e + F.m + 1) ∧ r.2 = if X = 2 * n * H then 0 else flIX + if y < 2 ^ F.m then flUF else 0) ∧
    (numOf F (maxPat f) < y → (hasInf f → m ≠ .rtz → r = (infPat F neg, flOF + flIX)) ∧
      (¬hasInf f ∨ m = .rtz → r = (signBit F neg + maxPat f, flOF + flIX)))) ∧
  ∀ (ty : BitVec 4) (m : Rmode) (neg : Bool) (e : Int) (num : Nat), isFpa ty = true →
    let F := fmtOf ty.toNat
    roundTo F m neg 0 1 e = (signBit F neg, 0) ∧
    (0 < num → num < 2 ^ (F.m + 1) → 1 - (F.bias : Int) - F.m ≤ e → e ≤ (F.bias : Int) - F.m →
      ∃ m2 e2, fdec F (roundTo F m neg num 1 e).1 = .fin neg m2 e2 ∧ (roundTo F m neg num 1 e).2 = 0 ∧
        (num : Int) * 2 ^ (e - (1 - (F.bias : Int) - F.m)).toNat = m2 * 2 ^ (e2 - (1 - (F.bias : Int) - F.m)).toNat) ∧
    (0 < num → (F.bias : Int) < e →
      roundTo F m neg num 1 e = (if m = .rtz then signBit F neg + maxfin F else infPat F neg, flOF + flIX))

/-- R105 to R108, R153 to R155: reductions, scans, VPPOPC and VTOPK. A reduction's element 0 is computed over the active elements in order and
the rest is zero; VTOPK gives the k active elements of greatest rank, lower positions first among equals, with their positions. -/
def Sys2Proof.Claims.ReductionsScansAndRanks : Prop :=
  ∀ (s : State) (ty p pa : BitVec 4) (d a b : BitVec 8) (imm : BitVec 8), Ready s [] [a, b, d] [p, pa] →
    let F := fmtOf ty.toNat
    let m := rmOf s.core
    let n := tyBits ty
    let l := actives s ty p a
    let whole := fun (_ _ : Nat) => true
    let vals := l.map fun q => val ty q.2.x
    let pats := l.map fun q => q.2.x
    let red := fun (r : FRes) => flies s (vecs s 6 n d whole fun _ j =>
      if j = 0 then { x := r.1, z := l.any (·.2.z) || r.2.1 } else El.zero) r.2.2
    let upto := fun k j => (actives s ty p a).filter fun q => decide (q.1 ≤ k * tyN ty + j)
    (grpW d = 1 → isInt ty = true →
      exec (.vredadd ty p d a) s = red (wrapTo n vals.sum, false, 0) ∧
      (∃ x, exec (.vredmin ty p d a) s = red (wrapTo n x, false, 0) ∧ (∀ v ∈ vals, x ≤ v) ∧ (vals = [] ∧ x = intHi ty.toNat ∨ x ∈ vals)) ∧
      (∃ x, exec (.vredmax ty p d a) s = red (wrapTo n x, false, 0) ∧ (∀ v ∈ vals, v ≤ x) ∧ (vals = [] ∧ x = intLo ty.toNat ∨ x ∈ vals))) ∧
    (grpW d = 1 → isFpa ty = true →
      exec (.vredadd ty p d a) s = red (fRedAdd F m pats) ∧
      exec (.vredmin ty p d a) s = red (fRedMinMax F false pats, false, 0) ∧
      exec (.vredmax ty p d a) s = red (fRedMinMax F true pats, false, 0)) ∧
    (grpW d = grpW a → isInt ty = true → exec (.vscan ty p d a) s = mapsEls s 8 ty p d fun k j =>
      { x := wrapTo n ((upto k j).map fun q => val ty q.2.x).sum, z := (upto k j).any (·.2.z) }) ∧
    (grpW d = grpW a → isFpa ty = true → exec (.vscan ty p d a) s = mapsFlt s 8 ty p d (fun k j => (upto k j).any (·.2.z))
      fun k j => fRedAdd F m ((upto k j).map fun q => q.2.x)) ∧
    (grpW d * tyN ty ≤ 1024 → exec (.vppopc ty p d pa) s = mapsEls s 4 ty p d fun k j =>
      { x := (List.range (k * tyN ty + j)).countP (active s pa), z := false }) ∧
    (isInt ty = true ∨ isApx ty = true → grpW d = 1 → grpW b = 1 → topkK imm ≤ tyN ty → ∃ top : List (Nat × El),
      exec (.vtopk ty p d a b imm) s = flies s
        (vecs s 16 n d whole (fun _ j => if j < topkK imm then (match top[j]? with | some t => t.2 | none => { x := topFill ty, z := false }) else El.zero) ++
         vecs s 16 16 b whole (fun _ j => if j < topkK imm then (match top[j]? with | some t => { x := t.1, z := t.2.z } | none => { x := 0xFFFF, z := false }) else El.zero)) 0 ∧
      top.length = min (topkK imm) l.length ∧ (∀ c ∈ top, c ∈ l) ∧
      top.Pairwise (fun x y => topRank ty y.2.x < topRank ty x.2.x ∨ (topRank ty x.2.x = topRank ty y.2.x ∧ x.1 < y.1)) ∧
      ∀ c ∈ l, c ∉ top → ∀ t ∈ top,
        topRank ty c.2.x < topRank ty t.2.x ∨ (topRank ty c.2.x = topRank ty t.2.x ∧ t.1 < c.1))

/-- R145, R146, R153, R154, R108, R92: what VREDADD, VREDMIN, VREDMAX and a prefix of VSCAN make of the active elements in order, and the rank by
which VTOPK orders: numeric, every NaN below −Inf and all NaNs equal. -/
def Sys2Proof.Claims.FloatReductions : Prop :=
  ∀ (ty : BitVec 4) (m : Rmode) (l : List Nat), isFpa ty = true →
    let F := fmtOf ty.toNat
    let real := fun x => (fdec F x).isNan = false
    let holds := fun b => ∃ x ∈ l, fdec F x = .inf b
    (l = [] → fRedAdd F m l = (0, false, 0) ∧ fRedMinMax F false l = infPat F false ∧ fRedMinMax F true l = infPat F true) ∧
    (∀ l1 x l2, l = l1 ++ x :: l2 → (∀ y ∈ l1, real y) → (fdec F x).isNan = true → fRedAdd F m l = (quiet F x, false, 0)) ∧
    ((∀ x ∈ l, real x) → holds true → holds false → fRedAdd F m l = (dnan F, true, flIV)) ∧
    ((∀ x ∈ l, real x) → ∀ b, holds b → ¬holds (!b) → fRedAdd F m l = (infPat F b, false, 0)) ∧
    ((∀ x ∈ l, real x) → ¬holds true → ¬holds false → l ≠ [] →
      fRedAdd F m l = rounded F m (l.map (numOf F)).sum (1 - (F.bias : Int) - F.m) (l.all fun x => (fdec F x).neg && (fdec F x).isZero)) ∧
    (∀ mx x r, l = x :: r → (∀ y ∈ l, ¬real y) → fRedMinMax F mx l = quiet F x) ∧
    ((∃ x ∈ l, real x) →
      (fRedMinMax F false l ∈ l ∧ real (fRedMinMax F false l) ∧ ∀ y ∈ l, real y → ¬below F y (fRedMinMax F false l)) ∧
      fRedMinMax F true l ∈ l ∧ real (fRedMinMax F true l) ∧ ∀ y ∈ l, real y → ¬below F (fRedMinMax F true l) y) ∧
    (∀ x y, topRank ty x < topRank ty y ↔ real y ∧ (real x → numOf F x < numOf F y)) ∧
    ∀ (t : BitVec 4) (x : Nat), isInt t = true → topRank t x = val t x

/-- R114, R127: a CB2 code's element in eighths: twice the magnitude of its palette entry plus the code's low bit, with the sign bits of the code, whose
eighth is their parity; and in BF16 that number exactly, +0 for zero. -/
def Sys2Proof.Claims.CodebookValues : Prop :=
  ∀ (pal c i : Nat), c < 2 ^ 16 → i < 8 →
    let mag := pal / 2 ^ (24 * (c / 256)) % 2 ^ 24 / 2 ^ (3 * i) % 8
    let minus := if i ≤ 6 then c.testBit (1 + i) else decide ((List.range 7).countP (fun k => c.testBit (1 + k)) % 2 = 1)
    let v := cb2Val pal c i
    v = (if minus then -1 else 1) * ((2 * mag + c % 2 : Nat) : Int) ∧
    numAt (fmtOf 11) (-133) (roundInt2 (fmtOf 11) .rne false v (-3)).1 = v * 2 ^ 130 ∧
    (roundInt2 (fmtOf 11) .rne false v (-3)).1 < 2 ^ 16 ∧ (v = 0 → (roundInt2 (fmtOf 11) .rne false v (-3)).1 = 0)

/-- R109 to R114: permutations, slides, zips, VCOMPRESS and VEXPAND, element broadcast and codebook decoding, position by position. -/
def Sys2Proof.Claims.PermutationResults : Prop :=
  ∀ (s : State) (ty p c : BitVec 4) (d a b : BitVec 8) (imm : BitVec 8), Ready s [] [a, b, d] [p, c] →
    let e := el s ty.toNat
    let n := tyN ty
    let flat := fun (f : Nat) (g : BitVec 8) (w i : Nat) => el s f g (i / w) (i % w)
    (grpW d = 1 → grpW a = 1 → n ≤ 256 * grpW b → exec (.vperm ty p d a b) s = mapsEls s 3 ty p d fun _ j =>
      let i := flat 3 b 256 j
      if i.x < n then { x := (e a 0 i.x).x, z := (e a 0 i.x).z || i.z } else { x := 0, z := i.z }) ∧
    (grpW d = 1 → grpW a = 1 → grpW b = 1 → imm.toNat < n → exec (.vslide ty p d a b imm) s = mapsEls s 3 ty p d fun _ j =>
      if imm.toNat + j < n then e a 0 (imm.toNat + j) else e b 0 (imm.toNat + j - n)) ∧
    (grpW d = 2 * grpW a → grpW a = grpW b → exec (.vzip ty p d a b) s = mapsEls s 3 ty p d fun k j =>
      flat ty.toNat (if (k * n + j) % 2 = 0 then a else b) n ((k * n + j) / 2)) ∧
    (grpW a = 2 * grpW d → exec (.vunzip ty p d a) s = mapsEls s 3 ty p d fun k j => flat ty.toNat a n (2 * (k * n + j))) ∧
    (grpW d = 1 → grpW a = 1 →
      let l := (List.range n).filter fun i => active s c i
      exec (.vcompress ty d a c) s = flies s (vecs s 4 (tyBits ty) d (fun _ _ => true)
        fun _ j => if j < l.length then e a 0 (l.getD j 0) else El.zero) 0 ∧
      exec (.vexpand ty d a c) s = flies s (vecs s 4 (tyBits ty) d (fun _ _ => true)
        fun _ j => if active s c j then e a 0 ((List.range j).countP (active s c)) else El.zero) 0) ∧
    (grpW a = 1 → imm.toNat < n → exec (.vbcaste ty p d a imm) s = mapsEls s 3 ty p d fun _ _ => e a 0 imm.toNat) ∧
    (grpW a = 1 → imm.toNat ≤ 1 → ty = 0 ∨ ty = 11 → grpW d * n ≤ 2048 → exec (.vcbdec ty p d a imm) s = mapsEls s 4 ty p d fun k j =>
      let q := el s 3 a 0 ((k * n + j) / 8)
      let v := cb2Val (if imm = 0 then s.core.pal0 else s.core.pal1).toNat q.x ((k * n + j) % 8)
      { x := if ty = 0 then wrapTo 8 v else (roundInt2 (fmtOf 11) .rne false v (-3)).1, z := q.z })

/-- R156 to R159, R193: VDOT, VCVT and SCACC. VDOT adds to each 32-bit element the products of its part; VCVT converts element by element
between the places that R158 gives, governed by the predicate at the source position where it widens and at the destination position otherwise;
SCACC scales a row of a tile and adds it, or sets it, and a column that it cannot read (R198) is the default NaN with poison, and raises no
flag. -/
def Sys2Proof.Claims.DotsConversionsAndScales : Prop :=
  ∀ (s : State) (ty p : BitVec 4) (d a b c : BitVec 8) (imm : BitVec 8), Ready s [] [a, b, c, d] [p] →
    let e := el s ty.toNat
    let g := 32 / tyBits ty
    let dotZ := fun k j => (List.range g).any (fun i => (e a k (g * j + i)).z) || (List.range g).any (fun i => (e b k (g * j + i)).z) || (el s 5 c k j).z
    let dots := fun (r : Nat → Nat → FRes) => flies s (vecs s 6 32 d (fun _ j => active s p j)
      (fun k j => { x := (r k j).1, z := dotZ k j || (r k j).2.1 })) (raised (grpW d) 128 (fun _ j => active s p j) r)
    (grpW d = grpW a → grpW d = grpW b → grpW d = grpW c → ty = 0 ∨ ty = 1 →
      exec (.vdot ty p d a b c) s = dots fun k j =>
        (wrapTo 32 (((List.range g).map fun i => val ty (e a k (g * j + i)).x * val ty (e b k (g * j + i)).x).sum +
          (if ty = 0 then signed 32 (el s 5 c k j).x else ((el s 5 c k j).x : Int))), false, 0)) ∧
    (grpW d = grpW a → grpW d = grpW b → grpW d = grpW c → (isFpn ty || ty == 10 || ty == 11) = true →
      exec (.vdot ty p d a b c) s = dots fun k j =>
        fDot ty.toNat (rmOf s.core) ((List.range g).map fun i => (e a k (g * j + i)).x) ((List.range g).map fun i => (e b k (g * j + i)).x)
          (el s 5 c k j).x) ∧
    (Instr.wf (.vcvt ty p d a imm) = true →
      let f := cvtSrc ty imm
      let t := cvtDst imm
      let mode := if bits imm.toNat 6 5 = 3 then rmOf s.core else rmodeOf (bits imm.toNat 6 5)
      let goes := fun (gov pos reg : Nat → Nat → Nat) =>
        let act := fun k j => active s p (gov k j)
        let r := fun k j => convert f t mode (el s f a (reg k j) (pos k j)).x
        exec (.vcvt ty p d a imm) s = flies s (vecs s 4 (cvtBits t) d act
            (fun k j => { x := (r k j).1, z := (el s f a (reg k j) (pos k j)).z || (r k j).2.1 }))
          (raised (grpW d) (4096 / cvtBits t) act r)
      let dest := fun (_ j : Nat) => j
      (cvtBits t = cvtBits f → goes dest dest (fun k _ => k)) ∧
      (∀ q, q ≤ 8 → 1 < q → cvtBits t = q * cvtBits f →
        let src := fun k j => j * q + k % q
        goes src src (fun k _ => k / q)) ∧
      (∀ q, q ≤ 8 → 1 < q → cvtBits f = q * cvtBits t → goes dest (fun _ j => j / q) (fun k j => k * q + j % q)) ∧
      (cvtBits t = 16 * cvtBits f →
        let src := fun k j => j * 8 + k
        goes src src (fun _ _ => 0)) ∧
      (cvtBits f = 16 * cvtBits t →
        let act := fun (_ j : Nat) => decide (512 ≤ j) || active s p j
        let r := fun (_ j : Nat) => if j < 512 then convert f t mode (el s f a (j % 8) (j / 8)).x else (0, false, 0)
        exec (.vcvt ty p d a imm) s = flies s (vecs s 4 (cvtBits t) d act
            (fun k j => { x := (r k j).1, z := (decide (j < 512) && (el s f a (j % 8) (j / 8)).z) || (r k j).2.1 }))
          (raised (grpW d) (4096 / cvtBits t) act r))) ∧
    (∀ (tile : BitVec 8), Instr.wf (.scacc ty p d a tile imm) = true →
      let t := getTile s.core tile.toNat
      let row := imm.toNat % 16
      let set := imm.toNat.testBit 4
      let n := tyN ty
      let col := fun k j => k * n + j
      let act := fun k j => decide (col k j < 128) && active s p (col k j)
      let bad := fun k j => unread s tile.toNat row (col k j)
      let r := fun k j => if bad k j then (dnan (fmtOf ty.toNat), true, 0) else
        scaccEl (fmtOf ty.toNat) (tileMan t row (col k j)) (if tileMode t then 0 else tileExp t) (tileNv t row) set (e a k j).x (e d k j).x
      LogsTile s tile.toNat row (exec (.scacc ty p d a tile imm) s) (flies s (vecs s 8 (tyBits ty) d act
        (fun k j => { x := (r k j).1, z := (!bad k j && ((e a k j).z || (!set && (e d k j).z))) || (r k j).2.1 })) (raised (grpW d) n act r)))

/-- R145, R146, R156: an element of VDOT on a floating-point type: the first NaN of the sources of A, of B, then of C, in FP32; a product of an
infinity and a zero, or opposite infinities, invalid; an infinity otherwise wins; and of finite values the exact sum of the products and the addend, rounded
once. That a NaN of a narrower type goes to FP32 as VCVT converts it is the model's reading (log 13). -/
def Sys2Proof.Claims.DotElements : Prop :=
  ∀ (t : Nat) (m : Rmode) (as bs : List Nat) (c : Nat), t ∈ [8, 9, 10, 11, 14, 15] → as.length = bs.length →
    let S := fmtOf t
    let F := fmtOf 12
    let r := fDot t m as bs c
    let P := as.zip bs
    let real := ∀ x ∈ as ++ bs, (fdec S x).isNan = false
    let sign := fun (p : Nat × Nat) => (fdec S p.1).neg != (fdec S p.2).neg
    let inf := fun (p : Nat × Nat) => (fdec S p.1).isInf || (fdec S p.2).isInf
    let zero := fun (p : Nat × Nat) => (fdec S p.1).isZero || (fdec S p.2).isZero
    let holds := fun b => (∃ p ∈ P, inf p = true ∧ sign p = b) ∨ fdec F c = .inf b
    (∀ l1 x l2, as ++ bs = l1 ++ x :: l2 → (∀ y ∈ l1, (fdec S y).isNan = false) → (fdec S x).isNan = true →
      r = ((convert t 12 m x).1, false, 0)) ∧
    (real → (fdec F c).isNan = true → r = (quiet F c, false, 0)) ∧
    (real → (fdec F c).isNan = false →
      ((∃ p ∈ P, inf p = true ∧ zero p = true) → r = (dnan F, true, flIV)) ∧
      ((∀ p ∈ P, inf p = true → zero p = false) →
        (holds true → holds false → r = (dnan F, true, flIV)) ∧
        (∀ b, holds b → ¬holds (!b) → r = (infPat F b, false, 0)) ∧
        (¬holds true → ¬holds false → r = rounded F m
          ((P.map fun p => numAt S (-200) p.1 * numAt S (-200) p.2).sum + numAt F (-400) c) (-400)
          (P.all (fun p => sign p && zero p) && (fdec F c).neg && (fdec F c).isZero))))

/-- R131 to R137: the conversion of an element from any of the eighteen formats to any: integers saturate; a NaN keeps its sign and leading payload
where the target has NaNs, is 0xFF in E8M0, and is poisoned zero elsewhere; an infinity stays one, saturates, or is poisoned in E8M0; a finite number is rounded by
round_to, or to an integer that saturates, or to E8M0's power of two below it. The flags are those of R131; that OF comes with E8M0's saturation is the
model's reading (log 57). -/
def Sys2Proof.Claims.ConversionResults : Prop :=
  ∀ (f d : Nat) (mode : Rmode) (x : Nat), f ≤ 17 → d ≤ 17 →
    let r := convert f d mode x
    let D := fmtOf d
    let D4 := BitVec.ofNat 4 d
    let pay := if f = 8 ∨ f = 17 then 0 else (fmtOf f).m - 1
    (f ≤ 7 → d ≤ 7 → r = (clamp D4 (val (.ofNat 4 f) x), false, 0)) ∧
    (f = 17 → d = 17 → r = (x % 256, false, 0)) ∧
    (∀ neg man, source f x = .nan neg man →
      (hasInf d → r = (signBit D neg + (2 ^ D.e - 1) * 2 ^ D.m + 2 ^ (D.m - 1) + man % 2 ^ pay * 2 ^ (D.m - 1) / 2 ^ pay, false, 0)) ∧
      (d = 8 → r = (if neg then 0xFF else 0x7F, false, 0)) ∧
      (d ≤ 7 ∨ 14 ≤ d ∧ d ≤ 16 → r = (0, true, flIV)) ∧
      (d = 17 → f ≠ 17 → r = (255, false, 0))) ∧
    (∀ neg, source f x = .inf neg →
      (hasInf d → r = (infPat D neg, false, 0)) ∧
      (d = 8 ∨ 14 ≤ d ∧ d ≤ 16 → r = (signBit D neg + maxPat d, false, flOF + flIX)) ∧
      (d ≤ 7 → r = (clamp D4 (if neg then -2 ^ 64 else 2 ^ 64), false, flOF + flIX)) ∧
      (d = 17 → r = (255, true, flIV))) ∧
    ∀ neg man e, source f x = .fin neg man e →
      (8 ≤ d → d ≤ 16 → r = ((roundTo D mode neg man 1 e).1, false, (roundTo D mode neg man 1 e).2)) ∧
      (8 ≤ f → d ≤ 7 → ∀ (n : Nat) (u : Int), u ≤ e → u < 0 →
        let X := man * 2 ^ (e - u).toNat
        let H := 2 ^ (-1 - u).toNat
        nearest mode n X H →
          let v : Int := if neg then -n else n
          let kept := val D4 (clamp D4 v) = v
          r = (clamp D4 v, false, (if kept then 0 else flOF) + if kept ∧ X = 2 * n * H then 0 else flIX)) ∧
      (d = 17 → f ≠ 17 → (man = 0 → r = (0, false, flIX)) ∧
        (∀ t : Nat, 2 ^ t ≤ man → man < 2 ^ (t + 1) →
          let k := max (-127) (min (t + e) 127)
          r = ((k + 127).toNat, false, if k ≠ t + e then flOF + flIX else if man = 2 ^ t then 0 else flIX)))

/-- R145, R146, R193: an element of SCACC: a tile element marked no value is invalid; the first NaN of the addend and the scale; an infinite scale on a zero, or
opposite infinities, invalid; an infinity otherwise wins; and of finite values the exact sum rounded once to nearest, whatever VFLAGS.RM. -/
def Sys2Proof.Claims.ScaledElements : Prop :=
  ∀ (ty : BitVec 4) (m e : Int) (set : Bool) (sc dv : Nat), isFpa ty = true →
    let F := fmtOf ty.toNat
    let c := if set then 0 else dv
    let r := scaccEl F m e false set sc dv
    let sp := (fdec F sc).neg != decide (m < 0)
    let clear := (fdec F c).isNan = false ∧ (fdec F sc).isNan = false
    scaccEl F m e true set sc dv = (dnan F, true, flIV) ∧
    ((fdec F c).isNan = true → r = (quiet F c, false, 0)) ∧
    ((fdec F c).isNan = false → (fdec F sc).isNan = true → r = (quiet F sc, false, 0)) ∧
    (clear → (fdec F sc).isInf = true → m = 0 → r = (dnan F, true, flIV)) ∧
    (clear → (fdec F sc).isInf = true → m ≠ 0 →
      r = if (fdec F c).isInf = true ∧ (fdec F c).neg ≠ sp then (dnan F, true, flIV) else (infPat F sp, false, 0)) ∧
    (clear → (fdec F sc).isInf = false → (fdec F c).isInf = true → r = (infPat F (fdec F c).neg, false, 0)) ∧
    (∀ ns ms es nc mc ec, fdec F sc = .fin ns ms es → fdec F c = .fin nc mc ec →
      let lo := min (es + e) ec
      r = rounded F .rne (scaled sp (ms * m.natAbs) (es + e) lo + scaled nc mc ec lo) lo (sp && nc && ms * m.natAbs == 0 && mc == 0))

namespace Sys2Proof.Claims
open Sys2Proof.Machine

/-- A trap of the M slot (R57). -/
def mtraps (s : State) (c : Nat) (tval : Word) : Host.Outcome State Fault Refusal :=
  .next (takeTrap (mkTrap c 3 tval) s.core.pc s.core.ticks (atIssue s))

/-- The bundle stalls whole, and a cycle passes (R52). -/
def waits (s : State) : Host.Outcome State Fault Refusal := .next (stallCycle (atIssue s))

/-- Byte `i` of scratchpad row `r`. -/
def rowByte (c : Core) (r i : Nat) : Nat := rowBytes (getRow c r) i 1

/-- Byte `i` of vector register `n` at issue, by logical number. -/
def regByte (s : State) (n i : Nat) : Nat := rowBytes (rdV (atIssue s).core n).bits i 1

/-- The core after a bundle without idle count that changes rows only. -/
def OnlyRows (s t : State) : Prop :=
  t.core = { (atIssue s).core with rows := t.core.rows, badRows := t.core.badRows, pc := s.core.pc + 16, ticks := s.core.ticks + 1, cycle := s.core.cycle + 1 } ∧
  t.mem = s.mem ∧ t.ctxs = s.ctxs ∧ t.others = s.others

/-- The core after a bundle without idle count that puts results in flight only. -/
def OnlyFlight (s t : State) (l : List Inflight) : Prop :=
  t.core = { (atIssue s).core with inflight := (atIssue s).core.inflight ++ l, pc := s.core.pc + 16, ticks := s.core.ticks + 1, cycle := s.core.cycle + 1 } ∧
  t.mem = s.mem ∧ t.ctxs = s.ctxs ∧ t.others = s.others

/-- The MCLOG entries of uncorrectable scratchpad words that satisfy `hit` stand in the log, where it has room for all (R181, R397). -/
def LogsWords (s t : State) (hit : Nat → Nat → Prop) : Prop :=
  s.mclog.length + s.core.badRows.length ≤ 64 → ∀ e ∈ s.core.badRows, hit e.1 e.2 →
    mcEntry 2 1 s.coreNo ((curSlot s).getD 0) (e.1 * 2 ^ 16 + e.2) ∈ t.mclog

/-- Offset of active lane `l` of a gather or scatter (R169). -/
def laneOff (s : State) (sa : BitVec 5) (vb : BitVec 6) (l : Nat) : Nat :=
  ((rdS s.core sa).toNat + 16 * rowBytes (rdV (atIssue s).core vb.toNat).bits (16 * l) 4) % 2 ^ 64 / 16 * 16

/-- The index of lane `l` is poisoned. -/
def laneZ (s : State) (vb : BitVec 6) (l : Nat) : Bool := pzBit (rdV (atIssue s).core vb.toNat) (32 * l)

end Sys2Proof.Claims

/-- R30, R163, R166 to R168, R181: VLD and VST of whole rows: a range outside the scratchpad is PAGE_PROT with TVAL the offset (of the first
row that lies outside, log 60); VLD lands in six ticks, poisoned where a word is uncorrectable, which is logged, and changes nothing else; VST writes the active grains
and no other byte, and an uncorrectable word is right again where all its bytes are written, or is POISON_STORE at the lowest active poisoned grain. -/
def Sys2Proof.Claims.RowLoadsAndStores : Prop :=
  ∀ (s : State) (vr : BitVec 6) (w : BitVec 2) (sa : BitVec 5) (imm : BitVec 16) (p : BitVec 4) (gr : BitVec 2), Free s [sa] →
    Sound s ((List.range (2 ^ w.toNat)).map (· + vr.toNat)) [p.toNat] →
    let ea := rdS s.core sa + 512 * imm.signExtend 64
    let r := ea.toNat / 512
    let n := 2 ^ w.toNat
    let g := 2 ^ gr.toNat
    let inside := ea.toNat < 0x300000 ∧ r + n ≤ 6144
    let first := if ea.toNat < 0x300000 then ea + .ofNat 64 (512 * (6144 - r)) else ea
    let bad := fun k j => j < 512 / g ∧ active s p j = true ∧ pzBit (rdV (atIssue s).core (vr.toNat + k)) (2 * g * j) = true
    exec .mnop s = done (atIssue s) ∧
    (¬inside → exec (.vld vr w sa imm) s = mtraps s 4 first ∧ exec (.vst vr w sa imm p gr) s = mtraps s 4 first) ∧
    (inside → s.core.badRows = [] → exec (.vld vr w sa imm) s = flies s ((List.range n).map fun k =>
      { land := s.core.ticks + 6, kind := .vec, preg := physV s.core (vr.toNat + k), val := { bits := getRow s.core (r + k), pz := 0 } }) 0) ∧
    (inside → ∃ t l, exec (.vld vr w sa imm) s = .next t ∧ OnlyFlight s t l ∧ l.length = n ∧ (∀ k, k < n → ∃ f, l[k]? = some f ∧
      f.kind = .vec ∧ f.land = s.core.ticks + 6 ∧ f.preg = physV s.core (vr.toNat + k) ∧ f.val.bits = getRow s.core (r + k) ∧
      ∀ i, i < 1024 → (f.val.pz.getLsbD i = true ↔ (r + k, i / 16) ∈ s.core.badRows)) ∧ LogsWords s t fun q _ => r ≤ q ∧ q < r + n) ∧
    (inside → (∀ k j, k < n → ¬bad k j) → ∃ t, exec (.vst vr w sa imm p gr) s = .next t ∧ OnlyRows s t ∧
      (∀ e, e.2 < 64 → (e ∈ t.core.badRows ↔ e ∈ s.core.badRows ∧
        ¬(r ≤ e.1 ∧ e.1 < r + n ∧ ∀ b, b < 8 → active s p ((8 * e.2 + b) / g) = true))) ∧
      ∀ q i, i < 512 → rowByte t.core q i =
        if r ≤ q ∧ q < r + n ∧ active s p (i / g) = true then regByte s (vr.toNat + (q - r)) i else rowByte s.core q i) ∧
    (inside → ∀ k j, k < n → bad k j → (∀ k' j', k' < k → ¬bad k' j') → (∀ j', j' < j → ¬bad k j') →
      exec (.vst vr w sa imm p gr) s = mtraps s 0x11 (.ofNat 64 (512 * (r + k) + g * j)))

/-- R169, R170, R181: gathers, scatters and byte merges. The offset of an active lane outside the scratchpad is PAGE_PROT; a lane with a poisoned index gathers
zero with all its poison set, another the bytes of its granule, poisoned only where a word of the granule is uncorrectable, which is logged, and an inactive lane keeps its bytes and its
poison; a scatter of a poisoned byte, one whose lowest nibble's bit is set (R87), is POISON_STORE; of two lanes at one offset the higher stays, and a word in a scattered granule is right again. VRMG takes byte (i + n) mod 1,024 of the register
pair, or keeps its own byte, with both nibbles' poison. What completes changes nothing else of its core, nor memory. -/
def Sys2Proof.Claims.GathersScattersAndMerges : Prop :=
  ∀ (s : State) (vr vb va : BitVec 6) (sa sb : BitVec 5) (p : BitVec 4) (i : BitVec 1) (imm : BitVec 10), Free s [sa, sb] →
    Sound s [vr.toNat, vb.toNat, va.toNat, va.toNat + 1] [p.toNat] →
    let off := laneOff s sa vb
    let lane := fun l => l < 32 ∧ active s p l = true
    let outside := fun l => lane l ∧ laneZ s vb l = false ∧ 0x300000 ≤ off l
    let clean := fun l => laneZ s vb l = false ∧ ∀ b, b < 16 → pzBit (rdV (atIssue s).core vr.toNat) (32 * l + 2 * b) = false
    let n := if i = 1 then imm.toNat else (rdS s.core sb).toNat % 1024
    (∀ l, outside l → (∀ k, k < l → ¬outside k) →
      exec (.vgather vr sa vb p) s = mtraps s 4 (.ofNat 64 (off l)) ∧ exec (.vscatter vr sa vb p) s = mtraps s 4 (.ofNat 64 (off l))) ∧
    ((∀ l, ¬outside l) → ∃ t f, exec (.vgather vr sa vb p) s = .next t ∧ OnlyFlight s t [f] ∧
      f.kind = .vec ∧ f.land = s.core.ticks + 10 ∧ f.preg = physV s.core vr.toNat ∧
      (∀ l, l < 32 → rowBytes f.val.bits (16 * l) 16 =
        if active s p l then (if laneZ s vb l then 0 else rowBytes (getRow s.core (off l / 512)) (off l % 512) 16)
        else rowBytes (rdV (atIssue s).core vr.toNat).bits (16 * l) 16) ∧
      (∀ l i, l < 32 → i < 32 → (f.val.pz.getLsbD (32 * l + i) = true ↔
        if active s p l then laneZ s vb l = true ∨ (off l / 512, off l % 512 / 8 + i / 16) ∈ s.core.badRows
        else (rdV (atIssue s).core vr.toNat).pz.getLsbD (32 * l + i) = true)) ∧
      LogsWords s t fun q w => ∃ l, lane l ∧ laneZ s vb l = false ∧ q = off l / 512 ∧ w / 2 = off l % 512 / 16) ∧
    ((∀ l, ¬outside l) → ∀ l, lane l → ¬clean l → (∀ k, k < l → lane k → clean k) →
      exec (.vscatter vr sa vb p) s = mtraps s 0x11 (if laneZ s vb l then 0 else .ofNat 64 (off l))) ∧
    ((∀ l, ¬outside l) → (∀ l, lane l → clean l) → ∃ t, exec (.vscatter vr sa vb p) s = .next t ∧ OnlyRows s t ∧
      (∀ e, e.2 < 64 → (e ∈ t.core.badRows ↔ e ∈ s.core.badRows ∧ ¬∃ l, lane l ∧ e.1 = off l / 512 ∧ e.2 / 2 = off l % 512 / 16)) ∧
      (∀ l b, lane l → (∀ k, l < k → lane k → off k ≠ off l) → b < 16 →
        rowByte t.core (off l / 512) (off l % 512 + b) = regByte s vr.toNat (16 * l + b)) ∧
      ∀ q b, b < 512 → (∀ l, lane l → ¬(off l ≤ 512 * q + b ∧ 512 * q + b < off l + 16)) → rowByte t.core q b = rowByte s.core q b) ∧
    ∃ t f, exec (.vrmg vr va p i imm sb) s = .next t ∧ OnlyFlight s t [f] ∧ f.kind = .vec ∧
      f.land = s.core.ticks + 3 ∧ f.preg = physV s.core vr.toNat ∧
      (∀ b, b < 512 → rowBytes f.val.bits b 1 =
        if active s p b then regByte s (va.toNat + (b + n) % 1024 / 512) ((b + n) % 512) else regByte s vr.toNat b) ∧
      ∀ b j, b < 512 → j < 2 → f.val.pz.getLsbD (2 * b + j) =
        if active s p b then (rdV (atIssue s).core (va.toNat + (b + n) % 1024 / 512)).pz.getLsbD (2 * ((b + n) % 512) + j)
        else (rdV (atIssue s).core vr.toNat).pz.getLsbD (2 * b + j)

/-- R182 to R185, R192, R206, R207: operand slots, shadow sets and tiles. An element that ACCRD cannot read lands with its poison set, and
the word is logged (R198). -/
def Obligations.SlotsSetsAndTiles : Prop :=
  ∀ (s : State) (x : BitVec 5) (auto eng set ovr : BitVec 1) (v : BitVec 6) (tile : BitVec 7) (row : BitVec 4), running s = true →
    Sound s [v.toNat] [] →
    let l := atIssue s
    let o := getSlot s.core x.toNat
    let k := 2 * eng.toNat + set.toNat
    let r := rdV l.core v.toNat
    let loaded := (Sparse.get Shadow.empty s.core.shadows k).loaded
    let t := getTile s.core tile.toNat
    (o.st = .free → exec (.claim x auto) s = done (withCore l (setSlot l.core x.toNat { o with st := .claimed, auto := auto == 1 }))) ∧
    (o.st ≠ .free → o.auto = true → exec (.claim x auto) s = waits s) ∧
    (o.st ≠ .free → o.auto = false → exec (.claim x auto) s = mtraps s 0x0A (x.setWidth 64)) ∧
    (o.st = .free → exec (.release x) s = mtraps s 0x0A (x.setWidth 64)) ∧
    (o.st ≠ .free → o.fill = true ∨ o.users ≠ 0 → exec (.release x) s = waits s) ∧
    (o.st ≠ .free → o.fill = false → o.users = 0 →
      exec (.release x) s = done (withCore l (setSlot l.core x.toNat { o with st := .free, auto := false }))) ∧
    (ovr = 0 → loaded = true → exec (.mtc eng set v ovr) s = waits s) ∧
    (ovr = 1 ∨ loaded = false → r.pz.toNat % 2 ^ 320 ≠ 0 → exec (.mtc eng set v ovr) s = mtraps s 0x11 0) ∧
    (ovr = 1 ∨ loaded = false → r.pz.toNat % 2 ^ 320 = 0 → ∃ u, exec (.mtc eng set v ovr) s = .next u ∧ u.mem = s.mem ∧
      (∀ j, Sparse.get Shadow.empty u.core.shadows j =
        if j = k then { image := r.bits.setWidth 1280, loaded := true } else Sparse.get Shadow.empty s.core.shadows j) ∧
      u.core = { l.core with shadows := u.core.shadows, pc := s.core.pc + 16, ticks := s.core.ticks + 1, cycle := s.core.cycle + 1 }) ∧
    let puts := fun (sel : BitVec 2) (vals : List VReg) =>
      LogsTile s tile.toNat row.toNat (exec (.accrd v tile row sel) s) (flies s ((vals.zipIdx).map fun q =>
        { land := s.core.ticks + 8, kind := .vec, preg := physV s.core (v.toNat + q.2), val := q.1 }) 0)
    let m := fun j => tileMan t row.toNat j
    let bad := unread s tile.toNat row.toNat
    puts 0 [ofEls 32 ((List.range 128).map fun j => { x := wrapTo 32 (m j), z := bad j })] ∧
    puts 1 [ofEls 64 ((List.range 64).map fun j => { x := wrapTo 64 (m (2 * j)), z := bad (2 * j) }),
      ofEls 64 ((List.range 64).map fun j => { x := wrapTo 64 (m (2 * j + 1)), z := bad (2 * j + 1) })] ∧
    puts 2 [ofEls 32 ((List.range 128).map fun j => { x := wrapTo 32 (max (-2 ^ 31) (min (m j) (2 ^ 31 - 1))), z := bad j })] ∧
    puts 3 [ofEls 64 ({ x := (t.stat &&& 0xE000FFFF0000FFFF).toNat, z := decide ((127, tile.toNat) ∈ s.core.badTiles) } ::
      List.replicate 63 El.zero)]

/-- R38: ENQ waits while fewer entries are free than it appends, is POISON_STORE when it reads poison, and else appends whole entries: 48 bytes of its
register, 16 zero bytes, and the pointers; no other byte of the scratchpad changes. With .REL the buffered stores that it orders come first (R297; log 12), and while one of them must wait, so does the bundle (R352, R357). -/
def Obligations.EnqueueAppendsEntries : Prop :=
  ∀ (s : State) (ring : BitVec 3) (v : BitVec 6) (seg cnt : BitVec 3) (rel : BitVec 1) (sc : BitVec 3), running s = true →
    Sound s [v.toNat] [] → ring.toNat < 6 → seg.toNat + cnt.toNat + 1 ≤ 8 →
    let q := ring.toNat
    let r := getRing s.core q
    let n := cnt.toNat + 1
    let reg := rdV (atIssue s).core v.toNat
    let poison := ∃ j, j < n ∧ reg.pz.toNat / 2 ^ (128 * (seg.toNat + j)) % 2 ^ 96 ≠ 0
    (64 < r.occ + n → exec (.enq ring v seg cnt rel sc) s = waits s) ∧
    (r.occ + n ≤ 64 → poison → exec (.enq ring v seg cnt rel sc) s = mtraps s 0x11 0) ∧
    (r.occ + n ≤ 64 → ¬poison → rel = 1 → releaseWaits [] s = true → exec (.enq ring v seg cnt rel sc) s = waits s) ∧
    (r.occ + n ≤ 64 → r.wp < 64 → ¬poison → (rel = 1 → releaseWaits [] s = false) → ∃ t, exec (.enq ring v seg cnt rel sc) s = .next t ∧
      getRing t.core q = { r with wp := (r.wp + n) % 64, occ := r.occ + n } ∧
      (∀ k, k ≠ q → getRing t.core k = getRing s.core k) ∧ t.core.sregs = s.core.sregs ∧ t.core.pc = s.core.pc + 16 ∧
      t.mem = (if rel = 1 then releaseM (atIssue s) (atIssue s) else s).mem ∧
      (∀ j, j < n → readScratch t.core (entryOffset q ((r.wp + j) % 64)) 64 = rowBytes reg.bits (64 * (seg.toNat + j)) 48) ∧
      ∀ e, e < 49152 → (∀ j, j < n → ¬(entryOffset q ((r.wp + j) % 64) = 64 * e)) →
        readScratch t.core (64 * e) 64 = readScratch s.core (64 * e) 64)

/-- R307 to R309, R312, R313, R179: timelines, tags and LIVEMARK. TLWAIT passes when the timeline has reached its value, of its own core or of a core
of its partition; TLADV raises a timeline after the stores before it are performed (log 12), and stalls while one of those must wait
(R352, R357). -/
def Sys2Proof.Claims.TimelinesAndTags : Prop :=
  ∀ (s : State) (tl : BitVec 3) (sa sc sd : BitVec 5) (rmt i : BitVec 1) (imm : BitVec 16) (imm13 : BitVec 13) (cnt : BitVec 8) (c : Ctx),
    Free s [sa, sc, sd] → curCtx s = some c →
    let l := atIssue s
    let x := rdS s.core sa
    let k := rdS s.core sc
    let at_ := getTl (if rmt = 1 then getCore l k.toNat else s.core) tl.toNat
    let goal := x + imm.setWidth 64
    (rmt = 1 → inPart c k.toNat = false → exec (.tlwait tl sa sc rmt imm) s = mtraps s 1 k) ∧
    (rmt = 0 ∨ inPart c k.toNat = true → at_.toNat < goal.toNat → exec (.tlwait tl sa sc rmt imm) s = waits s) ∧
    (rmt = 0 ∨ inPart c k.toNat = true → goal.toNat ≤ at_.toNat → exec (.tlwait tl sa sc rmt imm) s = done l) ∧
    (releaseWaits [] s = true → exec (.tladv tl cnt) s = waits s) ∧
    (releaseWaits [] s = false → ∃ t, exec (.tladv tl cnt) s = .next t ∧ t.mem = (releaseM l l).mem ∧ t.core.sb = (releaseM l l).core.sb ∧ t.core.pc = s.core.pc + 16 ∧
      (∀ j, getTl t.core j = if j = tl.toNat then getTl s.core j + .ofNat 64 (cnt.toNat + 1) else getTl s.core j) ∧
      t.core.sregs = s.core.sregs ∧ t.core.tags = s.core.tags) ∧
    (x = 0 → exec (.tagwaitAny sa) s = mtraps s 1 0) ∧
    (x ≠ 0 → s.core.tags &&& x = 0 → exec (.tagwaitAny sa) s = waits s) ∧
    (s.core.tags &&& x ≠ 0 → exec (.tagwaitAny sa) s = done l) ∧
    (s.core.tags &&& x ≠ x → exec (.tagwaitAll sa) s = waits s) ∧
    (s.core.tags &&& x = x → exec (.tagwaitAll sa) s = done l) ∧
    (∃ n, exec (.tagff sa sd) s = done (withCore l (wrSL l.core 4 sd (.ofNat 64 n))) ∧ n ≤ 64 ∧
      (∀ j, j < n → (s.core.tags &&& x).getLsbD j = false) ∧ (n < 64 → (s.core.tags &&& x).getLsbD n = true)) ∧
    exec (.tagclr sa) s = done (withCore l { l.core with tags := s.core.tags &&& ~~~x }) ∧
    (let v := if i = 1 then imm13.setWidth 64 else x
     (v.toNat ≤ 6144 → exec (.livemark i imm13 sa) s = done (withCore l { l.core with livemark := v.toNat })) ∧
     (6144 < v.toNat → exec (.livemark i imm13 sa) s = mtraps s 1 v))

/-- R314 to R316: rendezvous points of the core's team. Without a team at the level each of the three is SLOT_STATE, RVINIT also
where its count is out of range (that order is the model's choice, log 85). An arrival of
a core of another package counts as one of the core's own does (R315; log 28). An arrival comes after the stores before it (log 12), and
stalls while one of those must wait (R352, R357). -/
def Sys2Proof.Claims.RendezvousPoints : Prop :=
  ∀ (s : State) (rv : BitVec 5) (lev : BitVec 2) (a : BitVec 5) (slot : Nat) (c : Ctx), Free s [a] → curSlot s = some slot →
    getCtx s slot = some c →
    let l := atIssue s
    let team := bits s.core.team.toNat (16 * lev.toNat + 15) (16 * lev.toNat)
    let k := rvKey s.core.team lev.toNat rv.toNat
    let r := Sparse.get Rv.zero c.rv k
    let x := rdS s.core a
    let sets := fun (q : Rv) => modCtx l slot fun c => { c with rv := Sparse.set Rv.zero c.rv k q }
    (team = 0xFFFF → exec (.rvinit rv lev a) s = mtraps s 0x0A (rv.setWidth 64) ∧ exec (.arrive rv lev a) s = mtraps s 0x0A (rv.setWidth 64) ∧
      exec (.rvwait rv lev a) s = mtraps s 0x0A (rv.setWidth 64)) ∧
    (team ≠ 0xFFFF →
      (x.toNat = 0 ∨ 2 ^ 32 ≤ x.toNat → exec (.rvinit rv lev a) s = mtraps s 1 x) ∧
      (0 < x.toNat → x.toNat < 2 ^ 32 → r.exp = 0 → exec (.rvinit rv lev a) s = done (sets { r with exp := x.toNat })) ∧
      (0 < x.toNat → x.toNat < 2 ^ 32 → r.exp = x.toNat → exec (.rvinit rv lev a) s = done l) ∧
      (0 < x.toNat → x.toNat < 2 ^ 32 → r.exp ≠ 0 → r.exp ≠ x.toNat → exec (.rvinit rv lev a) s = mtraps s 0x0A (rv.setWidth 64)) ∧
      (r.exp = 0 ∨ releaseWaits [] s = true → exec (.arrive rv lev a) s = waits s) ∧
      (r.exp ≠ 0 → releaseWaits [] s = false → ∃ t c2, exec (.arrive rv lev a) s = .next t ∧ t.mem = (releaseM l l).mem ∧ t.core.sb = (releaseM l l).core.sb ∧
        (∀ q, rdS t.core q = if q = a ∧ a ≠ 0 then .ofNat 64 r.ph else rdS s.core q) ∧ getCtx t slot = some c2 ∧
        (∀ j, j ≠ k → Sparse.get Rv.zero c2.rv j = Sparse.get Rv.zero c.rv j) ∧
        Sparse.get Rv.zero c2.rv k =
          if r.cnt + 1 = r.exp then { r with cnt := 0, ph := (r.ph + 1) % 2 ^ 64 } else { r with cnt := r.cnt + 1 }) ∧
      (r.ph ≤ x.toNat → exec (.rvwait rv lev a) s = waits s) ∧
      (x.toNat < r.ph → exec (.rvwait rv lev a) s = done l) ∧
      (∀ job, s.ctxs.find? (fun e => match e.2 with | some c => c.job == job | none => false) = some (slot, some c) → r.exp ≠ 0 →
        let r2 := if r.cnt + 1 = r.exp then { r with cnt := 0, ph := (r.ph + 1) % 2 ^ 64 } else { r with cnt := r.cnt + 1 }
        remoteRv job k none s = modCtx s slot fun c => { c with rv := Sparse.set Rv.zero c.rv k r2 }))

/-- R173 to R177: versioned buffers. One writer at a time, which waits until no reader holds the area of the next version; readers of a version hold
its area. Breaches are SLOT_STATE. A publication and an end of reading come after the stores before them (log 12), and stall while one of
those must wait (R352, R357). -/
def Obligations.VersionedBuffers : Prop :=
  ∀ (s : State) (n : BitVec 8) (d a : BitVec 5) (slot : Nat) (c : Ctx), Free s [d, a] → curSlot s = some slot → getCtx s slot = some c →
    let l := atIssue s
    let b := Sparse.get Buf.zero c.bufs n.toNat
    let area := fun (v : Nat) => if v % 2 = 0 then b.cnt0 else b.cnt1
    let withArea := fun (v m : Nat) => if v % 2 = 0 then { b with cnt0 := m } else { b with cnt1 := m }
    let x := (rdS s.core a).toNat
    let v1 := (b.pub + 1) % 2 ^ 64
    let slotState := mtraps s 0x0A (n.setWidth 64)
    let sets := fun (t : State) (q : Buf) => modCtx t slot fun c => { c with bufs := Sparse.set Buf.zero c.bufs n.toNat q }
    (b.who = some s.coreNo → exec (.bufw n d) s = slotState) ∧
    (b.who ≠ some s.coreNo → b.who ≠ none ∨ area (b.pub + 1) ≠ 0 → exec (.bufw n d) s = waits s) ∧
    (b.who = none → area (b.pub + 1) = 0 → exec (.bufw n d) s =
      done (withCore (sets l { b with who := some s.coreNo, nxt := v1 }) (wrSL l.core 4 d (.ofNat 64 v1)))) ∧
    (b.who ≠ some s.coreNo → exec (.bufp n) s = slotState) ∧
    (b.who = some s.coreNo → releaseWaits [] s = true → exec (.bufp n) s = waits s) ∧
    (b.who = some s.coreNo → releaseWaits [] s = false → exec (.bufp n) s = done (sets (releaseM l l) { b with pub := b.nxt, who := none })) ∧
    (b.pub < x ∨ 65535 ≤ area b.pub → exec (.bufr n d a) s = waits s) ∧
    (x ≤ b.pub → area b.pub < 65535 → exec (.bufr n d a) s =
      done (withCore (sets l (withArea b.pub (area b.pub + 1))) (wrSL l.core 4 d (.ofNat 64 b.pub)))) ∧
    (b.pub < x ∨ x + 1 < b.pub ∨ area x = 0 → exec (.bufx n a) s = slotState) ∧
    (x ≤ b.pub → b.pub ≤ x + 1 → area x ≠ 0 → releaseWaits [] s = true → exec (.bufx n a) s = waits s) ∧
    (x ≤ b.pub → b.pub ≤ x + 1 → area x ≠ 0 → releaseWaits [] s = false → exec (.bufx n a) s = done (sets (releaseM l l) (withArea x (area x - 1))))

/-- R13, R54, R81, R91: what V instructions leave alone. A V instruction other than VEXT changes of its core only what is in flight, the sticky
flags, the scalar destination of PPOPC and PFIRST, the pc and the clocks, beside results that land; memory, contexts and other cores stay. -/
def Obligations.VectorFrame : Prop :=
  ∀ (i : Instr) (s t : State) (k : Nat), inV i = true → (∀ ty d a b, i ≠ .vext ty d a b) → exec i s = .next t →
    s.core.parityBad = [] →
    t.mem = s.mem ∧ t.ctxs = s.ctxs ∧ t.others = s.others ∧ t.banks = s.banks ∧ t.tlb = s.tlb ∧ t.keys = s.keys ∧ t.parts = s.parts ∧
    t.core = { s.core with sregs := t.core.sregs, pend := t.core.pend, vregs := t.core.vregs, pregs := t.core.pregs, inflight := t.core.inflight, vflags := t.core.vflags, pc := t.core.pc, cycle := t.core.cycle, ticks := t.core.ticks } ∧
    ((∀ ty p d a, i ≠ .ppopc ty p d a ∧ i ≠ .pfirst ty p d a) → t.core.sregs = s.core.sregs ∧ t.core.pend = s.core.pend) ∧
    (rdV t.core k = rdV s.core k ∨ rdV t.core k = rdV (atIssue s).core k)

/-- R90, R91, R397: a bundle that reads a vector or predicate slice with wrong parity checkstops its core, and nothing takes effect; a result
that lands leaves its register's slices right. That a slice of the old destination counts as read, whatever the predicate, is the model's choice
(log 59). While a lane is copied the core issues nothing and its issue clock stands; after the
cycles of the copy the spare lane holds lane LANE's slices, every register reads as before, and SWAP reads 0. -/
def Sys2Proof.Claims.ParityErrorsAndLaneSwaps : Prop :=
  ∀ (s : State) (ty p : BitVec 4) (d a b : BitVec 8) (place : Nat), running s = true →
    (parityHit (atIssue s).core { uses := [], vreads := grpRegs a ++ grpRegs b ++ grpRegs d, preads := [p.toNat], eff := fun _ t => .done t none } = some place →
      isInt ty = true → exec (.vadd ty p d a b) s = .next (checkstop 0 place (atIssue s))) ∧
    (∀ n, n < 32 → ∀ lane, (atIssue s).core.parityBad = [(0, n, lane)] → laneUsed s.core lane = true → grpN a = n →
      exec (.vmov ty p d a) s = .next (checkstop 0 (n * 256 + lane) (atIssue s))) ∧
    (∀ (c : Core) (f : Inflight), ∀ e ∈ (landOne c f).parityBad, e ∈ c.parityBad ∧
      ¬(e.1 = (if f.kind = .vec then 0 else 1) ∧ e.2.1 = f.preg ∧ laneUsed c e.2.2 = true)) ∧
    (∀ t : State, 0 < t.core.swapLeft → running t = false ∧ ∃ u, exec .laneSwapComplete t = .next u ∧ u.core.swapLeft = 0 ∧
      u.core.lanemap.getLsbD 15 = false ∧ (∀ i, i ≠ 15 → u.core.lanemap.getLsbD i = t.core.lanemap.getLsbD i) ∧
      u.core.cycle = t.core.cycle + t.core.swapLeft ∧ u.core.ticks = t.core.ticks ∧ u.core.inflight = t.core.inflight ∧
      u.core.sregs = t.core.sregs ∧ u.mem = t.mem ∧
      (∀ r, r < 64 → Sparse.get VReg.zero u.core.vregs r = Sparse.get VReg.zero t.core.vregs r ∧
        Sparse.get (0, 0) u.core.spareV r =
          (.ofNat 128 ((Sparse.get VReg.zero t.core.vregs r).bits.toNat / 2 ^ (128 * laneOf t.core.lanemap)),
           .ofNat 32 ((Sparse.get VReg.zero t.core.vregs r).pz.toNat / 2 ^ (32 * laneOf t.core.lanemap)))) ∧
      ∀ r, r < 16 → Sparse.get 0 u.core.pregs r = Sparse.get 0 t.core.pregs r ∧
        Sparse.get 0 u.core.spareP r = .ofNat 32 ((Sparse.get 0 t.core.pregs r).toNat / 2 ^ (32 * laneOf t.core.lanemap))) ∧
    (∀ t : State, t.core.swapLeft = 0 → exec .laneSwapComplete t = .next t)

namespace Sys2Proof.Claims
open Sys2Proof.Machine

/-- The instruction completes: its bundle retires into a next state, with `n` results put in flight, the pc at the next bundle, and the memory, the scalar
registers and the other cores as they were. -/
def Completes (i : Instr) (s : State) (n : Nat) : Prop :=
  ∃ t, exec i s = .next t ∧ t.core.pc = s.core.pc + 16 ∧ t.core.ticks = s.core.ticks + 1 ∧
    t.core.inflight.length = (atIssue s).core.inflight.length + n ∧ t.core.sregs = s.core.sregs ∧
    t.mem = s.mem ∧ t.ctxs = s.ctxs ∧ t.others = s.others

end Sys2Proof.Claims

/-- R55, R92, R144, R149, R160 to R162, R166 to R170: when the fused, the approximating and the row instructions execute normally: on every value of their
operands, where no register that they use is pending or unsound, their groups have the widths of the rule and their type is one of it; VLD and VST inside the scratchpad,
VST and VSCATTER on active grains without poison, VGATHER and VSCATTER on active lanes inside it. -/
def Obligations.FloatAndRowInstructionsComplete : Prop :=
  (∀ (s : State) (ty p : BitVec 4) (d a b c : BitVec 8), Ready s [] [a, b, c, d] [p] → isFpa ty = true →
    grpW d = grpW a → grpW d = grpW b → grpW d = grpW c →
    (∀ i ∈ [Instr.vfma ty p d a b c, .vfms ty p d a b c, .vfnma ty p d a b c], Completes i s (grpW d)) ∧
    (isApx ty = true → ∀ i ∈ [Instr.vrcp ty p d a, .vrsq ty p d a, .vrcpn ty p d a b, .vrsqn ty p d a b, .vexp2 ty p d a, .vlog2 ty p d a],
      Completes i s (grpW d))) ∧
  ∀ (s : State) (vr vb va : BitVec 6) (w gr : BitVec 2) (sa sb : BitVec 5) (imm : BitVec 16) (imm10 : BitVec 10) (x : BitVec 1) (p : BitVec 4),
    Free s [sa, sb] → Sound s ([vr.toNat, vb.toNat, va.toNat, va.toNat + 1] ++ (List.range (2 ^ w.toNat)).map (· + vr.toNat)) [p.toNat] →
    let ea := (rdS s.core sa + 512 * imm.signExtend 64).toNat
    let inside := ea < 0x300000 ∧ ea / 512 + 2 ^ w.toNat ≤ 6144
    let lanes := ∀ l, l < 32 → active s p l = true → laneZ s vb l = false → laneOff s sa vb l < 0x300000
    Completes .mnop s 0 ∧ Completes (.vrmg vr va p x imm10 sb) s 1 ∧ (inside → Completes (.vld vr w sa imm) s (2 ^ w.toNat)) ∧
    (inside → (∀ k j, k < 2 ^ w.toNat → j < 512 / 2 ^ gr.toNat → active s p j = true → pzBit (rdV (atIssue s).core (vr.toNat + k)) (2 * 2 ^ gr.toNat * j) = false) →
      Completes (.vst vr w sa imm p gr) s 0) ∧
    (lanes → Completes (.vgather vr sa vb p) s 1) ∧
    (lanes → (∀ l, l < 32 → active s p l = true → laneZ s vb l = false ∧
        ∀ b, b < 16 → pzBit (rdV (atIssue s).core vr.toNat) (32 * l + 2 * b) = false) →
      Completes (.vscatter vr sa vb p) s 0)

namespace Sys2Proof.Claims
open Sys2Proof.Machine

/-- R33, R35: the engine of ring `q` begins the command now, for the context in slot `slot`. -/
def CanStart (s : State) (q : Nat) (c : Cmd) (slot : Nat) : Prop :=
  curSlot s = some slot ∧ canBegin q s.core = true ∧ waitMet s.core c = true

/-- R310: as before, and the entries ahead of it have finished translating, for which a command that moves data waits (log 26). -/
def CanRun (s : State) (q : Nat) (c : Cmd) (slot : Nat) : Prop := CanStart s q c slot ∧ aheadDone q s.core = true

/-- The command ends in `u` with nothing wrong: its status waits to be written when the entry completes (R33). -/
def ends (q : Nat) (c : Cmd) (detail : Nat) (u : State) : Host.Outcome State Fault Refusal := .next (endOk q c detail 0 [] u)

/-- `n` bytes at virtual address `va` lie on one plain page of the package that the TLBs hold, from physical address `pa`, on a stack that awaits no
repair, and are correctable; a write needs W. -/
def Held (s : State) (slot va n : Nat) (write : Bool) (pa : Nat) : Prop :=
  ∃ lf : Leaf, (∀ i, i < n → tlbHit s slot (va + i) = some lf) ∧ lf.tol = 0 ∧ lf.kh = 0 ∧ (write = true → lf.w = true) ∧
    paPkg lf.base = s.pkgNo.toNat ∧ bfield (bankRec s (paBank lf.base)) 31 1 = 0 ∧
    va + n ≤ 2 ^ 57 ∧ va % 2 ^ lf.lg + n ≤ 2 ^ lf.lg ∧ pa = lf.base + va % 2 ^ lf.lg ∧ sectorsOk s pa n = true

/-- A side of a command: `n` bytes of rows, or of memory with key handle zero. -/
def Side (s : State) (slot : Nat) (rows : Bool) (kh a n : Nat) (write : Bool) (p : Nat) : Prop :=
  if rows then p = a ∧ a + n ≤ 3121152 ∧ (write = false → ∀ e ∈ s.core.badRows, ¬(a / 512 ≤ e.1 ∧ e.1 * 512 < a + n))
  else kh = 0 ∧ Held s slot a n write p

/-- Byte `p` of the rows, or of memory. -/
def byteAt (s : State) (rows : Bool) (p : Nat) : Nat :=
  if rows then rowByte s.core (p / 512) (p % 512) else (Memory.read s.mem p).toNat

/-- Byte `k` of a number. -/
def nByte (x k : Nat) : Nat := x / 2 ^ (8 * k) % 256

/-- The command takes its place in the CM ring as a begun entry, which waits for what stands ahead of it and keeps the bytes that the engine has read (R40, R310, R362). -/
def heldBack (s : State) (o : Host.Outcome State Fault Refusal) : Prop :=
  let g := getRing s.core 3
  ∃ r taken, o = .next (withCore s (setRing s.core 3 { g with results := placeResult g r, appended := 0, pages := [], taken := taken })) ∧
    r.redo = true ∧ r.held = true ∧ r.bytes = some (takenBytes s.core 3) ∧ r.code = 0 ∧ r.busy = false ∧ r.posted = false ∧ r.fills = []

/-- What a step of a nest leaves: while a pre-emption lets the core complete, its nests are marked anew (R223). -/
def stepped (s t : State) : Host.Outcome State Fault Refusal :=
  if (curSlot s).isSome then .next t else .next (withCore t (markNests t.core))

/-- Element `o` of format `f` of the block that begins at unit `u` of operand memory: m·2^e, times its group's scale where the format has one, or
none for NaN and ±Inf (R126, R129, R205). -/
def blockElem (c : Core) (f u o : Nat) : Option (Int × Int) :=
  let w := matBits f
  let at_ := 2048 * (u % 64) + w * o
  let x := getSlot c (u / 64)
  let v := matVal f (x.data.toNat / 2 ^ at_ % 2 ^ w)
  if matMx f then
    let scale := nByte x.lane.toNat ((at_ - w * (o % 32)) / 8 / (4 * w))
    if scale = 255 then none else v.map fun p => (p.1, p.2 + ((scale : Int) - 127))
  else v

/-- An index tuple of a nest, innermost level first: each index is below its level's count (R209). -/
def Tuple (l : List Level) (i : List Nat) : Prop := i.length = l.length ∧ ∀ k x, l[k]? = some x → i.getD k 0 < x.count

/-- Tuple `i` comes before tuple `j` in the nest's order, the outermost level first (R209). -/
def Before (i j : List Nat) : Prop := ∃ k, i.getD k 0 < j.getD k 0 ∧ ∀ m, k < m → i.getD m 0 = j.getD m 0

/-- A base and the strides of the levels at a tuple (R209). -/
def placeAt (base : Nat) (stride : Level → Int) (l : List Level) (i : List Nat) : Int :=
  base + ((l.zip i).map fun p => (p.2 : Int) * stride p.1).sum

/-- `n` is the number p.1·2^p.2 over 2^e, rounded to the nearest integer, ties to even. -/
def Rne (p : Int × Int) (e n : Int) : Prop :=
  let u := min p.2 e
  let x := p.1 * 2 ^ (p.2 - u).toNat
  let d : Int := 2 ^ (e - u).toNat
  2 * ((x - n * d).natAbs : Int) ≤ d ∧ (2 * ((x - n * d).natAbs : Int) = d → n % 2 = 0)

/-- The bytes of rows and memory of two states are the same but where `f` holds. -/
def SameSides (s t : State) (f : Bool → Nat → Prop) : Prop := ∀ rows p, ¬f rows p → byteAt t rows p = byteAt s rows p

end Sys2Proof.Claims

/-- R33, R35, R310: no command has an effect while its context does not run, its engine cannot begin (it is busy, stopped, or has no entry to begin),
or its timeline has not reached WAITV; and an entry of the CM ring that moves data, behind one that still translates, takes its place in the ring and waits
(log 26). -/
def Sys2Proof.Claims.CommandsWait : Prop :=
  ∀ (i : Instr) (s : State) (q n : Nat) (c : Cmd), cmdParts i = some (q, n, c) →
    (curSlot s = none ∨ canBegin q s.core = false ∨ waitMet s.core c = false → exec i s = .next s) ∧
    ((∀ d, i ≠ .nsig d ∧ i ≠ .nabort d) → ∀ slot, CanStart s q c slot → aheadDone q s.core = false → q = 3 ∧ heldBack s (exec i s))

/-- R33, R35, R37, R40, R310: a command's outcome is kept after those of the entries begun before it, or, of the head of a ring that has
restarted, in the place of the one that stopped it; CNOP has no effect of its own, and is ILLEGAL with a non-zero ARG. -/
def Sys2Proof.Claims.CommandOutcomes : Prop :=
  ∀ (q : BitVec 3) (c : Cmd) (slot detail code : Nat) (x : Word) (fills : List Nat) (s : State),
    let g := getRing s.core q.toNat
    (∃ r, getRing (endOk q.toNat c detail x fills s).core q.toNat =
        { g with results := placeResult g r, appended := 0, pages := [], taken := if nextIndex g < g.results.length then g.taken else none } ∧
      r.code = 0 ∧ r.detail = detail ∧ r.statx = x ∧ r.fills = fills ∧ r.busy = false ∧ r.tag = c.tag.toNat ∧ r.rtl = c.rtl.toNat) ∧
    (∃ r, getRing (endBad q.toNat code detail x s).core q.toNat =
        { g with results := placeResult g r, appended := 0, pages := [], taken := if nextIndex g < g.results.length then g.taken else none } ∧
      r.code = code ∧ r.detail = detail ∧ r.statx = x) ∧
    (∀ r, (∀ y ∈ g.results, y.redo = false) → placeResult g r = g.results ++ [r]) ∧
    (∀ r a y b, g.results = a ++ y :: b → (∀ z ∈ a, z.redo = false) → y.redo = true → y.held = false → placeResult g r = a ++ r :: b) ∧
    (∀ k, k ≠ q.toNat → getRing (endOk q.toNat c detail x fills s).core k = getRing s.core k) ∧
    (CanRun s q.toNat c slot → c.arg = 0 → exec (.cnop q c) s = ends q.toNat c 0 s) ∧
    (CanRun s q.toNat c slot → c.arg ≠ 0 → exec (.cnop q c) s = .next (endBad q.toNat 1 0 0 s))

/-- R33, R34, R172: the head entry of a ring that has ended well completes: DONE with its DETAIL in STATW and STATX, its tag (CP) set, its fills done,
TL[q + 1] of the rings MX to CM and its own timeline raised by one, RSEQ and the read pointer advanced, its place free. -/
def Sys2Proof.Claims.EntriesComplete : Prop :=
  ∀ (s : State) (q : BitVec 3) (r : Result) (l : List Result), (engSlot s).isSome = true → q.toNat < 6 →
    let g := getRing s.core q.toNat
    g.results = r :: l → g.rp < 64 → g.stopped = false → r.busy = false → r.redo = false → r.code = 0 → r.posted = false → r.rtl < 4 → r.tag < 64 →
    ∃ t, exec (.engineEntryCompletion q 0) s = .next t ∧ t.mem = s.mem ∧ t.core.sregs = s.core.sregs ∧
      getRing t.core q.toNat = { g with rp := (g.rp + 1) % 64, occ := g.occ - 1, rseq := g.rseq + 1, results := l } ∧
      bits (readScratch t.core (entryOffset q.toNat g.rp + 48) 8) 63 63 = 1 ∧
      bits (readScratch t.core (entryOffset q.toNat g.rp + 48) 8) 62 62 = 0 ∧
      bits (readScratch t.core (entryOffset q.toNat g.rp + 48) 8) 55 48 = 0 ∧
      bits (readScratch t.core (entryOffset q.toNat g.rp + 48) 8) 47 0 = r.detail % 2 ^ 48 ∧
      readScratch t.core (entryOffset q.toNat g.rp + 56) 8 = r.statx.toNat ∧
      (∀ j, t.core.tags.getLsbD j = (s.core.tags.getLsbD j || (q.toNat == 2 && j == r.tag))) ∧
      (∀ j, getTl t.core j = getTl s.core j + (if q.toNat < 4 ∧ j = q.toNat + 1 then 1 else 0) + (if r.rtl ≠ 0 ∧ j = 4 + r.rtl then 1 else 0)) ∧
      ∀ x ∈ r.fills, (getSlot t.core x).st = .full ∧ (getSlot t.core x).fill = false

/-- R35, R394: a head entry that has ended badly stops its ring: ERR and its CODE in STATW, STATX, RSEQ as it was; the entry stays at the head. On a
halted core host software is told. A ring that is stopped begins nothing and completes nothing. When it restarts, its head entry begins
from the start, and what has begun behind it stays as it is (log 26). -/
def Sys2Proof.Claims.RingsStop : Prop :=
  ∀ (s : State) (q n : BitVec 3) (r : Result) (l : List Result), (engSlot s).isSome = true → q.toNat < 6 →
    let g := getRing s.core q.toNat
    (g.results = r :: l → g.rp < 64 → g.stopped = false → r.busy = false → r.redo = false → r.code ≠ 0 →
      ∃ t, exec (.ringStop q 0) s = .next t ∧ getRing t.core q.toNat = { g with stopped := true } ∧
        bits (readScratch t.core (entryOffset q.toNat g.rp + 48) 8) 63 62 = 1 ∧
        bits (readScratch t.core (entryOffset q.toNat g.rp + 48) 8) 55 48 = r.code % 256 ∧
        bits (readScratch t.core (entryOffset q.toNat g.rp + 48) 8) 47 0 = r.detail % 2 ^ 48 ∧
        readScratch t.core (entryOffset q.toNat g.rp + 56) 8 = r.statx.toNat ∧
        t.core.tl = s.core.tl ∧ t.core.tags = s.core.tags ∧ t.mem = s.mem ∧
        t.hostLog = s.hostLog ++ (if s.core.halted then [.ringStop s.coreNo q.toNat] else [])) ∧
    (g.stopped = true → canBegin q.toNat s.core = false ∧ exec (.ringStop q n) s = .next s ∧
      exec (.engineEntryCompletion q n) s = .next s) ∧
    (∀ y b, let h := getRing (restartRing s.core q.toNat) q.toNat
      h.stopped = false ∧ h.rp = g.rp ∧ h.occ = g.occ ∧ h.rseq = g.rseq ∧
      (g.results = [y] → h.results = []) ∧ (g.results = y :: r :: b → h.results = { y with redo := true } :: r :: b))

/-- R183: a fill that completes makes its slot FULL, and the entry that named it no longer waits for it. -/
def Sys2Proof.Claims.SlotFillsComplete : Prop :=
  ∀ (s : State) (x : BitVec 5) (q : Nat) (r : Result), (engSlot s).isSome = true → (getSlot s.core x.toNat).fill = true → q = 0 ∨ q = 2 →
    r ∈ (getRing s.core q).results → x.toNat ∈ r.fills →
    ∃ t, exec (.slotFillComplete x) s = .next t ∧ getSlot t.core x.toNat = { getSlot s.core x.toNat with st := .full, fill := false } ∧
      (∀ y, y ≠ x.toNat → getSlot t.core y = getSlot s.core y) ∧ (∀ e ∈ (getRing t.core q).results, x.toNat ∉ e.fills) ∧ t.mem = s.mem

/-- R182, R183, R215: OPLD fills part of a claimed slot with rows of sectors, and part of its scale lane, and leaves the slot filling. It waits until its
slot is claimed and not being filled. -/
def Sys2Proof.Claims.OperandLoads : Prop :=
  ∀ (s : State) (c : Cmd) (slot pl : Nat) (pa : Nat → Nat), CanRun s 0 c slot →
    let a := c.arg.toNat
    let x := bits a 39 35
    let u := 256 * bits a 34 29
    let n := 64 * (bits a 28 21 + 1)
    let r := bits a 20 13 + 1
    let soff := bits c.p3.toNat 9 0
    let scnt := bits c.p3.toNat 20 10
    let legal := bits a 12 12 = 0 ∧ bits a 1 0 = 0 ∧ c.p0.toNat % 64 = 0 ∧ c.p1.toNat % 64 = 0 ∧ u + n * r ≤ 16384 ∧
      bits c.p3.toNat 63 21 = 0 ∧ soff + scnt ≤ 1024 ∧ (scnt = 0 → c.p2 = 0)
    (¬legal → exec (.opld c) s = .next (endBad 0 1 0 0 s)) ∧
    (legal → canFill s.core x = false → exec (.opld c) s = .next s) ∧
    (legal → canFill s.core x = true → bits a 11 2 = 0 → (∀ i, i < r → Held s slot ((c.p0.toNat + c.p1.toNat * i) % 2 ^ 64) n false (pa i)) →
      Held s slot c.p2.toNat scnt false pl →
      ∃ t, exec (.opld c) s = .next (endOk 0 c (n * r) 0 [x] t) ∧ t.mem = s.mem ∧
        (getSlot t.core x).st = .claimed ∧ (getSlot t.core x).fill = true ∧
        (∀ i k, i < r → k < n → nByte (getSlot t.core x).data.toNat (u + n * i + k) = (Memory.read s.mem (pa i + k)).toNat) ∧
        (∀ k, k < scnt → nByte (getSlot t.core x).lane.toNat (soff + k) = (Memory.read s.mem (pl + k)).toNat) ∧
        (∀ b, ¬(u ≤ b ∧ b < u + n * r) → nByte (getSlot t.core x).data.toNat b = nByte (getSlot s.core x).data.toNat b) ∧
        (∀ y, y ≠ x → getSlot t.core y = getSlot s.core y) ∧ t.core.tiles = s.core.tiles ∧ t.core.rows = s.core.rows)

/-- R186, R194 to R196: ACCZ, ACCST and ACCLD. A tile image is 2,048 mantissas of 48 bits and the status word; reserved status bits read zero. -/
def Sys2Proof.Claims.AccumulatorCommands : Prop :=
  ∀ (s : State) (c : Cmd) (slot pa : Nat),
    CanRun s 0 c slot →
    let a := c.arg.toNat
    let first := bits a 39 33
    let n := bits a 32 26 + 1
    let mode := bits a 25 25 == 1
    let e0 := signed 16 (bits a 24 9)
    let zLegal := first + n ≤ 80 ∧ bits a 8 0 = 0 ∧ c.p0 = 0 ∧ c.p1 = 0 ∧ c.p2 = 0 ∧ c.p3 = 0 ∧ (mode = true → e0 = 0)
    let legal := first + n ≤ 80 ∧ bits a 25 0 = 0 ∧ c.p0.toNat % 64 = 0 ∧ c.p1 = 0 ∧ c.p2 = 0 ∧ c.p3 = 0
    let image := fun (t : Tile) => t.m.toNat + 2 ^ 98304 * (t.stat &&& 0xE000FFFF0000FFFF).toNat
    (¬zLegal → exec (.accz c) s = .next (endBad 0 1 0 0 s)) ∧
    (¬legal → exec (.accst c) s = .next (endBad 0 1 0 0 s) ∧ exec (.accld c) s = .next (endBad 0 1 0 0 s)) ∧
    (zLegal → ∃ t, exec (.accz c) s = ends 0 c 0 t ∧ t.mem = s.mem ∧ t.core = { s.core with tiles := t.core.tiles, badTiles := t.core.badTiles } ∧
      ∀ k, (¬(first ≤ k ∧ k < first + n) → getTile t.core k = getTile s.core k) ∧ (first ≤ k → k < first + n →
        (getTile t.core k).m = 0 ∧ tileMode (getTile t.core k) = mode ∧ tileExp (getTile t.core k) = e0 ∧
          bits (getTile t.core k).stat.toNat 62 16 = 0)) ∧
    (legal → s.core.badTiles = [] → Held s slot c.p0.toNat (12352 * n) true pa →
      ∃ t, exec (.accst c) s = ends 0 c 0 t ∧ t.core = s.core ∧ SameBytes s t (fun b => pa ≤ b ∧ b < pa + 12352 * n) ∧
        ∀ i k, i < n → k < 12352 → (Memory.read t.mem (pa + 12352 * i + k)).toNat = nByte (image (getTile s.core (first + i))) k) ∧
    (legal → Held s slot c.p0.toNat (12352 * n) false pa →
      ∃ t, exec (.accld c) s = ends 0 c 0 t ∧ t.mem = s.mem ∧ t.core = { s.core with tiles := t.core.tiles, badTiles := t.core.badTiles } ∧
        (∀ k, ¬(first ≤ k ∧ k < first + n) → getTile t.core k = getTile s.core k) ∧
        ∀ i k, i < n → k < 12352 → nByte (image (getTile t.core (first + i))) k =
          (if k < 12288 then (Memory.read s.mem (pa + 12352 * i + k)).toNat
           else nByte (memNum s (pa + 12352 * i + 12288) 8 &&& 0xE000FFFF0000FFFF) (k - 12288)))

/-- R216 to R218: MDQFILL appends its entries in address order while the queue has room; CBTAB replaces a palette whole. -/
def Sys2Proof.Claims.MetadataAndPalettes : Prop :=
  ∀ (s : State) (c : Cmd) (slot pa : Nat),
    let a := c.arg.toNat
    let zeros := c.p1 = 0 ∧ c.p2 = 0 ∧ c.p3 = 0 ∧ c.p0.toNat % 64 = 0
    (CanRun s 0 c slot →
      let total := bits a 39 32 + 1
      (¬(zeros ∧ bits a 31 0 = 0) → exec (.mdqfill c) s = .next (endBad 0 1 0 0 s)) ∧
      (zeros → bits a 31 0 = 0 → (getRing s.core 0).appended = 0 → (getRing s.core 0).pages = [] →
        entryDetail s.core 0 (nextEntry s.core 0) = 0 →
        s.core.mdq.length + total ≤ 256 → Held s slot c.p0.toNat (1024 * total) false pa →
        ∃ t, exec (.mdqfill c) s = .next (endMq 0 c total t) ∧ t.mem = s.mem ∧ t.core = { s.core with mdq := t.core.mdq } ∧
          t.core.mdq = s.core.mdq ++ (List.range total).map fun i => .ofNat 8192 (memNum s (pa + 1024 * i) 1024))) ∧
    (CanRun s 1 c slot →
      (¬(zeros ∧ bits a 38 0 = 0) → exec (.cbtab c) s = .next (endBad 1 1 0 0 s)) ∧
      (zeros → bits a 38 0 = 0 → Held s slot c.p0.toNat 768 false pa →
        ∃ t, exec (.cbtab c) s = ends 1 c 0 t ∧ t.mem = s.mem ∧
          t.core = (if bits a 39 39 = 0 then { s.core with pal0 := .ofNat 6144 (memNum s pa 768) } else { s.core with pal1 := .ofNat 6144 (memNum s pa 768) })))

/-- R198, R206, R210, R211, R213, R228, R230: MMGO, MMSL and SKGO wait for their shadow set, are ILLEGAL when a check of R210 or R230
fails, a machine check when the MODE of a tile to sum into cannot be read, SLOT_STATE when such a tile stands in the other mode, and else
start their nest at the first tuple, with no metadata entry: they take the set, and count as a user of every slot that their steps
read. The words legal, summed into and read are those of `NestChecks`. -/
def Sys2Proof.Claims.NestsStart : Prop :=
  ∀ (s : State) (c : Cmd) (slot : Nat),
    let starts := fun (o : Host.Outcome State Fault Refusal) (g : Go) =>
      let q := if g.sk then 1 else 0
      let k := 2 * q + g.set
      let sh := Sparse.get Shadow.empty s.core.shadows k
      let l := imgLevels sh.image
      let legal := goLegal g c sh.image = true
      let unread := ∃ x ∈ sumTiles g sh.image l, (127, x) ∈ s.core.badTiles
      let clash := ∃ x ∈ sumTiles g sh.image l, tileMode (getTile s.core x) ≠ goInt g
      CanRun s q c slot →
      (sh.loaded = false → o = .next s) ∧
      (sh.loaded = true → ¬legal → o = .next (endBad q 1 0 0 s)) ∧
      (sh.loaded = true → legal → unread → ∃ p, o = .next (logStop 3 p (endBad q codeCheck 0 0 s))) ∧
      (sh.loaded = true → legal → ¬unread → clash → o = .next (endBad q 0x0A 0 0 s)) ∧
      (sh.loaded = true → legal → ¬unread → ¬clash → ∃ t n, o = .next t ∧
        getNest g.sk t.core = some n ∧ n.image = sh.image ∧ n.cmd = c ∧ n.idx = l.map (fun _ => 0) ∧ n.pair = 0 ∧ n.detail = 0 ∧ n.held = none ∧ n.popped = none ∧
        n.sliced = g.sliced ∧ n.pal = (if g.pal = 0 then s.core.pal0 else s.core.pal1) ∧
        (Sparse.get Shadow.empty t.core.shadows k).loaded = false ∧ t.mem = s.mem ∧ t.core.tiles = s.core.tiles ∧
        ∀ x, getSlot t.core x = { getSlot s.core x with users := (getSlot s.core x).users + (readSet sh.image l).count x })
    starts (exec (.mmgo c) s) (goOf false c) ∧ starts (exec (.mmsl c) s) (goSliced c) ∧ starts (exec (.skgo c) s) (goOf true c)

/-- R202, R204, R208, R210, R211, R228 to R230: what makes a go command legal, over every tuple of its image; the tiles that the first step
that touches them sums into without zeroing them; and the slots that its steps read. -/
def Sys2Proof.Claims.NestChecks : Prop :=
  ∀ (sk sliced : Bool) (c : Cmd) (img : BitVec 1280),
    let g := if sliced then goSliced c else goOf sk c
    let a := c.arg.toNat
    let l := imgLevels img
    let byte := fun (k : Nat) => img.toNat / 2 ^ (8 * k) % 256
    let blank := (∀ k, 7 ≤ k → k < 64 → byte k = 0) ∧ ∀ m, m < 6 → byte (71 + 16 * m) < 8 ∧ (∀ k, k < 8 → byte (72 + 16 * m + k) = 0) ∧
      (imgDepth img ≤ m → ∀ k, k < 16 → byte (64 + 16 * m + k) = 0)
    let formats := if sliced then g.af = g.bf ∧ 1 ≤ g.sl ∧ ((g.af = 20 ∧ g.sl ≤ 4) ∨ (g.af = 21 ∧ g.sl ≤ 9))
      else if sk then g.af ∈ [3, 4, 9, 10, 18] ∧ g.bf ∈ [1, 19] ∧ g.sp = false
      else g.af ≤ 18 ∧ g.bf ≤ 19 ∧ (g.sp = true → g.bf ∈ [1, 2, 3, 4, 6, 7, 8, 9, 10] ∧ g.af ∉ [5, 11, 12])
    let A := placeAt (imgABase img) Level.astr l
    let B := placeAt (imgBBase img) Level.bstr l
    let T := placeAt (imgTBase img) Level.tstr l
    let tiles : Nat := if sliced then g.sl else 1
    let block := fun (u : Int) (n : Nat) (unit : Int) => 0 ≤ u ∧ u + n ≤ 2048 ∧ u % 64 + n ≤ 64 ∧ (sliced = true → u % unit = 0)
    let hits := fun (i : List Nat) (t : Nat) => ∃ d, d < tiles ∧ T i + (d : Int) = t
    let zeroing := fun (i : List Nat) => ∃ m x, l[m]? = some x ∧ x.zf = true ∧ ∀ k, k ≤ m → i.getD k 0 = 0
    (goLegal g c img = true ↔
      (if sliced then bits a 24 0 = 0 else bits a 26 26 = 0 ∧ bits a 9 0 = 0) ∧ blank ∧ c.p0 = 0 ∧ c.p1 = 0 ∧ c.p2 = 0 ∧ c.p3 = 0 ∧ formats ∧
      1 ≤ imgDepth img ∧ imgDepth img ≤ 6 ∧ (∀ x ∈ l, 1 ≤ x.count) ∧ imgLtl img ≤ 3 ∧ (imgLtl img = 0 → ∀ x ∈ l, x.rt = false) ∧
      (g.sp = true ↔ ∃ x ∈ l, x.mp = true) ∧ (goInt g = true → g.exp0 = 0) ∧ (g.pal ≠ 0 → g.bf = 19) ∧
      ∀ i, Tuple l i → 0 ≤ T i ∧ T i + (tiles : Int) ≤ 80 ∧
        block (A i) (if sliced then 8 else matBits g.af / 2) 8 ∧
        block (B i) (if sliced then 64 else if g.sp then 2 * matBits g.bf else 4 * matBits g.bf) 64) ∧
    (goLegal g c img = true →
      (∀ t, t ∈ sumTiles g img l ↔ ∃ i, Tuple l i ∧ hits i t ∧ (∀ j, Tuple l j → Before j i → ¬hits j t) ∧ ¬zeroing i) ∧
      (∀ i, Tuple l i → (zeroes l i = true ↔ zeroing i)) ∧
      ∀ x : Nat, x ∈ readSet img l ↔ ∃ i, Tuple l i ∧ (A i / 64 = (x : Int) ∨ B i / 64 = (x : Int)))

/-- R33, R183, R209: after a step the nest goes on with the next tuple; after the last it ends its command with the count of its
steps and its paused cycles. A slot that no later tuple reads is passed: it loses a user, and at its last an automatic slot that is FULL is free; every other
slot, and every tile, stays. The image's timeline rises by one for each RT level that the tuple ends, with all the levels inside it. -/
def Sys2Proof.Claims.NestsAdvance : Prop :=
  ∀ (sk : Bool) (n : Nest) (s : State) (g : Go) (d : Cmd),
    let l := imgLevels n.image
    goLegal g d n.image = true → Tuple l n.idx →
    let slots := fun (i : List Nat) (x : Nat) =>
      placeAt (imgABase n.image) Level.astr l i / 64 = (x : Int) ∨ placeAt (imgBBase n.image) Level.bstr l i / 64 = (x : Int)
    let last := fun (x : Nat) => slots n.idx x ∧ ∀ i, Tuple l i → Before n.idx i → ¬slots i x
    let ended := (List.range l.length).countP fun m =>
      l[m]?.any (·.rt) && (l.take (m + 1)).zipIdx.all fun p => n.idx.getD p.2 0 + 1 == p.1.count
    ∃ c, c.tiles = s.core.tiles ∧ c.rings = s.core.rings ∧ c.sregs = s.core.sregs ∧
      (∀ x, ¬last x → getSlot c x = getSlot s.core x) ∧
      (∀ x, last x → let o := getSlot s.core x
        getSlot c x = if o.users ≤ 1 ∧ o.auto = true ∧ o.st = .full then { o with users := 0, st := .free, auto := false }
          else { o with users := o.users - 1 }) ∧
      (∀ j, getTl c j = if j = 4 + imgLtl n.image then getTl s.core j + .ofNat 64 ended else getTl s.core j) ∧
      (∀ i, nextIdx l n.idx = some i → nestAdvance sk n s = withCore s c ∧ getNest sk c = some { n with idx := i, pair := 0 }) ∧
      (nextIdx l n.idx = none → getNest sk c = none ∧
        nestAdvance sk n s = endOk (if sk then 1 else 0) n.cmd n.detail (paused sk s.core) [] (withCore s c))

/-- R187, R188, R203, R209, R216, R219: a K-step waits for its slots, and a sparse one whose indices from the lowest MP level up are new for an entry of the
metadata queue, and without them changes nothing. With its slots FULL, its entry there, its tokens in the pool
and no uncorrectable word, it takes the entry, which stays with the nest until the next, and its tokens, sums the exact products of its 16 rows and 128 columns (`StepSumsExact`) into its tile, first zeroed where a ZF level asks, and
goes on to the next tuple. That it does so whatever MODE another engine has given the tile since the start check, and that no event falls between the zeroing and the
update, is the model's choice (log 62). -/
def Sys2Proof.Claims.NestStepsSum : Prop :=
  ∀ (s : State) (sk : Bool) (n : Nest), nestMay sk s = true → getNest sk s.core = some n → n.sliced = false →
    let g := goOf sk n.cmd
    let l := imgLevels n.image
    let a := ((imgABase n.image : Int) + dotIdx (lvA l) n.idx).toNat
    let b := ((imgBBase n.image : Int) + dotIdx (lvB l) n.idx).toNat
    let t := ((imgTBase n.image : Int) + dotIdx (lvT l) n.idx).toNat
    let full := fun x => (getSlot s.core (x / 64)).st = .full
    let col := getCol s (colOf s.coreNo)
    let key := n.idx.drop (l.findIdx (·.mp))
    let pops := g.sp = true ∧ n.popped ≠ some key
    let n1 := if pops then { n with held := s.core.mdq.head?, popped := some key } else n
    let c1 := if pops then { s.core with mdq := s.core.mdq.tail } else s.core
    let sums := stepSums g s.core n.pal.toNat ((n1.held.getD 0).toNat) a b
    let base := if zeroes l n.idx then zeroTile (goInt g) g.exp0 else getTile s.core t
    let tile := if goInt g then chunkInt base (sums.1.map (·.1)) else chunkScaled base sums.1 sums.2
    (¬(full a ∧ full b) → exec (.nestStep sk) s = stepped s s) ∧
    (full a → full b → s.core.badSlots = [] → pops → s.core.mdq = [] → exec (.nestStep sk) s = stepped s s) ∧
    (full a → full b → (pops → s.core.mdq ≠ []) → (if sk then s.core.grantSK else s.core.grantMX) = false → col.tokq = [] → goWeight g ≤ col.pool →
      s.core.badSlots = [] → s.core.badTiles = [] →
      exec (.nestStep sk) s = stepped s (nestAdvance sk { n1 with detail := (n.detail + 1) % 2 ^ 48 }
        (withCore (setCol s (colOf s.coreNo) { col with pool := col.pool - goWeight g }) (putTile (setNest sk c1 (some n1)) t tile))))

/-- R126, R127, R203, R205: the sums of a K-step. Element (i, j) is the exact sum over the K positions of the product of element k of row i of A by element k of column j
of B; with a sparse B by the position that the metadata gives to each kept value, and with CB2 codes by the element that the palette decodes. A product with a NaN or an infinity
adds nothing, and marks its row. Values are compared as multiples of 2^−1000. -/
def Sys2Proof.Claims.StepSumsExact : Prop :=
  ∀ (g : Go) (c : Core) (pal meta_ a b i j : Nat), i < 16 → j < 128 → (g.sp = true → g.bf ≠ 19) →
    let n := if g.sp then 32 else 64
    let pos := fun (j k : Nat) => if g.sp then 4 * (k / 2) + meta_ / 2 ^ (64 * j + 4 * (k / 2)) % 16 / 4 ^ (k % 2) % 4 else k
    let av := fun (j k : Nat) => blockElem c g.af a (64 * i + pos j k)
    let bv := fun (j k : Nat) => if g.bf = 19 then
        some (cb2Val pal ((getSlot c (b / 64)).data.toNat / 2 ^ (2048 * (b % 64) + 128 * j + 16 * (k / 8)) % 2 ^ 16) (k % 8), -3)
      else blockElem c g.bf b (n * j + k)
    let num := fun (p : Int × Int) => p.1 * 2 ^ (p.2 + 1000).toNat
    let product := fun (k : Nat) => match av j k, bv j k with | some x, some y => num (x.1 * y.1, x.2 + y.2) | _, _ => 0
    let q := stepSums g c pal meta_ a b
    q.1.length = 2048 ∧
    (∃ p, q.1[128 * i + j]? = some p ∧ -1000 ≤ p.2 ∧ num p = ((List.range n).map product).sum) ∧
    (q.2.testBit i = true ↔ ∃ j k, j < 128 ∧ k < n ∧ (av j k = none ∨ bv j k = none))

/-- R223: a nest that a pre-emption has marked takes no step while its context does not run; the nests of a core are marked that have more than 36,000 cycles left, or stand
at a read of a slot that is not FULL or of metadata that is not there. A mark stays. -/
def Sys2Proof.Claims.NestsMarked : Prop :=
  (∀ (s : State) (sk : Bool) (n : Nest), curSlot s = none → getNest sk s.core = some n → n.stop = true →
    exec (.nestStep sk) s = .next s ∧ (sk = false → exec .pairStep s = .next s)) ∧
  ∀ (c : Core) (sk : Bool),
    getNest sk (markNests c) = (getNest sk c).map (fun n => { n with stop := n.stop || nestLong sk n || nestWaits sk n c }) ∧
    (markNests c).slots = c.slots ∧ (markNests c).tiles = c.tiles ∧ (markNests c).rings = c.rings ∧
    (∀ n, nestLong sk n = true ↔ 36000 < stepsLeft n * goCycles (if n.sliced then goSliced n.cmd else goOf sk n.cmd)) ∧
    ∀ n, getNest sk c = some n → n.sliced = false → (goOf sk n.cmd).sp = false →
      let l := imgLevels n.image
      let full := fun (u : Int) => (getSlot c (u.toNat / 64)).st = .full
      (nestWaits sk n c = false ↔ full ((imgABase n.image : Int) + dotIdx (lvA l) n.idx) ∧ full ((imgBBase n.image : Int) + dotIdx (lvB l) n.idx))

/-- R187: a chunk update in scaled mode. Each sum is rounded to the tile's unit, ties to even, and added. While every mantissa is below 2^46 in magnitude, those
are the tile's; else every mantissa of the tile is rounded to 256 units, ties to even, EXP rises by 8, INEXACT is set and the sums are added anew; and where EXP
cannot rise, the mantissas saturate, with OVF. INEXACT tells that a sum of the final pass was rounded, and NV the rows of a NaN or infinite product. -/
def Sys2Proof.Claims.ScaledUpdates : Prop :=
  ∀ (t : Tile) (s : List (Int × Int)) (nv : Nat) (r : Nat → Int), s.length = 2048 → nv < 2 ^ 16 →
    (∀ k, k < 2048 → Rne (s.getD k (0, 0)) (tileExp t) (r k)) →
    let man := fun (x : Tile) (k : Nat) => tileMan x (k / 128) (k % 128)
    let u := chunkScaled t s nv
    let v := fun (k : Nat) => man t k + r k
    let fits := ∀ k, k < 2048 → (v k).natAbs < 2 ^ 46
    let exact := ∀ k, k < 2048 → let p := s.getD k (0, 0)
      let u := min p.2 (tileExp t)
      p.1 * 2 ^ (p.2 - u).toNat = r k * 2 ^ (tileExp t - u).toNat
    let inexact := fun (x : Tile) => x.stat.getLsbD 62
    let ovf := fun (x : Tile) => x.stat.getLsbD 61
    tileMode u = false ∧ bits u.stat.toNat 47 32 = bits t.stat.toNat 47 32 ||| nv ∧
    (fits → (∀ k, k < 2048 → man u k = v k) ∧ tileExp u = tileExp t ∧ (inexact u = true ↔ inexact t = true ∨ ¬exact) ∧ ovf u = ovf t) ∧
    (¬fits → 32767 < tileExp t + 8 → (∀ k, k < 2048 → man u k = max (-(2 ^ 46 - 1)) (min (v k) (2 ^ 46 - 1))) ∧ tileExp u = tileExp t ∧
      (inexact u = true ↔ inexact t = true ∨ ¬exact) ∧ ovf u = true) ∧
    (¬fits → tileExp t + 8 ≤ 32767 → ∀ t2 : Tile, (∀ k, k < 2048 → Rne (man t k, 0) 8 (man t2 k)) → tileExp t2 = tileExp t + 8 →
      inexact t2 = true → ovf t2 = ovf t → bits t2.stat.toNat 47 32 = bits t.stat.toNat 47 32 → u = chunkScaled t2 s nv)

/-- R187, R188: a chunk update in integer mode, whatever the tile's MODE was (R189 gives a command that finds the other mode SLOT_STATE at its start: that a step sums on all the same is the
model's choice, log 62), adds each sum to its mantissa and saturates at 48 bits, with OVF; in scaled mode, sums that are multiples of
2^EXP and fit add exactly. -/
def Sys2Proof.Claims.ChunkUpdates : Prop :=
  ∀ (t : Tile) (s : List Int) (i j : Nat), s.length = 2048 → i < 16 → j < 128 →
    let m := fun (t : Tile) => tileMan t i j
    let v := m t + s.getD (128 * i + j) 0
    m (chunkInt t s) = max (-2 ^ 47) (min v (2 ^ 47 - 1)) ∧ tileMode (chunkInt t s) = true ∧ tileExp (chunkInt t s) = 0 ∧
    ((chunkInt t s).stat.getLsbD 61 = true ↔ t.stat.getLsbD 61 = true ∨
      ∃ i j, i < 16 ∧ j < 128 ∧ ¬(-2 ^ 47 ≤ tileMan t i j + s.getD (128 * i + j) 0 ∧ tileMan t i j + s.getD (128 * i + j) 0 < 2 ^ 47)) ∧
    ((∀ i j, i < 16 → j < 128 → (tileMan t i j + s.getD (128 * i + j) 0).natAbs < 2 ^ 46) →
      m (chunkScaled t (s.map fun x => (x, tileExp t)) 0) = v ∧ tileExp (chunkScaled t (s.map fun x => (x, tileExp t)) 0) = tileExp t ∧
      tileMode (chunkScaled t (s.map fun x => (x, tileExp t)) 0) = false)

/-- R225, R226, R230, R231: a pair step of a sliced nest waits for its slots; with its slots FULL, its tokens in the pool and no
uncorrectable word it adds, for each row and column, the products of its slice pair over the block's K positions into the tile of the pair's
diagonal, counts the step and, at the first pair, the bad elements, and goes on to the next pair or, after the last, to the next tuple. That it does so whatever MODE another
engine has given the tile since the start check, and that no event falls between the zeroing and the update, is the model's choice (log 62). -/
def Sys2Proof.Claims.PairStepsSum : Prop :=
  ∀ (s : State) (n : Nest), nestMay false s = true → s.core.nestMX = some n → n.sliced = true →
    let g := goSliced n.cmd
    let l := imgLevels n.image
    let a := ((imgABase n.image : Int) + dotIdx (lvA l) n.idx).toNat
    let b := ((imgBBase n.image : Int) + dotIdx (lvB l) n.idx).toNat
    let pq := pairOf n.pair
    let t := ((imgTBase n.image : Int) + dotIdx (lvT l) n.idx).toNat + pq.1 + pq.2 - 2
    let full := fun x => (getSlot s.core (x / 64)).st = .full
    let col := getCol s (colOf s.coreNo)
    let A := sliceRuns s.core g.af a 16 (32 * (a % 64 / 8)) pq.1
    let B := sliceRuns s.core g.af b 128 0 pq.2
    let sl := fun (m : List (List (Option Int))) (i k : Nat) => ((m.getD i []).getD k none).getD 0
    let base := if pq.1 = 1 ∧ zeroes l n.idx = true then zeroTile true 0 else getTile s.core t
    (¬(full a ∧ full b) → exec .pairStep s = stepped s s) ∧
    (full a → full b → s.core.grantMX = false → col.tokq = [] → goWeight g ≤ col.pool → s.core.badSlots = [] → s.core.badTiles = [] →
      ∃ sums n1, sums.length = 2048 ∧
        (∀ i j, i < 16 → j < 128 → sums.getD (128 * i + j) 0 =
          ((List.range (slicedK g.af)).map fun k => sl A i k * sl B j k).sum) ∧
        n1 = { n with detail := n1.detail } ∧ n1.detail % 2 ^ 32 = (n.detail + 1) % 2 ^ 32 ∧
        n1.detail / 2 ^ 32 = (if n.pair = 0 then min (n.detail / 2 ^ 32 + badCount A + badCount B) 65535 else n.detail / 2 ^ 32) ∧
        let v := withCore (setCol s (colOf s.coreNo) { col with pool := col.pool - goWeight g })
          (putTile s.core t (chunkInt base sums))
        exec .pairStep s = stepped s (if n.pair + 1 = g.sl * (g.sl + 1) / 2 then nestAdvance false n1 v
          else withCore v (setNest false v.core (some { n1 with pair := n.pair + 1 })))) ∧
    pairOf 0 = (1, 1) ∧
    (∀ pi, pi < 44 → pairOf (pi + 1) = if 1 < (pairOf pi).2 then ((pairOf pi).1 + 1, (pairOf pi).2 - 1) else (1, (pairOf pi).1 + 1))

/-- R225: the slices of an element: those of a fit element have its sign, are at most 127, and spell |x|·2^(7s − ε) truncated; a bad
element has none. -/
def Sys2Proof.Claims.SlicesSplit : Prop :=
  ∀ (f x w : Nat) (ep : Int),
    (∀ neg m e, fdec (fmtOf f) x = .fin neg m e → e ≤ ep → m < 2 ^ (ep - e).toNat →
      ((List.range w).map fun p => ((sliceOf f x ep (p + 1)).getD 0).natAbs * 2 ^ (7 * (w - 1 - p))).sum =
        m * 2 ^ (7 * w) / 2 ^ (ep - e).toNat ∧
      ∀ p, ∃ y, sliceOf f x ep p = some y ∧ y.natAbs ≤ 127 ∧ (neg = true → y ≤ 0) ∧ (neg = false → 0 ≤ y)) ∧
    (∀ neg m e p, fdec (fmtOf f) x = .fin neg m e → m ≠ 0 → ep < e ∨ 2 ^ (ep - e).toNat ≤ m → sliceOf f x ep p = none) ∧
    (∀ p, (fdec (fmtOf f) x).isNan = true ∨ (fdec (fmtOf f) x).isInf = true → sliceOf f x ep p = none)

/-- R214: SKSCORE waits for its slot, and with its slot FULL, its tokens in the pool and no uncorrectable word replaces its tile: element (i, j) the sum
over the dimensions of query i by key j, or by the greater of the two bounds, for the columns in use, and zero for the rest. -/
def Sys2Proof.Claims.SketchScores : Prop :=
  ∀ (s : State) (c : Cmd) (slot : Nat), CanRun s 1 c slot →
    let a := c.arg.toNat
    let tile := bits a 39 33
    let d := 64 * 2 ^ bits a 31 30
    let nc := bits a 29 23 + 1
    let x := bits a 22 18
    let row0 := bits c.p0.toNat 12 0
    let w := if bits a 32 32 = 1 then 2 * d else d / 2
    let legal := tile ≤ 79 ∧ bits a 31 30 ≠ 3 ∧ bits a 11 0 = 0 ∧ bits c.p0.toNat 63 13 = 0 ∧ c.p1 = 0 ∧ c.p2 = 0 ∧ c.p3 = 0 ∧
      256 * bits a 17 12 + 16 * d ≤ 16384 ∧ 512 * row0 + nc * w ≤ 512 * 6144
    let weight := (if bits a 32 32 = 1 then 8 else 4) * d / 64
    let col := getCol s (colOf s.coreNo)
    let qv := fun i k => signed 8 (nByte (getSlot s.core x).data.toNat (256 * bits a 17 12 + d * i + k))
    let by_ := fun j b => byteAt s true (512 * row0 + j * w + b)
    let score := fun i j => ((List.range d).map fun k =>
      if bits a 32 32 = 1 then max (qv i k * signed 8 (by_ j k)) (qv i k * signed 8 (by_ j (d + k)))
      else qv i k * signed 4 (by_ j (k / 2) / 16 ^ (k % 2) % 16)).sum
    (¬legal → exec (.skscore c) s = .next (endBad 1 1 0 0 s)) ∧
    (legal → (getSlot s.core x).st ≠ .full → ∃ t, exec (.skscore c) s = .next t ∧ t.core.tiles = s.core.tiles ∧ t.core.skCounted = some (s.core.skCounted.getD x) ∧ t.mem = s.mem) ∧
    (legal → (getSlot s.core x).st = .full → s.core.grantSK = false → col.tokq = [] → weight ≤ col.pool → s.core.badSlots = [] → s.core.badRows = [] →
      ∃ t px, exec (.skscore c) s = .next (endOk 1 c 1 px [] t) ∧ t.mem = s.mem ∧ t.core.skCounted = none ∧
        (getCol t (colOf s.coreNo)).pool = col.pool - weight ∧ (∀ k, k ≠ tile → getTile t.core k = getTile s.core k) ∧
        tileMode (getTile t.core tile) = true ∧
        ∀ i j, i < 16 → j < 128 → tileMan (getTile t.core tile) i j = if j < nc then score i j else 0)

/-- R416 to R420: CPY, CPYS and CPYFILL between rows and plain memory, where the pieces do not overlap: every destination byte is its source byte, and no
other byte of rows or memory changes. What is not legal is ILLEGAL. -/
def Sys2Proof.Claims.CopiesMoveBytes : Prop :=
  ∀ (s : State) (c : Cmd) (slot : Nat) (ps pd : Nat → Nat), CanRun s 2 c slot →
    let a := c.arg.toNat
    let sr := bits a 39 39 == 1
    let dr := bits a 38 38 == 1
    let base := fun (rows : Bool) (p : Word) => if rows then 512 * p.toNat else p.toNat
    let sideLegal := fun (rows : Bool) (p : Word) (n : Nat) => if rows then p.toNat < 8192 ∧ 512 * p.toNat + n ≤ 3121152 else p.toNat % 64 = 0
    let apart := fun (r n : Nat) => (∀ i j k m, i < r → j < r → k < n → m < n → sr = dr → ps i + k ≠ pd j + m) ∧
      ∀ i j k m, i < r → j < r → k < n → m < n → pd i + k = pd j + m → i = j ∧ k = m
    let moved := fun (t : State) (r n : Nat) => (∀ i k, i < r → k < n → byteAt t dr (pd i + k) = byteAt s sr (ps i + k)) ∧
      SameSides s t fun rows p => rows = dr ∧ ∃ i k, i < r ∧ k < n ∧ p = pd i + k
    (let n := 64 * (bits a 37 20 + 1)
     let legal := bits a 9 0 = 0 ∧ c.p2 = 0 ∧ c.p3 = 0 ∧ sideLegal sr c.p0 n ∧ sideLegal dr c.p1 n
     (¬legal → exec (.cpy c) s = .next (endBad 2 1 0 0 s)) ∧
     (legal → Side s slot sr (bits a 19 10) (base sr c.p0) n false (ps 0) → Side s slot dr (bits a 19 10) (base dr c.p1) n true (pd 0) →
       apart 1 n → ∃ t, exec (.cpy c) s = ends 2 c n t ∧ moved t 1 n)) ∧
    (let n := 64 * (bits a 37 30 + 1)
     let r := bits a 29 18 + 1
     let at_ := fun (p d : Word) (i : Nat) => (p + d * .ofNat 64 i).toNat
     let legal := bits a 7 0 = 0 ∧ pitchOk sr c.p0 c.p2 (n / 64) r = true ∧ pitchOk dr c.p1 c.p3 (n / 64) r = true
     (¬legal → exec (.cpys c) s = .next (endBad 2 1 0 0 s)) ∧
     (legal → (∀ i, i < r → Side s slot sr (bits a 17 8) (at_ c.p0 c.p2 i) n false (ps i)) →
       (∀ i, i < r → Side s slot dr (bits a 17 8) (at_ c.p1 c.p3 i) n true (pd i)) → apart r n →
       ∃ t, exec (.cpys c) s = ends 2 c (n * r) t ∧ moved t r n)) ∧
    (let n := 64 * (bits a 37 20 + 1)
     let legal := bits a 39 39 = 0 ∧ bits a 9 0 = 0 ∧ c.p0 = 0 ∧ c.p3 = 0 ∧ sideLegal dr c.p1 n
     (¬legal → exec (.cpyfill c) s = .next (endBad 2 1 0 0 s)) ∧
     (legal → Side s slot dr (bits a 19 10) (base dr c.p1) n true (pd 0) →
       ∃ t, exec (.cpyfill c) s = ends 2 c n t ∧ (∀ k, k < n → byteAt t dr (pd 0 + k) = nByte c.p2.toNat (k % 8)) ∧
         SameSides s t fun rows p => rows = dr ∧ ∃ k, k < n ∧ p = pd 0 + k))

/-- R419, R429, R430: CPYOP fills a slot or appends metadata entries, from rows or plain memory; CPYG gathers the pieces that its descriptors name, zeros where a
descriptor's address is zero; a list with an address off a sector, of storage or of a summary, is ILLEGAL. -/
def Sys2Proof.Claims.SlotCopiesAndGathers : Prop :=
  ∀ (s : State) (c : Cmd) (slot pl p0 pd : Nat) (ps : Nat → Nat), CanRun s 2 c slot →
    let a := c.arg.toNat
    let sr := bits a 39 39 == 1
    let dr := bits a 38 38 == 1
    let base := fun (rows : Bool) (p : Word) => if rows then 512 * p.toNat else p.toNat
    let sideLegal := fun (rows : Bool) (p : Word) (n : Nat) => if rows then p.toNat < 8192 ∧ 512 * p.toNat + n ≤ 3121152 else p.toNat % 64 = 0
    (let x := bits a 37 33
     let u := 256 * bits a 32 27
     let n := 64 * (bits a 26 15 + 1)
     let soff := bits c.p2.toNat 9 0
     let scnt := bits c.p2.toNat 20 10
     dr = false → bits a 4 0 = 0 → c.p3 = 0 → bits c.p2.toNat 63 21 = 0 → sideLegal sr c.p0 n → u + n ≤ 16384 → soff + scnt ≤ 1024 →
     (scnt = 0 → c.p1 = 0) → canFill s.core x = true → Side s slot sr (bits a 14 5) (base sr c.p0) n false p0 →
     bits a 14 5 = 0 → Held s slot c.p1.toNat scnt false pl →
     ∃ t, exec (.cpyop c) s = .next (endOk 2 c n 0 [x] t) ∧ (getSlot t.core x).st = .claimed ∧ (getSlot t.core x).fill = true ∧
       (∀ k, k < n → nByte (getSlot t.core x).data.toNat (u + k) = byteAt s sr (p0 + k)) ∧
       (∀ k, k < scnt → nByte (getSlot t.core x).lane.toNat (soff + k) = (Memory.read s.mem (pl + k)).toNat) ∧
       SameSides s t fun _ _ => False) ∧
    (let n := bits a 26 15 + 1
     dr = true → bits a 37 27 = 0 → bits a 4 0 = 0 → c.p1 = 0 → c.p2 = 0 → c.p3 = 0 → n % 16 = 0 → sideLegal sr c.p0 (64 * n) →
     appendedOf s.core 2 = 0 → (getRing s.core 2).pages = [] → s.core.mdq.length + n / 16 ≤ 256 → Side s slot sr (bits a 14 5) (base sr c.p0) (64 * n) false p0 →
     ∃ t l, exec (.cpyop c) s = .next (endMq 2 c (n / 16) t) ∧ t.core.mdq = s.core.mdq ++ l ∧ l.length = n / 16 ∧
       (∀ i k, i < n / 16 → k < 1024 → nByte (l.getD i 0).toNat k = byteAt s sr (p0 + 1024 * i + k)) ∧ SameSides s t fun _ _ => False) ∧
    (let nd := bits a 37 32 + 1
     let n := 64 * (bits a 30 20 + 1)
     let off := c.p2.toNat
     let addr := fun d b => ofBytes ((List.range 8).map fun k => .ofNat 8 (byteAt s sr (p0 + 32 * d + 8 * b + k)))
     let piece := fun d => addr d (bits a 31 31)
     let aligned := ∀ d, d < nd → addr d 0 % 64 = 0 ∧ addr d 1 % 64 = 0
     bits a 9 0 = 0 → c.p3 = 0 → off % 64 = 0 → off < 2 ^ 32 → sideLegal sr c.p0 (32 * nd) → sideLegal dr c.p1 (n * nd) →
     Side s slot sr 0 (base sr c.p0) (64 * ((nd + 1) / 2)) false p0 →
     (¬aligned → ∃ t, exec (.cpyg c) s = .next (endBad 2 1 0 0 t) ∧ t.core = s.core ∧ SameSides s t fun _ _ => False) ∧
     (aligned → (∀ d, d < nd → piece d ≠ 0 → Side s slot false (bits a 19 10) (piece d + off) n false (ps d)) →
     Side s slot dr (bits a 19 10) (base dr c.p1) (n * nd) true pd →
     (dr = false → ∀ d k m, d < nd → k < n → m < n * nd → piece d ≠ 0 → ps d + k ≠ pd + m) →
     ∃ t, exec (.cpyg c) s = ends 2 c (n * nd) t ∧
       (∀ d k, d < nd → k < n → byteAt t dr (pd + n * d + k) = if piece d = 0 then 0 else byteAt s false (ps d + k)) ∧
       SameSides s t fun rows p => rows = dr ∧ pd ≤ p ∧ p < pd + n * nd))

/-- R280 to R288, R267, R279, R352, R357: translation. A virtual address with a bit above 56 is PAGE_PROT; a page in the TLBs is used as it
stands, with the checks of R286, when its package can be reached over links that do not retrain, has the context, and its stack awaits no repair; a walk follows the tables of four levels, each in a bank
of the context on a repaired stack; and a PAGE_WALK fills the core's TLB and its column's with the leaf that it found. -/
def Sys2Proof.Claims.TranslationAndWalks : Prop :=
  ∀ (s : State) (slot va : Nat) (c : Ctx) (lf : Leaf),
    (bits va 63 57 ≠ 0 → ∀ u, translate s slot va u = .error 4) ∧
    (bits va 63 57 = 0 → tlbHit s slot va = some lf →
      (reachable s (paPkg lf.base) = false → ∀ u, translate s slot va u = .error codeCheck) ∧
      (reachable s (paPkg lf.base) = true → retrains s (paPkg lf.base) = true → ∀ u, translate s slot va u = .error codeRetry) ∧
      (reachable s (paPkg lf.base) = true → retrains s (paPkg lf.base) = false → destSlot s slot (paPkg lf.base) ≠ none →
        bfield (bankRec s (paBank lf.base)) 31 1 = 1 → ∀ u, translate s slot va u = .error 8) ∧
      (reachable s (paPkg lf.base) = true → retrains s (paPkg lf.base) = false → destSlot s slot (paPkg lf.base) ≠ none →
        bfield (bankRec s (paBank lf.base)) 31 1 = 0 →
        translate s slot va .read = .ok lf ∧ translate s slot va .write = (if lf.w then .ok lf else .error 4) ∧
        translate s slot va .fetch = (if lf.x then .ok lf else .error 4) ∧
        translate s slot va .atomic = (if lf.w = true ∧ lf.tol = 0 then .ok lf else .error 4)) ∧
      (reachable s (paPkg lf.base) = true → destSlot s slot (paPkg lf.base) = none → doorPage s lf = false →
        ∀ u, translate s slot va u = .error codeRetry)) ∧
    reachable s s.pkgNo.toNat = true ∧ retrains s s.pkgNo.toNat = false ∧ destSlot s slot s.pkgNo.toNat = some slot ∧
    (s.badMem = [] → s.badL2 = [] →
      let unrepaired := fun (pa : Nat) => bfield (bankRec s (paBank pa)) 31 1 = 1
      let owner := fun (pa : Nat) => bfield (bankRec s (paBank pa)) 26 4
      let open_ := fun (pa : Nat) => ¬unrepaired pa ∧ owner pa = slot
      let p3 := c.ptroot + 8 * bits va 56 39
      let e3 := memNum s p3 8
      let p2 := bits e3 37 0 * 256 + 8 * bits va 38 30
      let e2 := memNum s p2 8
      let table := fun e => bits e 63 63 = 1 ∧ bits e 39 39 = 0 ∧ bits e 62 40 = 0 ∧ bits e 38 38 = 0
      (unrepaired p3 → rawWalk s slot c va = .error 8) ∧
      (¬unrepaired p3 → owner p3 ≠ slot → rawWalk s slot c va = .error 9) ∧
      (open_ p3 → bits e3 63 63 = 0 → rawWalk s slot c va = .error 3) ∧
      (open_ p3 → bits e3 63 63 = 1 → bits e3 39 39 = 1 → rawWalk s slot c va = .error 4) ∧
      (open_ p3 → table e3 → bits e3 3 0 = 0 → unrepaired p2 → rawWalk s slot c va = .error 8) ∧
      (open_ p3 → table e3 → bits e3 3 0 = 0 → ¬unrepaired p2 → owner p2 ≠ slot → rawWalk s slot c va = .error 9) ∧
      (open_ p3 → table e3 → bits e3 3 0 = 0 → open_ p2 → bits e2 63 63 = 0 → rawWalk s slot c va = .error 3) ∧
      (open_ p3 → table e3 → bits e3 3 0 = 0 → open_ p2 → bits e2 63 63 = 1 → bits e2 39 39 = 1 → leafOf 2 e2 = some lf →
        rawWalk s slot c va = .ok lf) ∧
      (open_ p3 → table e3 → bits e3 3 0 = 0 → open_ p2 → table e2 → bits e2 3 0 = 0 →
        let p1 := bits e2 37 0 * 256 + 8 * bits va 29 21
        let e1 := memNum s p1 8
        (open_ p1 → bits e1 63 63 = 1 → bits e1 39 39 = 1 → leafOf 1 e1 = some lf → rawWalk s slot c va = .ok lf) ∧
        (open_ p1 → table e1 →
          let p0 := bits e1 37 0 * 256 + 8 * bits va 20 16
          let e0 := memNum s p0 8
          (open_ p0 → bits e0 63 63 = 0 → rawWalk s slot c va = .error 3) ∧
          (open_ p0 → bits e0 63 63 = 1 → bits e0 39 39 = 0 → rawWalk s slot c va = .error 4) ∧
          (open_ p0 → bits e0 63 63 = 1 → bits e0 39 39 = 1 → leafOf 0 e0 = some lf → rawWalk s slot c va = .ok lf)))) ∧
    (∀ (w : BitVec 3) (v : Word), s.unit = none → bits v.toNat 63 57 = 0 → tlbHit s w.toNat v.toNat = none → walk s w.toNat v.toNat = .ok lf →
      ∃ t, exec (.pageWalk w v) s = .next t ∧ tlbHit t w.toNat v.toNat = some lf ∧ t.mem = s.mem ∧ t.core = s.core ∧
        (∀ e ∈ t.tlb, e ∈ s.tlb ∨ e.leaf = lf ∧ e.slot = w.toNat ∧ (e.home = s.coreNo ∨ e.home = 128 + colOf s.coreNo)) ∧
        ∀ k d, getCtx s k = some d → ∃ d2, getCtx t k = some d2 ∧ d2 = { d with phasemiss := d2.phasemiss })

/-- R282, R284: a leaf entry: its fields, what makes it malformed, and the physical address of a byte. -/
def Sys2Proof.Claims.LeafEntries : Prop :=
  ∀ (l e : Nat) (lf : Leaf) (va : Nat), l ≤ 3 →
    let size := 2 ^ (match l with | 3 => 39 | 2 => 30 | 1 => 21 | _ => 16)
    let base := bits e 31 0 * 2 ^ 14
    let tol := bits e 56 54
    let stored := if tol = 0 then size else size / tolA tol * tolD tol
    (l = 3 ∨ bits e 60 59 = 3 ∨ 5 ≤ tol ∨ bits e 38 32 ≠ 0 ∨ (tol ≠ 0 ∧ bits e 53 44 ≠ 0) ∨ base % stored ≠ 0 ∨ base.testBit 39 = true →
      leafOf l e = none) ∧
    (l ≠ 3 → bits e 60 59 ≠ 3 → tol < 5 → bits e 38 32 = 0 → (tol = 0 ∨ bits e 53 44 = 0) → base % stored = 0 → base.testBit 39 = false →
      ∃ f, leafOf l e = some f ∧ f.base = base ∧ 2 ^ f.lg = size ∧ f.w = decide (bits e 62 62 = 1) ∧ f.x = decide (bits e 61 61 = 1) ∧
        f.kind = bits e 60 59 ∧ f.cls = bits e 58 57 ∧ f.tol = tol ∧ f.kh = bits e 53 44 ∧ f.bset = bits e 43 40) ∧
    (lf.tol = 0 → physOf lf va = lf.base + va % 2 ^ lf.lg) ∧
    (lf.tol ≠ 0 → physOf lf va = lf.base + va % 2 ^ lf.lg / tolA lf.tol * tolD lf.tol)

/-- R285: the bank checks of a walk, in the order of the banks that the page touches: an unrepaired stack is VBUS_UNREPAIRED, a bank of another context or
bank set is BANK_UNALLOCATED, and a page whose banks are the context's is reached. -/
def Sys2Proof.Claims.BankChecks : Prop :=
  ∀ (s : State) (slot set b : Nat) (r : List Nat),
    (bfield (bankRec s b) 31 1 = 1 → banksOk s slot set (b :: r) = .error 8) ∧
    (bfield (bankRec s b) 31 1 = 0 → bfield (bankRec s b) 26 4 ≠ slot ∨ bfield (bankRec s b) 22 4 ≠ set → banksOk s slot set (b :: r) = .error 9) ∧
    ((∀ k ∈ b :: r, bfield (bankRec s k) 31 1 = 0 ∧ bfield (bankRec s k) 26 4 = slot ∧ bfield (bankRec s k) 22 4 = set) →
      banksOk s slot set (b :: r) = .ok ())

/-- R286, R291 to R293: an engine access presents a key handle. A handle other than the page's is KEY_DENIED, and so is one that the table has not or that the context
does not hold. A page with a key holds XTS-AES ciphertext, with the tweak of R292 (log 9 for the cipher). -/
def Sys2Proof.Claims.KeyedAccesses : Prop :=
  ∀ (s : State) (slot kh va : Nat) (lf : Leaf) (x : Nat), va % 64 = 0 → va < 2 ^ 57 → tlbHit s slot va = some lf →
    reachable s (paPkg lf.base) = true → retrains s (paPkg lf.base) = false → destSlot s slot (paPkg lf.base) ≠ none →
    bfield (bankRec s (paBank lf.base)) 31 1 = 0 →
    (kh ≠ lf.kh → engLoad s slot kh va 64 = .error 5 ∧ (lf.w = true → engStore s slot kh va 64 x = .error 5)) ∧
    (kh = lf.kh → kh ≠ 0 → Sparse.get none s.keys (paPkg lf.base * 1024 + kh) = none →
      engLoad s slot kh va 64 = .error 5 ∧ (lf.w = true → engStore s slot kh va 64 x = .error 5)) ∧
    (∀ k, kh = lf.kh → kh ≠ 0 → Sparse.get none s.keys (paPkg lf.base * 1024 + kh) = some k → paPkg lf.base = s.pkgNo.toNat →
      k.holders.testBit slot = false → engLoad s slot kh va 64 = .error 5) ∧
    (∀ k, kh = lf.kh → kh ≠ 0 → Sparse.get none s.keys (paPkg lf.base * 1024 + kh) = some k → paPkg lf.base = s.pkgNo.toNat →
      k.holders.testBit slot = true → sectorsOk s (physOf lf va) 64 = true →
      let tweak := k.lid * 2 ^ 96 + (((va : Int) - k.base) / 64 % 2 ^ 64).toNat
      let sector := fun (dec : Bool) (n : Nat) => joinEls 8 (xtsSector dec k.key1.toNat k.key2.toNat tweak (splitEls 8 64 n))
      engLoad s slot kh va 64 = .ok (sector true (memNum s (physOf lf va) 64) % 2 ^ 512) ∧
      (lf.w = true → x < 2 ^ 512 → ∃ t, engStore s slot kh va 64 x = .ok t ∧ memNum t (physOf lf va) 64 = sector false x % 2 ^ 512 ∧
        SameBytes s t (fun b => physOf lf va ≤ b ∧ b < physOf lf va + 64))) ∧
    (∀ t, kh = 0 → lf.kh = 0 → lf.tol = 0 → engStore s slot kh va 64 x = .ok t → x < 2 ^ 512 → sectorsOk s (physOf lf va) 64 = true →
      engLoad t slot kh va 64 = .ok x)

/-- R291: a key handle is loaded whole, into an entry that is not VALID; an unload waits for the accesses that present the handle, and leaves
the other entries. -/
def Sys2Proof.Claims.KeyTable : Prop :=
  ∀ (s : State) (h : BitVec 10) (k1 k2 : BitVec 256) (lid base : Word) (holders : BitVec 8),
    let k := s.pkgNo.toNat * 1024 + h.toNat
    (h = 0 ∨ Sparse.get none s.keys k ≠ none → exec (.keyLoad h k1 k2 lid base holders) s = .next (tellHost s .keyRefused)) ∧
    (h ≠ 0 → Sparse.get none s.keys k = none → ∃ t, exec (.keyLoad h k1 k2 lid base holders) s = .next t ∧ t.core = s.core ∧ t.mem = s.mem ∧
      ∀ j, Sparse.get none t.keys j = if j = k then some { key1 := k1, key2 := k2, lid := lid.toNat % 2 ^ 32, base := base.toNat, holders := holders.toNat } else Sparse.get none s.keys j) ∧
    (keyHeld s h.toNat = true → exec (.keyUnload h) s = .next s) ∧
    (keyHeld s h.toNat = false → ∃ t, exec (.keyUnload h) s = .next t ∧ (∀ j, Sparse.get none t.keys j = if j = k then none else Sparse.get none s.keys j) ∧
      t.core = s.core ∧ t.mem = s.mem)

namespace Sys2Proof.Claims
open Sys2Proof.Machine

/-- The block store of the focused core's column, of the context in `slot` (R318). -/
def store (s : State) (slot : Nat) : KvStore := getKv s slot (colOf s.coreNo)

/-- The EZ engine begins the command now, on a store with the record `r` (R318, R337). -/
def EzCan (s : State) (c : Cmd) (slot : Nat) (r : StoreRec) : Prop :=
  CanRun s 4 c slot ∧ (store s slot).cfg = some r

/-- The command begins on this state of the store. -/
def work (s : State) (slot : Nat) : Kw := { s := s, kv := store s slot, spill := false }

/-- The EZ command stops with the code, and changes nothing else (R35, R337). -/
def ezBad (code detail : Nat) (x : Word) (s : State) : Host.Outcome State Fault Refusal := .next (endBad 4 code detail x s)

/-- The EZ command completes in `t`: DETAIL is `d`, but that bit 47 tells of the reserve (R324). -/
def EzEnds (c : Cmd) (d : Nat) (x : Word) (o : Host.Outcome State Fault Refusal) (t : State) : Prop :=
  ∃ e, o = .next (endOk 4 c e x [] t) ∧ e % 2 ^ 47 = d

/-- Parameters beyond the first are zero. -/
def onlyP0 (c : Cmd) : Prop := c.p1 = 0 ∧ c.p2 = 0 ∧ c.p3 = 0

/-- Layer `l` is one that the command names (R337). -/
abbrev named (c : Cmd) (l : Nat) : Prop := bits c.arg.toNat 39 32 ≤ l ∧ l < bits c.arg.toNat 39 32 + bits c.arg.toNat 31 24 + 1

/-- The command's layers exist. -/
def layersFit (r : StoreRec) (c : Cmd) : Prop := bits c.arg.toNat 39 32 + bits c.arg.toNat 31 24 + 1 ≤ r.nl

/-- The named layers of a command, in order. -/
def layers (c : Cmd) : List Nat := (List.range (bits c.arg.toNat 31 24 + 1)).map (· + bits c.arg.toNat 39 32)

/-- The store's pool and its summaries lie each in one held page, at `pp` and at `ps` (R318). -/
def AreasHeld (s : State) (slot : Nat) (r : StoreRec) (pp ps : Nat) : Prop :=
  Held s slot r.poolbase (r.fb * r.nframe) true pp ∧ Held s slot r.sumbase (4 * r.sb * r.nframe) true ps ∧
  (pp + r.fb * r.nframe ≤ ps ∨ ps + 4 * r.sb * r.nframe ≤ pp)

/-- The storage of a block, in its format, lies in the pool (R319). -/
def InPool (r : StoreRec) (b : BlockRec) : Prop :=
  b.fmt < 3 ∧ r.poolbase ≤ b.addr ∧ b.addr + r.fb / 2 ^ b.fmt ≤ r.poolbase + r.fb * r.nframe ∧ (b.addr - r.poolbase) % (r.fb / 4) = 0

/-- The number that the row of head `g`, slot `k` of a block spells, in a pool held at `pp`. -/
def rowNum (s : State) (r : StoreRec) (pp : Nat) (b : BlockRec) (val : Bool) (g k : Nat) : Nat :=
  memNum s (pp + (kvRowAddr r b val g k - r.poolbase)) (rowLen r b.fmt)

/-- The two blocks' storages do not meet. -/
def Apart (r : StoreRec) (a b : BlockRec) : Prop :=
  a.addr + r.fb / 2 ^ a.fmt ≤ b.addr ∨ b.addr + r.fb / 2 ^ b.fmt ≤ a.addr

/-- No table entry names a record that does not exist yet. -/
def Known (kv : KvStore) : Prop := ∀ q k i, Sparse.find (getSeq kv q).tab k = some i → i < kv.nextRec

/-- R323, R324: where storage comes from. A block takes its quarters in the lowest-numbered partly used frame that has room for it, the lowest that do; else it opens the
lowest-numbered free frame of the pool, and where the pool has none, the lowest of the reserve. The needs of a command count the frames that its blocks, one after another, open; it can be served
when so many are free. A record that loses its last reference gives its quarters back, and a frame whose last quarter is given back goes to the reserve while that holds
fewer than 64. -/
def StorageTaken : Prop :=
  ∀ (r : StoreRec) (fmt : Nat) (kv : KvStore), fmt < 3 → kv.used.Pairwise (fun a b => a.1 < b.1) → (∀ p ∈ kv.used, 0 < p.2 ∧ p.2 < 16) →
    kv.reserve.Pairwise (· < ·) → (∀ f ∈ kv.reserve, f < r.nframe ∧ Sparse.get 0 kv.used f = 0) →
    let n := 4 / 2 ^ fmt
    let mask := fun (k : KvStore) (f : Nat) => Sparse.get 0 k.used f
    let quarters := fun (q : Nat) => (List.range n).map (· + q)
    let room := fun (f q : Nat) => mask kv f ≠ 0 ∧ q + n ≤ 4 ∧ q % n = 0 ∧ ∀ j ∈ quarters q, (mask kv f).testBit j = false
    let free := fun (f : Nat) => f < r.nframe ∧ mask kv f = 0 ∧ f ∉ kv.reserve
    let a := allocKv r fmt kv
    let takes := fun (f q : Nat) (opens spill : Bool) => a.1 = 4 * f + q ∧ a.2.1 = opens ∧ a.2.2.1 = spill ∧
      a.2.2.2 = { kv with used := a.2.2.2.used, reserve := kv.reserve.filter (· != f) } ∧
      ∀ g j, (mask a.2.2.2 g).testBit j = ((mask kv g).testBit j || decide (g = f ∧ j ∈ quarters q))
    (∀ f q, room f q → (∀ g p, room g p → f < g ∨ (f = g ∧ q ≤ p)) → takes f q false false) ∧
    ((∀ f q, ¬room f q) → ∀ f, free f → (∀ g, free g → f ≤ g) → takes f 0 true false) ∧
    ((∀ f q, ¬room f q) → (∀ f, ¬free f) → ∀ f l, kv.reserve = f :: l → takes f 0 true true) ∧
    (∀ l, needFrames r [] kv = 0 ∧ needFrames r (fmt :: l) kv = (if a.2.1 then 1 else 0) + needFrames r l a.2.2.2 ∧
      reserveOk r (fmt :: l) kv = if needFrames r (fmt :: l) kv ≤ r.nframe - kv.used.length then none else some (needFrames r (fmt :: l) kv)) ∧
    ∀ i f q, let b := getRec kv i
      let k := unref r i kv
      (1 < b.ref → k = { kv with recs := k.recs } ∧ getRec k i = { b with ref := b.ref - 1, gen := (b.gen + 1) % 2 ^ 32 }) ∧
      (b.ref = 1 → b.fmt = fmt → b.addr = r.poolbase + r.fb / 4 * (4 * f + q) → 0 < r.fb / 4 → q + n ≤ 4 → q % n = 0 → f < r.nframe →
        (∀ j ∈ quarters q, (mask kv f).testBit j = true) →
        (∀ g j, (mask k g).testBit j = ((mask kv g).testBit j && decide (¬(g = f ∧ j ∈ quarters q)))) ∧ getRec k i = { surv := 0, addr := 0, fmt := 3, ref := 0, gen := 0 } ∧
        ∀ g, g ∈ k.reserve ↔ g ∈ kv.reserve ∨ (g = f ∧ mask k f = 0 ∧ kv.reserve.length < 64))

/-- accept(p, q, u) of R332, for u = k / 2^24. -/
def Accept (p q k : Nat) : Prop :=
  let F := fmtOf 12
  (fdec F p).isNan = false ∧ (fdec F q).isNan = false ∧ 0 ≤ numOf F p ∧
    (numOf F q ≤ 0 ∨ fdec F q = .inf false → 0 < numOf F p) ∧
    (0 < numOf F q → fdec F q ≠ .inf false → k * numOf F q < numOf F p * 2 ^ 24)

/-- The generator after a draw (R332). -/
def drawn (g : Nat) : Nat :=
  let s := BitVec.ofNat 64 g
  let a := s ^^^ (s <<< 13)
  let b := a ^^^ (a >>> 7)
  (b ^^^ (b <<< 17)).toNat

/-- The generator after the first `n` children of a node are tried: a draw for each in sample mode, none otherwise (R332). -/
def afterTries (rule g : Nat) : Nat → Nat
  | 0 => g
  | n + 1 => if rule = 1 then drawn (afterTries rule g n) else g

/-- Child `y` of node `x` is accepted, the generator standing at `g` after its draw; `row` holds what the check posts (R332, R347). -/
def Accepted (z : Easel) (row x y g : Nat) : Prop :=
  let p := row / 2 ^ (64 * y) % 2 ^ 32
  ∃ t, z.tree[y]? = some t ∧
    (z.rule = 0 → t.token = row / 2 ^ (64 * x + 32) % 2 ^ 24) ∧ (z.rule = 1 → Accept p t.q (g / 2 ^ 40)) ∧
    (z.rule = 2 → (fdec (fmtOf 12) p).isNan = false ∧ (fdec (fmtOf 12) z.theta).isNan = false ∧
      numOf (fmtOf 12) z.theta ≤ numOf (fmtOf 12) p)

/-- The acceptance walk from node `x` and generator `g` goes through the nodes `p` and leaves the generator `h` (R332). -/
def Walks (z : Easel) (row : Nat) : Nat → Nat → List Nat → Nat → Prop
  | x, g, p, h =>
    let ch := (List.range z.tree.length).filter fun y => y != 0 && z.tree[y]?.any (fun t => t.parent == x)
    match p with
    | [] => (∀ j y, ch[j]? = some y → ¬Accepted z row x y (afterTries z.rule g (j + 1))) ∧ h = afterTries z.rule g ch.length
    | y :: q => ∃ j, ch[j]? = some y ∧ Accepted z row x y (afterTries z.rule g (j + 1)) ∧
        (∀ i w, i < j → ch[i]? = some w → ¬Accepted z row x w (afterTries z.rule g (i + 1))) ∧ Walks z row y (afterTries z.rule g (j + 1)) q h

/-- R339: BTALLOC and BTCOW. A command that its rule refuses is ILLEGAL; one whose storage cannot be reserved is POOL_EXHAUSTED with the frames needed and
lacked. Else BTALLOC gives each absent block of its range a record of format F, with SURV all ones, one reference and GEN 0, and leaves the
present ones (which storage it takes is in `StorageTaken`); BTCOW, under the same condition, gives each layer whose block is shared a record of its own, with the same SURV and format, and copies the block's
storage and its summary into it, byte for byte. -/
def BlocksAllocated : Prop :=
  ∀ (s : State) (c : Cmd) (slot : Nat) (r : StoreRec) (w1 : Kw), EzCan s c slot r →
    let kv := store s slot
    let q := bits c.p0.toNat 15 0
    (let fmt := bits c.p0.toNat 16 16
     let b0 := bits c.arg.toNat 23 12
     let n := bits c.arg.toNat 11 0 + 1
     let legal := layersFit r c ∧ c.p0.toNat < 2 ^ 17 ∧ onlyP0 c ∧ q < r.nseq ∧ b0 + n ≤ r.maxb
     let todo := ((layers c).flatMap fun l => (List.range n).map fun b => (l, b0 + b)).filter fun p => (tabRec r kv q p.1 p.2).isNone
     (¬legal → exec (.btalloc c) s = ezBad 1 0 0 s) ∧
     (legal → ∀ k, reserveOk r (todo.map fun _ => fmt) kv = some k → exec (.btalloc c) s = ezBad 7 k (.ofNat 64 (k - (r.nframe - kv.used.length))) s) ∧
     (legal → reserveOk r (todo.map fun _ => fmt) kv = none → todo.foldlM (allocBlock slot r q fmt) (work s slot) = .ok w1 →
       ∃ t, EzEnds c todo.length 0 (exec (.btalloc c) s) t ∧ t.core = s.core ∧
         ∀ l b, named c l → b0 ≤ b → b < b0 + n → ∃ i, tabRec r (store t slot) q l b = some i ∧
           (tabRec r kv q l b = some i ∨ (tabRec r kv q l b = none ∧ kv.nextRec ≤ i ∧
             ∃ a, getRec (store t slot) i = { surv := 0xFFFFFFFFFFFFFFFF, addr := a, fmt := fmt, ref := 1, gen := 0 }))))
    ∧
    (let b := bits c.arg.toNat 11 0
     let legal := layersFit r c ∧ c.p0.toNat < 2 ^ 16 ∧ onlyP0 c ∧ bits c.arg.toNat 23 12 = 0 ∧ q < r.nseq ∧ b < r.maxb
     let todo := (layers c).filter fun l => match tabRec r kv q l b with | some i => decide (1 < (getRec kv i).ref) | none => false
     (¬legal → exec (.btcow c) s = ezBad 1 0 0 s) ∧
     (legal → ∀ k, reserveOk r (todo.map fun l => tabFmt r kv q l b) kv = some k → exec (.btcow c) s = ezBad 7 k (.ofNat 64 (k - (r.nframe - kv.used.length))) s) ∧
     (legal → reserveOk r (todo.map fun l => tabFmt r kv q l b) kv = none → Known kv → (todo.map fun l => tabRec r kv q l b).Nodup →
       todo.foldlM (fun w l => privatise slot r q l b w) (work s slot) = .ok w1 →
       ∃ t, EzEnds c todo.length 0 (exec (.btcow c) s) t ∧ t.core = s.core ∧
         (∀ l i, named c l → tabRec r kv q l b = some i →
           (l ∉ todo → tabRec r (store t slot) q l b = some i) ∧
           (l ∈ todo → ∃ j, tabRec r (store t slot) q l b = some j ∧ kv.nextRec ≤ j ∧ (getRec (store t slot) j).ref = 1 ∧
             (getRec (store t slot) j).surv = (getRec kv i).surv ∧ (getRec (store t slot) j).fmt = (getRec kv i).fmt)) ∧
         ∀ pp ps, AreasHeld s slot r pp ps →
           let old := fun l => getRec kv ((tabRec r kv q l b).getD 0)
           let new := fun l => getRec (store t slot) ((tabRec r (store t slot) q l b).getD 0)
           (∀ l ∈ todo, InPool r (old l) ∧ InPool r (new l) ∧ ∀ m ∈ todo, m ≠ l → Apart r (old l) (new m) ∧ Apart r (new l) (new m)) →
           ∀ l ∈ todo, memNum t (pp + ((new l).addr - r.poolbase)) (r.fb / 2 ^ (old l).fmt) =
               memNum s (pp + ((old l).addr - r.poolbase)) (r.fb / 2 ^ (old l).fmt) ∧
             memNum t (ps + (sumAddr r (new l) - r.sumbase)) r.sb = memNum s (ps + (sumAddr r (old l) - r.sumbase)) r.sb))

/-- R339: BTFREE drops the blocks of a sequence from a position on, each record losing a reference for each entry that named it, and cuts LEN; BTSHARE lets DST name SEQ's records. No byte of memory changes. A live or parked
sequence is SLOT_STATE, unless a field or a reference count is refused, which comes first (the model's choice, log 35). -/
def BlocksFreedAndShared : Prop :=
  ∀ (s : State) (c : Cmd) (slot : Nat) (r : StoreRec), EzCan s c slot r →
    let kv := store s slot
    let q := bits c.p0.toNat 15 0
    (let pos := c.p1.toNat
     let legal := layersFit r c ∧ c.p0.toNat < 2 ^ 16 ∧ pos < 2 ^ 19 ∧ c.p2 = 0 ∧ c.p3 = 0 ∧ bits c.arg.toNat 23 0 = 0 ∧ q < r.nseq ∧ pos ≤ 64 * r.maxb
     (¬legal → exec (.btfree c) s = ezBad 1 0 0 s) ∧
     (legal → (getSeq kv q).st ≠ .none → exec (.btfree c) s = ezBad 0x0A 0 0 s) ∧
     (legal → (getSeq kv q).st = .none → ∃ t, exec (.btfree c) s = .next (endOk 4 c 0 0 [] t) ∧ t.core = s.core ∧ t.mem = s.mem ∧
       (getSeq (store t slot) q).len = min (getSeq kv q).len pos ∧ (getSeq (store t slot) q).st = .none ∧
       (∀ l b, b < r.maxb → tabRec r (store t slot) q l b = if named c l ∧ pos ≤ 64 * b then none else tabRec r kv q l b) ∧
       (∀ i, let n := ((layers c).flatMap fun l => (List.range r.maxb).map fun b => (l, b)).countP fun p =>
           decide (pos ≤ 64 * p.2) && tabRec r kv q p.1 p.2 == some i
         let b := getRec kv i
         let y := getRec (store t slot) i
         (n < b.ref → y = { b with ref := b.ref - n, gen := y.gen }) ∧ (n = b.ref → 0 < n → y.ref = 0 ∧ y.fmt = 3)) ∧
       ∀ p, p ≠ q → getSeq (store t slot) p = getSeq kv p)) ∧
    (let d := bits c.p0.toNat 31 16
     let n := bits c.arg.toNat 11 0 + 1
     let pairs := (layers c).flatMap fun l => (List.range n).map fun b => (l, b)
     let names := fun (x i : Nat) => pairs.countP fun p => tabRec r kv x p.1 p.2 == some i
     let legal := layersFit r c ∧ c.p0.toNat < 2 ^ 32 ∧ onlyP0 c ∧ bits c.arg.toNat 23 12 = 0 ∧ q < r.nseq ∧ d < r.nseq ∧ q ≠ d ∧ n ≤ r.maxb ∧
       ∀ p ∈ pairs, ∀ i, tabRec r kv q p.1 p.2 = some i → (getRec kv i).ref + names q i ≤ 255 + names d i
     (¬legal → exec (.btshare c) s = ezBad 1 0 0 s) ∧
     (legal → (getSeq kv d).st ≠ .none → exec (.btshare c) s = ezBad 0x0A 0 0 s) ∧
     (legal → (getSeq kv d).st = .none → ∃ t, exec (.btshare c) s = .next (endOk 4 c 0 0 [] t) ∧ t.core = s.core ∧ t.mem = s.mem ∧
       (getSeq (store t slot) d).len = min (getSeq kv q).len (64 * n) ∧
       (∀ l b, b < r.maxb → tabRec r (store t slot) d l b = if named c l ∧ b < n then tabRec r kv q l b else tabRec r kv d l b) ∧
       ∀ p, p ≠ d → getSeq (store t slot) p = getSeq kv p))

/-- R328, R340, R341: BTEVICT keeps of each named layer's block the positions of PARAM1, which becomes SURV, in a record of its own where it was shared and in the same
record where it was not, or is POOL_EXHAUSTED where the storage of its copies cannot be reserved; the kept rows of a private block stand packed in ascending order in its storage, with their scales. SUMUPD recomputes summaries and changes
neither tables nor records. -/
def BlocksEvictedAndSummarised : Prop :=
  ∀ (s : State) (c : Cmd) (slot : Nat) (r : StoreRec) (w1 : Kw), EzCan s c slot r →
    let kv := store s slot
    let q := bits c.p0.toNat 15 0
    (let b := bits c.arg.toNat 11 0
     let legal := layersFit r c ∧ c.p0.toNat < 2 ^ 16 ∧ c.p2 = 0 ∧ c.p3 = 0 ∧ bits c.arg.toNat 23 12 = 0 ∧ q < r.nseq ∧ b < r.maxb ∧
       64 * (b + 1) ≤ (getSeq kv q).len ∧ ∀ l, named c l → ∃ i, tabRec r kv q l b = some i ∧ c.p1 &&& (getRec kv i).surv = c.p1
     let todo := (layers c).filter fun l => match tabRec r kv q l b with | some i => decide (1 < (getRec kv i).ref) | none => false
     (¬legal → exec (.btevict c) s = ezBad 1 0 0 s) ∧
     (legal → ∀ k, reserveOk r (todo.map fun l => tabFmt r kv q l b) kv = some k → exec (.btevict c) s = ezBad 7 k (.ofNat 64 (k - (r.nframe - kv.used.length))) s) ∧
     (legal → reserveOk r (todo.map fun l => tabFmt r kv q l b) kv = none → Known kv → (layers c).foldlM (evictLayer slot r q b c.p1 todo) (work s slot) = .ok w1 →
       ∃ t, EzEnds c todo.length 0 (exec (.btevict c) s) t ∧ t.core = s.core ∧
         ∀ l i, named c l → tabRec r kv q l b = some i →
           (l ∉ todo → (todo.map fun l => tabRec r kv q l b).Nodup → tabRec r (store t slot) q l b = some i ∧ (getRec (store t slot) i).surv = c.p1) ∧
           (l ∈ todo → (todo.map fun l => tabRec r kv q l b).Nodup → ∃ j, tabRec r (store t slot) q l b = some j ∧ kv.nextRec ≤ j ∧
             (getRec (store t slot) j).ref = 1 ∧ (getRec (store t slot) j).surv = c.p1 ∧ (getRec (store t slot) j).fmt = (getRec kv i).fmt)) ∧
     (legal → todo = [] → ∀ l i pp ps, layers c = [l] → tabRec r kv q l b = some i → InPool r (getRec kv i) → AreasHeld s slot r pp ps →
       evictLayer slot r q b c.p1 [] (work s slot) l = .ok w1 →
       ∃ t, EzEnds c 0 0 (exec (.btevict c) s) t ∧
         ∀ p g val, p < 64 → c.p1.getLsbD p = true → g < r.kvh → let x := getRec kv i
           rowNum t r pp x val g (slotAt c.p1 p) = rowNum s r pp x val g (slotAt x.surv p) ∧
           (x.fmt = 2 → memNum t (ps + (sumAddr r x + scaleOff r val g (slotAt c.p1 p) - r.sumbase)) (r.d / 32) =
             memNum s (ps + (sumAddr r x + scaleOff r val g (slotAt x.surv p) - r.sumbase)) (r.d / 32)))) ∧
    (let b0 := bits c.arg.toNat 23 12
     let n := bits c.arg.toNat 11 0 + 1
     let legal := layersFit r c ∧ c.p0.toNat < 2 ^ 16 ∧ onlyP0 c ∧ q < r.nseq ∧ b0 + n ≤ r.maxb
     (¬legal → exec (.sumupd c) s = ezBad 1 0 0 s) ∧
     (legal → ((layers c).flatMap fun l => (List.range n).map fun b => (l, b0 + b)).foldlM (sumBlock slot r q) (work s slot) = .ok w1 →
       ∃ t, exec (.sumupd c) s = .next (endOk 4 c 0 0 [] t) ∧ t.core = s.core ∧ store t slot = kv))

/-- R326, R342: BTWALK. MODE 1 drops the hold; a list walk takes it in the epoch in force and writes one descriptor of 32 bytes for each block asked for: of a
run, of the numbers of a row, or the wet blocks of all layers. That an absent block's is zero but for its number and its format tag 3 is the model's reading
(log 36). -/
def BlockWalks : Prop :=
  ∀ (s : State) (c : Cmd) (slot pa : Nat) (r : StoreRec), EzCan s c slot r →
    let kv := store s slot
    let a := c.arg.toNat
    let key := s.coreNo * 8 + bits a 37 35
    let sel := bits a 34 33
    let q := bits c.p0.toNat 15 0
    let l := bits c.p0.toNat 23 16
    let irow := bits c.p1.toNat 18 6
    let n := if sel = 0 then bits c.p1.toNat 23 12 + 1 else if sel = 1 then bits c.p1.toNat 5 0 + 1 else r.nl
    let num := fun (k : Nat) => if sel = 0 then bits c.p1.toNat 11 0 + k else if sel = 1 then rowBytes (getRow s.core irow) (2 * k) 2 else k
    let of := fun (k : Nat) => if sel = 2 then Sparse.find (getSeq kv q).wet k else if num k < r.maxb then tabRec r kv q l (num k) else none
    let desc := fun (k : Nat) => match of k with
      | none => [0, 0, 0, 3, 0, 0, num k]
      | some i =>
        let b := getRec kv i
        [b.addr, sumAddr r b, b.surv.toNat, b.fmt, b.ref, (List.range 64).countP (fun j => b.surv.getLsbD j), num k]
    let legal := bits a 39 38 = 0 ∧ sel ≠ 3 ∧ bits a 31 0 = 0 ∧ q < r.nseq ∧ c.p3 = 0 ∧
      (if sel = 2 then c.p0.toNat < 2 ^ 16 ∧ c.p1 = 0 else c.p0.toNat < 2 ^ 24 ∧ l < r.nl) ∧
      (sel = 0 → c.p1.toNat < 2 ^ 24 ∧ bits c.p1.toNat 11 0 + n ≤ r.maxb) ∧ (sel = 1 → c.p1.toNat < 2 ^ 19 ∧ irow < 6096)
    (bits a 39 38 = 1 → bits a 34 0 = 0 → c.p0 = 0 → onlyP0 c → ∃ t, exec (.btwalk c) s = .next (endOk 4 c 0 0 [] t) ∧
      Sparse.find (store t slot).holds key = none ∧ (∀ k, k ≠ key → Sparse.find (store t slot).holds k = Sparse.find kv.holds k) ∧
      t.core = s.core ∧ t.mem = s.mem) ∧
    (bits a 39 38 ≥ 2 → exec (.btwalk c) s = ezBad 1 0 0 s) ∧
    (legal → bits a 32 32 = 1 → c.p2.toNat * 512 + 32 * n ≤ 512 * 6096 → s.core.badRows = [] →
      ∃ t, exec (.btwalk c) s = .next (endOk 4 c n 0 [] t) ∧ Sparse.find (store t slot).holds key = some kv.epoch ∧ t.mem = s.mem ∧
        (∀ k, k < n → unpack [64, 64, 64, 8, 8, 16, 32] (readScratch t.core (512 * c.p2.toNat + 32 * k) 32) =
          List.zipWith (fun x w => x % 2 ^ w) (desc k) [64, 64, 64, 8, 8, 16, 32]) ∧
        ∀ p, ¬(512 * c.p2.toNat ≤ p ∧ p < 512 * c.p2.toNat + 32 * n) → byteAt t true p = byteAt s true p) ∧
    (legal → bits a 32 32 = 0 → c.p2.toNat % 64 = 0 → s.core.badRows = [] → Held s slot c.p2.toNat (64 * ((n + 1) / 2)) true pa →
      ∃ t, exec (.btwalk c) s = .next (endOk 4 c n 0 [] t) ∧ Sparse.find (store t slot).holds key = some kv.epoch ∧ t.core = s.core ∧
        (∀ k, k < n → unpack [64, 64, 64, 8, 8, 16, 32] (memNum t (pa + 32 * k) 32) =
          List.zipWith (fun x w => x % 2 ^ w) (desc k) [64, 64, 64, 8, 8, 16, 32]) ∧
        SameBytes s t fun b => pa ≤ b ∧ b < pa + 32 * n)

/-- R330, R334, R343 to R345: easels. EZOPEN binds a FREE easel to a sequence of state NONE, which becomes LIVE, and waits while none is FREE; a class-0 easel beyond C0MAX is bound at
class 1, and DETAIL bit 46 tells it. EZPARK writes the easel's record and frees it; EZRESUME binds an easel that is the parked one; EZCLOSE frees easel and wet blocks. That EZOPEN looks at its fields first, then at the
sequence's state, then at its blocks, is the model's choice (log 35). -/
def EaselsBound : Prop :=
  ∀ (s : State) (c : Cmd) (slot pa : Nat) (r : StoreRec), EzCan s c slot r →
    let kv := store s slot
    let p := c.p0.toNat
    let e0 := bits c.arg.toNat 39 31
    let z0 := getEasel kv e0
    let after := fun (cls : Nat) => if cls = 0 ∧ (getCol s (colOf s.coreNo)).c0max < (kv.easels.filter fun x => x.2.st != .free && x.2.cls == 0).length + 1 then 1 else cls
    let bound := fun (t : State) (e : Nat) (z : Easel) => e < 512 ∧ (getEasel kv e).st = .free ∧ (∀ k, k < e → (getEasel kv k).st ≠ .free) ∧
      getEasel (store t slot) e = { z with cls := after z.cls } ∧ (∀ k, k ≠ e → getEasel (store t slot) k = getEasel kv k) ∧
      (getSeq (store t slot) z.seq).st = .live ∧ (store t slot).ready = kv.ready ++ [e] ∧ t.core = s.core
    let full := ∀ k, k < 512 → (getEasel kv k).st ≠ .free
    (let q := bits p 15 0
     let rule := bits p 19 18
     let l0 := bits p 50 32
     let legal := c.arg = 0 ∧ bits p 31 26 = 0 ∧ bits p 63 51 = 0 ∧ c.p1.toNat < 2 ^ 24 ∧ c.p2.toNat < 2 ^ 32 ∧ q < r.nseq ∧ rule ≠ 3 ∧ (rule = 1 → c.p3 ≠ 0)
     let present := ∀ l b, l < r.nl → b < (l0 + 63) / 64 → b < r.maxb ∧ (tabRec r kv q l b).isSome = true
     (¬legal → exec (.ezopen c) s = ezBad 1 0 0 s) ∧
     (legal → (getSeq kv q).st ≠ .none → exec (.ezopen c) s = ezBad 0x0A 0 0 s) ∧
     (legal → (getSeq kv q).st = .none → ¬present → exec (.ezopen c) s = ezBad 1 0 0 s) ∧
     (legal → (getSeq kv q).st = .none → present → full → exec (.ezopen c) s = .next s) ∧
     (legal → (getSeq kv q).st = .none → present → ¬full → ∃ t e,
       exec (.ezopen c) s = .next (endOk 4 c (if after (bits p 17 16) ≠ bits p 17 16 then 2 ^ 46 else 0) (.ofNat 64 e) [] t) ∧ t.mem = s.mem ∧ (getSeq (store t slot) q).len = l0 ∧
       bound t e { st := .ready, seq := q, cls := bits p 17 16, rule := rule, nodes := bits p 25 20 + 1, root := c.p1.toNat, len := l0, theta := c.p2.toNat, rng := c.p3, deficit := 0, tree := [] })) ∧
    (bits c.arg.toNat 30 0 = 0 → onlyP0 c → p % 128 = 0 → z0.st ≠ .ready → exec (.ezpark c) s = ezBad 0x0A 0 0 s) ∧
    (bits c.arg.toNat 30 0 = 0 → onlyP0 c → p % 128 = 0 → z0.st = .ready → Held s slot p 128 true pa → ∃ t, exec (.ezpark c) s = .next (endOk 4 c 0 0 [] t) ∧ t.core = s.core ∧
      memNum t pa 128 = pack [(16, z0.seq), (8, z0.cls), (8, z0.rule), (8, z0.nodes - 1), (24, z0.root), (32, z0.len), (32, z0.theta), (64, z0.rng.toNat), (16, z0.deficit)] ∧
      (getEasel (store t slot) e0).st = .free ∧ (getSeq (store t slot) z0.seq).st = .parked ∧ (getSeq (store t slot) z0.seq).len = (getSeq kv z0.seq).len ∧
      SameBytes s t fun b => pa ≤ b ∧ b < pa + 128) ∧
    (∀ z : Easel, c.arg = 0 → onlyP0 c → p % 128 = 0 → Held s slot p 128 false pa → z.st = .ready → z.tree = [] → z.cls < 4 → z.rule < 3 → 0 < z.nodes → z.nodes ≤ 64 →
      z.root < 2 ^ 24 → z.len < 2 ^ 32 → z.theta < 2 ^ 32 → z.deficit < 2 ^ 16 → z.seq < 2 ^ 16 → z.seq < r.nseq → (z.rule = 1 → z.rng ≠ 0) →
      memNum s pa 128 = pack [(16, z.seq), (8, z.cls), (8, z.rule), (8, z.nodes - 1), (24, z.root), (32, z.len), (32, z.theta), (64, z.rng.toNat), (16, z.deficit)] →
      ((getSeq kv z.seq).st ≠ .parked ∨ (getSeq kv z.seq).len ≠ z.len → exec (.ezresume c) s = ezBad 0x0A 0 0 s) ∧
      ((getSeq kv z.seq).st = .parked → (getSeq kv z.seq).len = z.len → full → exec (.ezresume c) s = .next s) ∧
      ((getSeq kv z.seq).st = .parked → (getSeq kv z.seq).len = z.len → ¬full → ∃ t e,
        exec (.ezresume c) s = .next (endOk 4 c (if after z.cls ≠ z.cls then 2 ^ 46 else 0) (.ofNat 64 e) [] t) ∧ t.mem = s.mem ∧ bound t e z)) ∧
    (bits c.arg.toNat 30 0 = 0 → c.p0 = 0 → onlyP0 c → z0.st = .free → exec (.ezclose c) s = ezBad 0x0A 0 0 s) ∧
    (bits c.arg.toNat 30 0 = 0 → c.p0 = 0 → onlyP0 c → z0.st ≠ .free → ∃ t, exec (.ezclose c) s = .next (endOk 4 c 0 0 [] t) ∧ t.core = s.core ∧ t.mem = s.mem ∧
      (getEasel (store t slot) e0).st = .free ∧ (∀ k, k ≠ e0 → getEasel (store t slot) k = getEasel kv k) ∧
      (getSeq (store t slot) z0.seq).st = .none ∧ (getSeq (store t slot) z0.seq).wet = [] ∧ (getSeq (store t slot) z0.seq).len = (getSeq kv z0.seq).len)

/-- R335, R346: EZNEXT, with storage for every choice: its batch holds READY easels, which become DRAFT with a wet block for each layer, none twice and at most MAXE. It begins with
the class-0 easels in the order of their entry to READY; where it has fewer than MAXE members, a READY easel outside it is of class 1 to 3, its deficit has grown by its quantum, and its
nodes exceed that deficit, the nodes left or the cap; a member's deficit has grown and paid for its nodes. The first row lists the batch and then 0xFFFF, the next two its entries;
STATX counts it. Where the first easel that could be chosen lacks storage for its wet blocks and the batch stays empty, EZNEXT is POOL_EXHAUSTED, with the frames that this easel needs and
lacks. -/
def BatchesFormed : Prop :=
  ∀ (s : State) (c : Cmd) (slot : Nat) (r : StoreRec), EzCan s c slot r →
    let kv := store s slot
    let lrow := bits c.arg.toNat 33 21
    let legal := bits c.arg.toNat 20 0 = 0 ∧ c.p0.toNat < 2 ^ 12 ∧ c.p0 ≠ 0 ∧ onlyP0 c ∧ lrow + 3 ≤ 6096
    (¬legal → exec (.eznext c) s = ezBad 1 0 0 s) ∧
    let col := getCol s (colOf s.coreNo)
    let quant := fun (cls : Nat) => if cls = 1 then col.q1 else if cls = 2 then col.q2 else col.q3
    let grown := fun (z : Easel) => min (z.deficit + quant z.cls) 65535
    let paid := fun (l : List Nat) => (l.map fun e => (getEasel kv e).nodes).sum
    (legal → kv.ready.Nodup → (∀ e ∈ kv.ready, e < 512 ∧ (getEasel kv e).st = .ready ∧ (getEasel kv e).cls < 4) → 64 * r.nl ≤ r.nframe - kv.used.length →
      ∃ (t : State) (batch : List Nat), EzEnds c 0 (.ofNat 64 batch.length) (exec (.eznext c) s) t ∧ t.mem = s.mem ∧ batch.Nodup ∧
        batch.length ≤ bits c.arg.toNat 39 34 + 1 ∧
        (∀ e ∈ batch, (getEasel kv e).st = .ready ∧ (getEasel (store t slot) e).st = .draft ∧ e ∉ (store t slot).ready ∧
          ∀ l, l < r.nl → (Sparse.find (getSeq (store t slot) (getEasel kv e).seq).wet l).isSome = true) ∧
        (∀ e, e ∉ batch → (getEasel (store t slot) e).st = (getEasel kv e).st) ∧
        ((kv.ready.filter fun e => (getEasel kv e).cls == 0).take (bits c.arg.toNat 39 34 + 1)).IsPrefix batch ∧
        (batch.length < bits c.arg.toNat 39 34 + 1 → ∀ e ∈ kv.ready, e ∉ batch → let z := getEasel kv e
          z.cls ≠ 0 ∧ (getEasel (store t slot) e).deficit = grown z ∧
          (grown z < z.nodes ∨ c.p0.toNat - paid batch < z.nodes ∨
            c.p0.toNat * (65536 - col.refloss % 65536) / 65536 - paid (batch.filter fun e => (getEasel kv e).cls != 0) < z.nodes)) ∧
        (∀ e ∈ batch, let z := getEasel kv e
          (getEasel (store t slot) e).deficit = (if z.cls = 0 then z.deficit else grown z - z.nodes) ∧ (z.cls ≠ 0 → z.nodes ≤ grown z)) ∧
        (∀ k, k < 256 → readScratch t.core (512 * lrow + 2 * k) 2 = batch.getD k 0xFFFF) ∧
        (∀ k e, batch[k]? = some e → let z := getEasel kv e
          readScratch t.core (512 * (lrow + 1) + 16 * k) 16 =
            pack [(16, e), (16, z.seq), (32, z.len), (24, z.root), (8, z.nodes - 1), (8, z.cls), (8, z.rule), (16, 0)]) ∧
        ∀ p, ¬(512 * lrow ≤ p ∧ p < 512 * (lrow + 3)) → byteAt t true p = byteAt s true p) ∧
    let lacks := fun (e k : Nat) => reserveOk r (wetFmts r kv (getEasel kv e)) kv = some k
    let dry := fun (k : Nat) => exec (.eznext c) s = ezBad 7 k (.ofNat 64 (k - (r.nframe - kv.used.length))) s
    let cap := c.p0.toNat * (65536 - col.refloss % 65536) / 65536
    let served := fun (z : Easel) => z.nodes ≤ grown z ∧ z.nodes ≤ c.p0.toNat ∧ z.nodes ≤ cap
    (legal → ∀ e k l, (kv.ready.filter fun x => (getEasel kv x).cls == 0) = e :: l → lacks e k → (∀ x, x < 512 → (getEasel kv x).st = .ready → (getEasel kv x).cls < 4) → dry k) ∧
    (legal → ∀ e k, e < 512 → (getEasel kv e).st = .ready → (∀ x ∈ kv.ready, (getEasel kv x).cls ≠ 0) →
      (∀ x, x < 512 → (getEasel kv x).st = .ready → 0 < (getEasel kv x).cls ∧ (getEasel kv x).cls < 4 ∧ (x ≠ e → ¬served (getEasel kv x))) →
      served (getEasel kv e) → lacks e k → dry k)

/-- R332: the acceptance walk. The children of a node are tried in ascending index, in sample mode each with a draw of its own, and the first that is accepted is the path's next
node; where none is, the path ends. A child is accepted by its token in the exact rule, by its probabilities and the draw in the sample rule, and by the threshold in the third. What
`checkPath` gives is that path, cut to the room that the sequence has (R333), and the generator after every draw. -/
def AcceptanceWalks : Prop :=
  ∀ (r : StoreRec) (z : Easel) (row : Nat), z.rule < 3 → 0 < z.tree.length → z.tree.length ≤ 64 → (∀ i t, 0 < i → z.tree[i]? = some t → t.parent < i) →
    ∃ p g, checkPath r z row = ((0 :: p).take (64 * r.maxb - z.len), g) ∧ Walks z row 0 z.rng.toNat p g

/-- R331 to R333, R347: EZTREE takes the trees of its batch, one row for each easel, when each is in DRAFT and each row is a tree; EZCHECK of easels in CHECK commits the path that the acceptance walk
gives (`AcceptanceWalks`): L and LEN of its sequence grow by the path's length, the wet blocks are gone, ROOT is the token to emit, the easel is READY, and its entry tells the length, ROOT, the
last node and L; where the storage of the list cannot be reserved, it is POOL_EXHAUSTED. The rows of the path stand at the
positions from L on, in the format of the target block, where a layer's target is present, private and not MXFP4. An easel in another state is SLOT_STATE, before its row is looked at (the
model's choice, log 35). -/
def TreesAndChecks : Prop :=
  ∀ (s : State) (c : Cmd) (slot : Nat) (r : StoreRec) (es : List Nat) (x : List Nat × Kw), EzCan s c slot r →
    let kv := store s slot
    let a := c.arg.toNat
    let n := bits a 39 34 + 1
    let lrow := bits a 33 21
    let drow := bits a 20 8
    let row := fun (k : Nat) => (getRow s.core (drow + k)).toNat
    bits a 7 0 = 0 → lrow < 6096 → drow + n ≤ 6096 → s.core.badRows = [] → onlyP0 c → es.length = n → es.Nodup → (∀ e ∈ es, e < 512) →
    (∀ k, k < n → rowBytes (getRow s.core lrow) (2 * k) 2 = es.getD k 0) →
    let st := fun (x : EaselSt) => ∀ e ∈ es, (getEasel kv e).st = x
    (c.p0.toNat < 64 →
      let nodes := fun (k : Nat) => (List.range (c.p0.toNat + 1)).map fun i =>
        ({ token := row k / 2 ^ (64 * i) % 2 ^ 24, parent := row k / 2 ^ (64 * i + 24) % 256, q := row k / 2 ^ (64 * i + 32) % 2 ^ 32 } : TreeNode)
      let ok := ∀ k, k < n → let z := getEasel kv (es.getD k 0)
        c.p0.toNat + 1 ≤ z.nodes ∧ row k / 2 ^ (64 * (c.p0.toNat + 1)) = 0 ∧ (∀ t, (nodes k)[0]? = some t → t.token = z.root ∧ t.parent = 255) ∧
        ∀ i t, 0 < i → (nodes k)[i]? = some t → t.parent < i
      (¬st .draft → exec (.eztree c) s = ezBad 0x0A 0 0 s) ∧
      (st .draft → ¬ok → exec (.eztree c) s = ezBad 1 0 0 s) ∧
      (st .draft → ok → ∃ t, exec (.eztree c) s = .next (endOk 4 c 0 0 [] t) ∧ t.core = s.core ∧ t.mem = s.mem ∧
        (∀ k, k < n → getEasel (store t slot) (es.getD k 0) = { getEasel kv (es.getD k 0) with st := .check, tree := nodes k }) ∧
        ∀ e, e ∉ es → getEasel (store t slot) e = getEasel kv e)) ∧
    (c.p0.toNat + 2 ≤ 6096 → c.p0.toNat < 2 ^ 13 →
      let w := work s slot
      let l := es.zip ((List.range n).map row)
      let paths := fun (k : Nat) => checkPath r (getEasel kv (es.getD k 0)) (row k)
      let ok := (∀ k i, k < n → i < 64 → row k / 2 ^ (64 * i + 56) % 256 = 0) ∧ ∀ e ∈ es, (getEasel kv e).len < 64 * r.maxb
      let needs := (l.foldl (fun (acc : List Nat × List Nat) p =>
        let z := getEasel kv p.1
        let x := commitNeeds r kv z (checkPath r z p.2).1.length acc.2
        (acc.1 ++ x.1, x.2)) ([], [])).1
      (¬st .check → exec (.ezcheck c) s = ezBad 0x0A 0 0 s) ∧
      (st .check → ¬ok → exec (.ezcheck c) s = ezBad 1 0 0 s) ∧
      (st .check → ok → ∀ k, reserveOk r needs kv = some k → exec (.ezcheck c) s = ezBad 7 k (.ofNat 64 (k - (r.nframe - kv.used.length))) s) ∧
      (st .check → ok → reserveOk r needs kv = none → commitAll slot r l w = .ok x →
        ∃ t, EzEnds c 0 0 (exec (.ezcheck c) s) t ∧
          (∀ k, k < n → let e := es.getD k 0
            let z := getEasel kv e
            let y := getEasel (store t slot) e
            y.st = .ready ∧ y.len = z.len + (paths k).1.length ∧ y.rng = .ofNat 64 (paths k).2 ∧ y.tree = [] ∧ y.seq = z.seq ∧
            y.root = row k / 2 ^ (64 * (paths k).1.getLastD 0 + 32) % 2 ^ 24 ∧
            readScratch t.core (512 * c.p0.toNat + 16 * k) 16 =
              pack [(16, (paths k).1.length), (24, y.root), (8, 0), (16, (paths k).1.getLastD 0), (32, y.len), (32, 0)]) ∧
          (∀ e, e ∉ es → getEasel (store t slot) e = getEasel kv e) ∧
          ((es.map fun e => (getEasel kv e).seq).Nodup → ∀ k, k < n → let z := getEasel kv (es.getD k 0)
            (getSeq (store t slot) z.seq).len = z.len + (paths k).1.length ∧ (getSeq (store t slot) z.seq).wet = [] ∧
            (getSeq (store t slot) z.seq).st = (getSeq kv z.seq).st) ∧
          (∀ pp ps, n = 1 → AreasHeld s slot r pp ps → let z := getEasel kv (es.getD 0 0)
            let b := z.len / 64
            let tgt := fun (l : Nat) => getRec kv ((tabRec r kv z.seq l b).getD 0)
            let wet := fun (l : Nat) => getRec kv ((Sparse.find (getSeq kv z.seq).wet l).getD 0)
            z.len % 64 + (paths 0).1.length ≤ 64 →
            (∀ l, l < r.nl → (tabRec r kv z.seq l b).isSome = true ∧ (Sparse.find (getSeq kv z.seq).wet l).isSome = true ∧ (tgt l).ref = 1 ∧ (tgt l).fmt < 2 ∧
              (wet l).fmt < 2 ∧ InPool r (tgt l) ∧ InPool r (wet l) ∧ ∀ m, m < r.nl → Apart r (tgt l) (wet m) ∧ (m ≠ l →
                tabRec r kv z.seq m b ≠ tabRec r kv z.seq l b ∧ Apart r (tgt l) (tgt m))) →
            ∀ l g val j k, l < r.nl → g < r.kvh → (paths 0).1[j]? = some k →
              rowNum t r pp (tgt l) val g (slotAt (tgt l).surv (z.len % 64) + j) =
                convRow r (wet l).fmt (tgt l).fmt (rowNum s r pp (wet l) val g k)) ∧
          ∀ p, ¬(512 * c.p0.toNat ≤ p ∧ p < 512 * (c.p0.toNat + 2)) → byteAt t true p = byteAt s true p))

end Sys2Proof.Claims

namespace Sys2Proof.Claims
open Sys2Proof.Machine

/-- Lane `l` is RUNNING, in state `v`, the program of the context `c` in `slot`, which its column's partition runs, and no XSTOP holds it (R245, R247). -/
def LaneRuns (s : State) (l slot : Nat) (v : Lane) (c : Ctx) : Prop :=
  laneSlot s l = some slot ∧ getCtx s slot = some c ∧ getLane s l = v ∧ v.st = .running ∧ v.slot = slot ∧ v.halt = false

/-- The lane has performed an instruction and goes on at `pc` (R246). -/
def goesOn (l : Nat) (v : Lane) (pc : Word) (t : State) : Host.Outcome State Fault Refusal :=
  .next (setLane t l { v with pc := pc, exec := v.exec + 1 })

/-- The lane's program stops with ILLEGAL at its PC (R43, R257), once no transfer is in flight: the lane is SUSPENDED, and its XRUN ends with the code. -/
def stopsIllegal (s : State) (l : Nat) (v : Lane) (o : Host.Outcome State Fault Refusal) : Prop :=
  v.fly = [] → o = .next (finishRun v 1 (v.exec % 2 ^ 47) v.pc (setLane s l { v with st := .suspended }))

/-- Byte `p` of the rows of core `k`. -/
def coreByte (s : State) (k p : Nat) : Nat := rowByte (getCore s k) (p / 512) (p % 512)

/-- Byte `b` of the destination `m` of a transfer (R249). -/
def memberByte (s : State) (m : Member) (b : Nat) : Nat :=
  match m.slot with
  | none => coreByte s m.core (m.base + b)
  | some x => nByte (getSlot (getCore s m.core) x).data.toNat (m.base + b)

/-- Moments at which the RETAIN banks of a set were let begin to wake (R271; log 67): those noted, and, of a pending FULL of a context that runs, the moment at which GTIME came to 1.2 µs before
it is due, or its declaration, and the moment at which it came into force. -/
def letWake (s : State) (c : Ctx) (n : Nat) : List Nat :=
  Sparse.get [] c.wakeFrom n ++ match Sparse.find c.phasePend n with
    | none => []
    | some p => if c.running = true ∧ p.level = 2 then
        (if p.opened = false ∧ p.due ≤ gtimeOf s + 1200 then [max p.since (devAt s (p.due - 1200))] else []) ++ (if p.due ≤ gtimeOf s then [max p.since (devAt s p.due)] else [])
      else []

/-- R252 to R256: the transfer instructions that move no data. XNOP goes on; XLOOP counts its index, and while it is below COUNT goes back; XWAIT waits for a timeline of a core of the
partition; XSIG raises one after every earlier transfer; XEND ends the program then. Non-zero reserved fields, COUNT 0 and a core of another partition are ILLEGAL. -/
def LaneControl : Prop :=
  ∀ (s : State) (lane : BitVec 3) (w : XWords) (slot : Nat) (v : Lane) (c : Ctx), LaneRuns s lane.toNat slot v c →
    let l := lane.toNat
    let o := w.op.toNat
    let zero := w.flags = 0 ∧ w.op = 0 ∧ w.x1 = 0 ∧ w.x2 = 0 ∧ w.x3 = 0
    let k := bits o 47 41
    let next := v.pc + 32
    (zero → exec (.xnop lane w) s = goesOn l v next s) ∧
    (¬zero → stopsIllegal s l v (exec (.xnop lane w) s) ∧ stopsIllegal s l v (exec (.xend lane w) s)) ∧
    (let n := bits o 41 40
     let x := laneX v n + 1
     let legal := w.flags = 0 ∧ bits o 47 42 = 0 ∧ bits o 39 32 = 0 ∧ bits o 31 0 ≠ 0 ∧ w.x2 = 0 ∧ w.x3 = 0
     (¬legal → stopsIllegal s l v (exec (.xloop lane w) s)) ∧
     (legal → x.toNat < bits o 31 0 → exec (.xloop lane w) s = goesOn l (setLaneX v n x) (v.pc + 32 * w.x1) s) ∧
     (legal → bits o 31 0 ≤ x.toNat → exec (.xloop lane w) s = goesOn l (setLaneX v n 0) next s)) ∧
    (let ixe := bits o 37 37 = 1
     let legal := w.flags = 0 ∧ bits o 34 0 = 0 ∧ inPart c k = true ∧ w.x3 = 0 ∧ (¬ixe → w.x2 = 0)
     let goal : Word := if ixe then w.x1 + w.x2 * (laneX v (bits o 36 35)).setWidth 64 else w.x1
     let tl := getTl (getCore s k) (bits o 40 38)
     (¬legal → stopsIllegal s l v (exec (.xwait lane w) s)) ∧
     (legal → tl.toNat < goal.toNat → exec (.xwait lane w) s = .next s) ∧
     (legal → goal.toNat ≤ tl.toNat → exec (.xwait lane w) s = goesOn l v next s)) ∧
    (let t := bits o 40 39
     let legal := w.flags = 0 ∧ bits o 38 0 = 0 ∧ inPart c k = true ∧ t ≠ 0 ∧ w.x1 = 0 ∧ w.x2 = 0 ∧ w.x3 = 0
     (¬legal → stopsIllegal s l v (exec (.xsig lane w) s)) ∧
     (legal → v.fly ≠ [] → exec (.xsig lane w) s = .next s) ∧
     (legal → v.fly = [] → ∃ u, exec (.xsig lane w) s = goesOn l v next u ∧ u.mem = s.mem ∧
       (∀ j, getTl (getCore u k) j = if j = 4 + t then getTl (getCore s k) j + 1 else getTl (getCore s k) j) ∧
       (∀ i, i ≠ k → getCore u i = getCore s i))) ∧
    (zero → v.fly ≠ [] → exec (.xend lane w) s = .next s) ∧
    (zero → v.fly = [] → ∃ t, exec (.xend lane w) s = .next t ∧ getLane t l = { v with st := .idle, pc := next, exec := v.exec + 1 } ∧ t.mem = s.mem ∧
      (ownsLane s v = true → (getRing (getCore t v.owner.1) 5).results = (getRing (getCore s v.owner.1) 5).results.map fun r =>
        { r with code := 0, detail := (v.exec + 1) % 2 ^ 47, statx := 0, busy := false }))

/-- R255, R270, R271, R276: XPHASE declares levels as SETPHASE does; a set that it lowers gets a lead longer by the largest LOSS of the partition's columns, which counts as at most half. The wakes
that have begun by then are kept on the clock of the device: a pending FULL of a running context begins them when GTIME comes to 1.2 µs before it is due, or at its declaration, and again as it comes
into force (log 67). -/
def LanePhases : Prop :=
  ∀ (s : State) (lane : BitVec 3) (w : XWords) (slot : Nat) (v : Lane) (c : Ctx), LaneRuns s lane.toNat slot v c →
    let img := w.x1.toNat
    let level := fun (m n : Nat) => m / 4 ^ n % 4
    let lead := bits w.op.toNat 12 0
    let now := phaseNow (gtimeOf s) c
    let slow := 65536 - partLoss s c
    let legal := w.flags = 0 ∧ bits w.op.toNat 47 13 = 0 ∧ img < 2 ^ 32 ∧ (∀ n, n < 16 → level img n ≠ 3) ∧ w.x2 = 0 ∧ w.x3 = 0
    32768 ≤ slow ∧ (∀ i, i < 2 ^ c.width → 65536 - (getCol s (c.part * 2 ^ c.width + i)).refloss % 65536 ≥ 32768 → slow ≤ 65536 - (getCol s (c.part * 2 ^ c.width + i)).refloss % 65536) ∧
    (¬legal → stopsIllegal s lane.toNat v (exec (.xphase lane w) s)) ∧
    (legal → ∃ u c2, exec (.xphase lane w) s = goesOn lane.toNat v (v.pc + 32) u ∧ u.mem = s.mem ∧ u.core = s.core ∧ getCtx u slot = some c2 ∧
      c2 = { c with phase := now, phasePend := c2.phasePend, wakeFrom := c2.wakeFrom } ∧
      ∀ n, n < 16 →
        let due := gtimeOf s + 100 * (if level img n < level now n then (65536 * lead + slow - 1) / slow else lead)
        Sparse.find c2.phasePend n = (if level img n = level now n then none else some { level := level img n, due := due, since := devNs s, opened := false }) ∧
        Sparse.get [] c2.wakeFrom n = letWake s c n)

/-- R248 to R251: XMOV and XMC. What breaks a field rule is ILLEGAL; a transfer issues while fewer than eight are in flight. Where its slots can be filled and no earlier one waits to begin, every byte of
its plain, readable source then stands in every member and its slots are filling; where not, it is in flight and has yet to begin, and the lane goes on. A transfer that has begun ends with
LANE_TRANSFER_COMPLETE, or with SLOT_FILL_COMPLETE of a slot that it alone fills: its slots become FULL, all together. No byte of memory changes. A lane reaches memory through the TLB of the
column that it serves (R287). -/
def LaneTransfers : Prop :=
  ∀ (s : State) (lane : BitVec 3) (w : XWords) (slot : Nat) (v : Lane) (c : Ctx) (ps : Nat → Nat), LaneRuns s lane.toNat slot v c →
    let l := lane.toNat
    let o := w.op.toNat
    let rows := bits o 45 40 + 1
    let n := 64 * (bits o 39 32 + 1)
    let pitch := w.x2.toNat / 2 ^ 32
    let src := if bits o 21 21 = 0 then w.x1.toNat else wrapTo 64 ((w.x1.toNat : Int) + signed 32 (w.x2.toNat % 2 ^ 32) * ((laneX v (bits o 20 19)).toNat : Int))
    let fields := w.flags = 0 ∧ bits o 47 46 = 0 ∧ bits o 18 0 = 0 ∧ w.x1.toNat % 64 = 0 ∧ w.x2.toNat % 64 = 0 ∧ pitch % 64 = 0 ∧ (bits o 21 21 = 0 → w.x2.toNat % 2 ^ 32 = 0)
    let q : State := { s with unit := some l }
    let readable := bits o 31 22 = 0 ∧ ∀ i, i < rows → Held q slot ((src + pitch * i) % 2 ^ 64) n false (ps i)
    let slots := fun (ms : List Member) => ms.filterMap fun m => m.slot.map fun x => (m.core, x)
    let open_ := fun (ms : List Member) => v.fly.length < 8 ∧ (∀ f ∈ v.fly, f.pend = none) ∧ ∀ f ∈ slots ms, canFill (getCore s f.1) f.2 = true
    let first := fun (ms : List Member) => ((v.fly.find? fun f => f.pend.isSome).map fun f => f.fills).getD (slots ms)
    let held := fun (ms : List Member) => v.fly.length < 8 ∧ ∃ f ∈ first ms, canFill (getCore s f.1) f.2 = false
    let issues := fun (ms : List Member) (e : Host.Outcome State Fault Refusal) => ∃ u p, e = goesOn l { v with fly := v.fly ++ [{ fills := slots ms, pend := some p }] } (v.pc + 32) u ∧
      u.mem = s.mem ∧ u.core = s.core ∧ p.members = ms ∧ p.pc = v.pc ∧ p.src = src ∧ p.ns = bits o 39 32 + 1 ∧ p.nr = rows ∧ p.pitch = pitch ∧ p.kh = 0
    let lands := fun (ms : List Member) (e : Host.Outcome State Fault Refusal) => ∃ u, e = goesOn l { v with fly := v.fly ++ [{ fills := slots ms }] } (v.pc + 32) u ∧ u.mem = s.mem ∧
      (∀ m ∈ ms, ∀ i k, i < rows → k < n → memberByte u m (n * i + k) = (Memory.read s.mem (ps i + k)).toNat) ∧
      (∀ f ∈ slots ms, (getSlot (getCore u f.1) f.2).st = .claimed ∧ (getSlot (getCore u f.1) f.2).fill = true) ∧
      (∀ k p, (∀ m ∈ ms, m.slot = none → m.core = k → ¬(m.base ≤ p ∧ p < m.base + n * rows)) → coreByte u k p = coreByte s k p) ∧
      ∀ k x, (k, x) ∉ slots ms → getSlot (getCore u k) x = getSlot (getCore s k) x
    let m0 := memberOf c (n * rows) w.x3.toNat
    (¬fields ∨ m0 = none → stopsIllegal s l v (exec (.xmov lane w) s)) ∧
    (∀ m, fields → m0 = some m → readable → 8 ≤ v.fly.length → exec (.xmov lane w) s = .next s) ∧
    (∀ m, fields → m0 = some m → readable → held [m] → issues [m] (exec (.xmov lane w) s)) ∧
    (∀ m, fields → m0 = some m → readable → open_ [m] → lands [m] (exec (.xmov lane w) s)) ∧
    (¬fields ∨ w.x3.toNat % 64 ≠ 0 → stopsIllegal s l v (exec (.xmc lane w) s)) ∧
    (∀ ms pr, fields → w.x3.toNat % 64 = 0 → Held q slot w.x3.toNat 64 false pr → setRecord c (n * rows) (memNum s pr 64) = some ms → membersApart (n * rows) ms = true →
      readable → (8 ≤ v.fly.length → exec (.xmc lane w) s = .next s) ∧ (held ms → issues ms (exec (.xmc lane w) s)) ∧
        (open_ ms → lands ms (exec (.xmc lane w) s))) ∧
    (∀ pr, fields → w.x3.toNat % 64 = 0 → Held q slot w.x3.toNat 64 false pr → setRecord c (n * rows) (memNum s pr 64) = none → stopsIllegal s l v (exec (.xmc lane w) s)) ∧
    let together := fun (j : Nat) (f : XferFly) (e : Host.Outcome State Fault Refusal) => ∃ t, e = .next t ∧ t.mem = s.mem ∧
      getLane t l = { v with fly := v.fly.eraseIdx j } ∧
      (∀ k x, (getSlot (getCore t k) x).st = (if (k, x) ∈ f.fills then .full else (getSlot (getCore s k) x).st) ∧
        (getSlot (getCore t k) x).fill = (if (k, x) ∈ f.fills then false else (getSlot (getCore s k) x).fill) ∧
        (getSlot (getCore t k) x).data = (getSlot (getCore s k) x).data)
    (∀ (j : BitVec 4) (f : XferFly), v.fly[j.toNat]? = some f →
      (f.pend = none → together j.toNat f (exec (.laneTransferComplete lane j) s)) ∧
      (f.pend ≠ none → exec (.laneTransferComplete lane j) s = .next s)) ∧
    (∀ (x : BitVec 5) (j : Nat) (f : XferFly), (engSlot s).isSome = true → (getSlot s.core x.toNat).fill = true → fillPending s x.toNat = false →
      laneFill s x.toNat = some (l, j) → v.fly[j]? = some f → f.pend = none → together j f (exec (.slotFillComplete x) s))

/-- R246, R247: XRUN waits for an IDLE lane of its partition's columns and starts the program at PARAM0 with zero indices, or continues the program that its own entry left SUSPENDED; its entry stays begun
until the program ends. XSTOP holds a RUNNING lane, which issues nothing more; once its transfers have completed, its XRUN ends as halted, with bit 47 of DETAIL and the PC, and the lane is IDLE; XSTOP
itself completes only when that XRUN has: it keeps which program it found running, and another that the lane has begun since goes on. -/
def LanesRunAndStop : Prop :=
  ∀ (s : State) (c : Cmd) (slot : Nat) (x : Ctx), CanRun s 5 c slot → getCtx s slot = some x →
    let l := bits c.arg.toNat 39 37
    let v := getLane s l
    let zeros := bits c.arg.toNat 36 0 = 0 ∧ c.p1 = 0 ∧ c.p2 = 0 ∧ c.p3 = 0 ∧ inPart x (16 * l) = true
    let me := (s.coreNo, (getRing s.core 5).rseq)
    let begins := fun (o : Host.Outcome State Fault Refusal) (y : Lane) => ∃ t r, o = .next t ∧ getLane t l = y ∧ t.mem = s.mem ∧
      (getRing t.core 5).results = placeResult (getRing s.core 5) r ∧ r.busy = true ∧ r.rtl = c.rtl.toNat
    (¬(zeros ∧ c.p0.toNat % 32 = 0) → exec (.xrun c) s = .next (endBad 5 1 0 0 s)) ∧
    (zeros → c.p0.toNat % 32 = 0 → v.st = .idle → begins (exec (.xrun c) s)
      { st := .running, pc := c.p0, x0 := 0, x1 := 0, x2 := 0, x3 := 0, owner := me, exec := 0, fly := [], slot := slot, halt := false }) ∧
    (zeros → c.p0.toNat % 32 = 0 → v.st = .suspended → v.owner = me → begins (exec (.xrun c) s) { v with st := .running }) ∧
    (zeros → c.p0.toNat % 32 = 0 → v.st = .running ∨ (v.st = .suspended ∧ v.owner ≠ me) → exec (.xrun c) s = .next s) ∧
    (¬(zeros ∧ c.p0 = 0) → exec (.xstop c) s = .next (endBad 5 1 0 0 s)) ∧
    let fresh := zeros ∧ c.p0 = 0 ∧ s.core.xstop = none
    let clear := withCore s { s.core with xstop := none }
    (fresh → v.st = .idle → runEnding s v = false → exec (.xstop c) s = .next (endOk 5 c 0 0 [] s)) ∧
    (fresh → v.st = .idle → runEnding s v = true → exec (.xstop c) s = .next s) ∧
    (fresh → v.st = .suspended → exec (.xstop c) s = .next (endOk 5 c 0 0 [] (setLane s l { v with st := .idle }))) ∧
    (fresh → v.st = .running → exec (.xstop c) s = .next (setLane (withCore s { s.core with xstop := some v.owner }) l { v with halt := true })) ∧
    (∀ o, zeros → c.p0 = 0 → s.core.xstop = some o → let on := (v.st = .running ∧ v.owner = o) ∨ runEnding s { v with owner := o } = true
      (on → exec (.xstop c) s = .next s) ∧
      (¬on → v.st = .suspended → v.owner = o → exec (.xstop c) s = .next (endOk 5 c 0 0 [] (setLane clear l { v with st := .idle }))) ∧
      (¬on → ¬(v.st = .suspended ∧ v.owner = o) → exec (.xstop c) s = .next (endOk 5 c 0 0 [] clear))) ∧
    (v.halt = true → v.fly ≠ [] → laneHalt l s = s) ∧
    (v.halt = true → v.fly = [] → ∃ t, laneHalt l s = t ∧ t.mem = s.mem ∧ getLane t l = { v with st := .idle, halt := false } ∧
      (ownsLane s v = true → (getRing (getCore t v.owner.1) 5).results = (getRing (getCore s v.owner.1) 5).results.map fun r =>
        { r with code := 0, detail := 2 ^ 47 + v.exec % 2 ^ 47, statx := v.pc, busy := false }))

/-- R325, R326, R348, R386: the block store's own steps, of a context that runs and that no switch has begun to save: the engine notes the block at the head of its queue and takes a quarter, then writes the encoded block
there and puts it in the record's place, or gives the quarter back where the block has changed since. The encoded block holds each row's groups of 32 values as R138's procedure gives them (`MxfpBlocks`), the scales in the summary's scale area, and the bound and the sketches as they
were; the epoch flips when the other epoch has no holders, and what was retired before it becomes free when none of its holders is left. -/
def StoreSteps : Prop :=
  ∀ (s : State) (slot col : BitVec 3) (r : StoreRec), kvActive s slot.toNat col.toNat = some r →
    let k := getKv s slot.toNat col.toNat
    let kv := fun (t : State) => getKv t slot.toNat col.toNat
    let old := if k.epoch then k.h0 else k.h1
    (∀ (u : State) (c : Ctx), getCtx u slot.toNat = some c → c.running = false ∨ (getPart u c.part).phase = .saving →
      exec (.epochFlip slot col) u = .next u ∧ exec (.drainingFree slot col) u = .next u ∧ exec (.requantiseBlock slot col) u = .next u) ∧
    (old = 0 → k.pending ≠ [] → k.draining = [] → ∃ t, exec (.epochFlip slot col) s = .next t ∧ t.core = s.core ∧ t.mem = s.mem ∧
      kv t = { k with epoch := !k.epoch, draining := k.pending, pending := [] }) ∧
    (old ≠ 0 ∨ k.pending = [] ∨ k.draining ≠ [] → exec (.epochFlip slot col) s = .next s) ∧
    (old = 0 → k.draining ≠ [] → k.draining.Nodup → (∀ f ∈ k.draining, Sparse.get 0 k.used f = 15) → ∃ t, exec (.drainingFree slot col) s = .next t ∧ t.core = s.core ∧ t.mem = s.mem ∧
      (kv t).draining = [] ∧ (∀ f, Sparse.get 0 (kv t).used f = if f ∈ k.draining then 0 else Sparse.get 0 k.used f) ∧ (kv t).recs = k.recs ∧ (kv t).seqs = k.seqs) ∧
    (old ≠ 0 ∨ k.draining = [] → exec (.drainingFree slot col) s = .next s) ∧
    (r.req = false → exec (.requantiseBlock slot col) s = .next s) ∧
    (∀ i rest b, r.req = true → k.queue = i :: rest → Sparse.find k.recs i = some b →
      (k.enc = none → reserveOk r [2] k = none → ∃ t n, exec (.requantiseBlock slot col) s = .next t ∧ t.core = s.core ∧ t.mem = s.mem ∧
        (kv t).enc = some (b.gen, n) ∧ (kv t).queue = k.queue ∧ (kv t).recs = k.recs) ∧
      (k.enc = none → reserveOk r [2] k ≠ none → ∃ t, exec (.requantiseBlock slot col) s = .next t ∧ kv t = k ∧ t.core = s.core ∧ t.mem = s.mem) ∧
      (∀ gen n, k.enc = some (gen, n) → b.fmt ≠ 0 → ∃ t, exec (.requantiseBlock slot col) s = .next t ∧ t.core = s.core ∧ t.mem = s.mem ∧
        (kv t).queue = rest ∧ (kv t).enc = none ∧ (kv t).recs = k.recs) ∧
      (∀ gen n w1, k.enc = some (gen, n) → b.fmt = 0 →
        encodeBlock slot.toNat r b { b with addr := qAddr r n, fmt := 2, gen := (b.gen + 1) % 2 ^ 32 } { s := { s with unit := some col.toNat }, kv := k, spill := false } = .ok w1 →
        ∃ t, exec (.requantiseBlock slot col) s = .next t ∧ t.core = s.core ∧ (kv t).queue = rest ∧ (kv t).enc = none ∧
          (b.gen = gen → (kv t).pending = k.pending ++ [recQ r b / 4] ∧ getRec (kv t) i = { b with addr := qAddr r n, fmt := 2, gen := (b.gen + 1) % 2 ^ 32 } ∧
            ∀ j, j ≠ i → getRec (kv t) j = getRec k j) ∧
          (b.gen ≠ gen → (kv t).pending = k.pending ∧ (kv t).recs = k.recs ∧ Sparse.get 0 (kv t).used (n / 4) = Sparse.get 0 k.used (n / 4) - 2 ^ (n % 4)) ∧
          ∀ pp ps, let y : BlockRec := { b with addr := qAddr r n, fmt := 2 }
            AreasHeld { s with unit := some col.toNat } slot.toNat r pp ps → InPool r b → InPool r y → Apart r b y →
            memNum t (ps + (sumAddr r y - r.sumbase)) (34 * r.kvh * r.d) = memNum s (ps + (sumAddr r b - r.sumbase)) (34 * r.kvh * r.d) ∧
            ∀ g k val m, g < r.kvh → k < 64 → 32 * m < r.d →
              let x := mxfp4Block ((List.range 32).map fun e => memNum s (pp + (kvRowAddr r b val g k - r.poolbase) + 64 * m + 2 * e) 2)
              memNum t (ps + (sumAddr r y + scaleOff r val g k + m - r.sumbase)) 1 = x.1 ∧
              ∀ e, e < 32 → x.2[e]? = some (memNum t (pp + (kvRowAddr r y val g k - r.poolbase) + 16 * m) 16 / 16 ^ e % 16)))

/-- R138: the MXFP4 block of 32 BF16 values. A NaN or an infinity among them gives scale 0xFF and zero elements; zeros give scale 0 and keep their signs. Else t is the exponent of the largest
magnitude less two, at least −127, the scale is t + 127, and each element is the E2M1 magnitude nearest to |x| / 2^t, at most 6, of two the even one, with the sign of x. -/
def MxfpBlocks : Prop :=
  ∀ xs : List Nat, xs.length = 32 → (∀ x ∈ xs, x < 2 ^ 16) →
    let mag := fun (x : Nat) => (numAt (fmtOf 11) (-133) x).natAbs
    let top := xs.foldl (fun m x => max m (mag x)) 0
    let t : Int := max (-127) ((Nat.log2 top : Int) - 135)
    let past := fun (x : Nat) (p : Nat × Nat) => decide (p.1 * 2 ^ (t + 133).toNat < 4 * mag x ∨ p.2 % 2 = 1 ∧ p.1 * 2 ^ (t + 133).toNat = 4 * mag x)
    let special := ∃ x ∈ xs, x / 2 ^ 7 % 256 = 255
    (special → mxfp4Block xs = (255, List.replicate 32 0)) ∧
    (¬special → top = 0 → mxfp4Block xs = (0, xs.map fun x => x / 2 ^ 15 * 8)) ∧
    (¬special → 0 < top → mxfp4Block xs = ((t + 127).toNat, xs.map fun x => x / 2 ^ 15 * 8 + [1, 3, 5, 7, 10, 14, 20].zipIdx.countP (past x)))

end Sys2Proof.Claims

namespace Sys2Proof.Claims
open Sys2Proof.Machine

/-- The CM engine begins the command now, for the context `x`, whose cores stand in the package (R359). -/
def CmStart (s : State) (c : Cmd) (slot : Nat) (x : Ctx) : Prop :=
  CanStart s 3 c slot ∧ getCtx s slot = some x ∧ liveCtx s slot x = true

/-- As before, and the entries ahead of it have finished translating (R310; log 26). -/
def CmCan (s : State) (c : Cmd) (slot : Nat) (x : Ctx) : Prop := CmStart s c slot x ∧ aheadDone 3 s.core = true

/-- The CM command completes in `t`. -/
def cmEnds (c : Cmd) (puts : Bool) (detail : Nat) (x : Word) (t : State) : Host.Outcome State Fault Refusal :=
  .next (cmDone c puts detail x t)

/-- The CM command is ILLEGAL. -/
def cmIllegal (s : State) : Host.Outcome State Fault Refusal := .next (endBad 3 1 0 0 s)

/-- The command waits for the answers to packets: its entry is begun, and `ps` are the packets with the local rows that their answers fill, of which the first
eight are sent and the others follow as answers come (R361). -/
def CmWaits (s t : State) (c : Cmd) (ps : List (Nat × Packet)) : Prop :=
  t.mem = s.mem ∧ (∃ r, (getRing t.core 3).results = placeResult (getRing s.core 3) r ∧ r.busy = true ∧ r.rtl = c.rtl.toNat) ∧
  (getRing t.core 3).rp = (getRing s.core 3).rp ∧ ∃ w, t.core.cmwait = s.core.cmwait ++ [w] ∧ w.waiting = ps.take 8 ∧ w.sent = ps.take 8 ∧ w.todo = ps.drop 8 ∧ w.seq = nextSeq s

/-- `n` rows of core `k` from row `r`, or memory at `a` when `mem` says so, one side of a transfer by a CM command or a packet. -/
def PeerSide (s : State) (slot k : Nat) (mem : Bool) (a n : Nat) (write : Bool) (p : Nat) : Prop :=
  if mem then Held s slot a n write p else p = 512 * a ∧ (write = false → (getCore s k).badRows = [])

/-- Byte `p` of memory, or of the rows of core `k`. -/
def peerByte (s : State) (k : Nat) (mem : Bool) (p : Nat) : Nat := if mem then (Memory.read s.mem p).toNat else coreByte s k p

/-- Every byte of memory and of the package's rows but those where `f` holds is the same; `none` stands for memory. -/
def SamePeers (s t : State) (f : Option Nat → Nat → Prop) : Prop :=
  SameBytes s t (f none) ∧ ∀ k p, ¬f (some k) p → coreByte t k p = coreByte s k p

/-- R360, R361: NPUT and NGET. Between cores of the package, and between a core and memory, the bytes are moved in row order; a peer of another package gets one packet for each row, and
the command waits for the answers, with up to eight packets in flight. ADDR of a packet is the peer's address or row itself (R377); what its payload says beside the row is the model's form (log 18). A peer
without a route is MACHINE_CHECK. -/
def PutsAndGets : Prop :=
  ∀ (s : State) (c : Cmd) (slot pa : Nat) (x : Ctx), CmCan s c slot x →
    let a := c.arg.toNat
    let lrow := bits a 39 27
    let n := bits a 26 20 + 1
    let dk := bits a 19 19 == 1
    let p1 := c.p1.toNat
    (peerOf c.p0.toNat = none → exec (.nput c) s = cmIllegal s ∧ exec (.nget c) s = cmIllegal s) ∧
    (∀ p, peerOf c.p0.toNat = some p →
      let legal := bits a 18 0 = 0 ∧ c.p2 = 0 ∧ c.p3 = 0 ∧ lrow + n ≤ 6144 ∧ (if dk then p.core = 0 ∧ p1 % 64 = 0 else p1 < 8192 ∧ p1 + n ≤ 6096)
      let here := peerHere s p = true
      let mine := here → dk = false → inPart x p.core = true
      (¬(legal ∧ mine) → exec (.nput c) s = cmIllegal s ∧ exec (.nget c) s = cmIllegal s) ∧
      (legal → mine → here → PeerSide s slot p.core dk p1 (512 * n) true pa → s.core.badRows = [] →
        (dk = false → p.core = s.coreNo → p1 + n ≤ lrow ∨ lrow + n ≤ p1) →
        ∃ t, exec (.nput c) s = cmEnds c true (512 * n) 0 t ∧ (∀ i, i < 512 * n → peerByte t p.core dk (pa + i) = coreByte s s.coreNo (512 * lrow + i)) ∧
          SamePeers s t fun k q => k = (if dk then none else some p.core) ∧ pa ≤ q ∧ q < pa + 512 * n) ∧
      (legal → mine → here → PeerSide s slot p.core dk p1 (512 * n) false pa → (dk = false → p.core = s.coreNo → p1 + n ≤ lrow ∨ lrow + n ≤ p1) →
        ∃ t, exec (.nget c) s = cmEnds c false (512 * n) 0 t ∧ (∀ i, i < 512 * n → coreByte t s.coreNo (512 * lrow + i) = peerByte s p.core dk (pa + i)) ∧
          SamePeers s t fun k q => k = some s.coreNo ∧ 512 * lrow ≤ q ∧ q < 512 * (lrow + n)) ∧
      (legal → ¬here → peerReach s p = false → (exec (.nput c) s = exec (.nget c) s) ∧ ∃ t, exec (.nput c) s = .next (endBad 3 0x0C 0 (if dk then c.p1 else 0) t)) ∧
      (legal → ¬here → peerReach s p = true → s.core.badRows = [] → ∃ t u ps qs, exec (.nput c) s = .next t ∧ exec (.nget c) s = .next u ∧
        CmWaits s t c ps ∧ CmWaits s u c qs ∧ t.core.rows = s.core.rows ∧ u.core.rows = s.core.rows ∧ ps.length = n ∧ qs.length = n ∧
        ∀ i, i < n → ∃ k g, ps[i]? = some (0, k) ∧ qs[i]? = some (lrow + i, g) ∧ k.op = 2 ∧ g.op = 1 ∧ k.dst.toNat = c.p0.toNat ∧ g.dst = k.dst ∧
          k.addr = c.p1 + .ofNat 64 (if dk then 512 * i else i) ∧ g.addr = k.addr ∧ pktForm k = (if dk then 1 else 2) ∧ pktForm g = pktForm k ∧
          ofBytes (k.payload.drop 24) = (getRow s.core (lrow + i)).toNat ∧ k.payload.length = 536 ∧ ofBytes (g.payload.drop 24) = 512 ∧
          k.job.toNat = x.job % 2 ^ 32))

/-- R311, R362, R363: NSIG, once begun, waits for the earlier puts and atomics of its ring and for nothing else, then raises a timeline of a core; NATOM performs one atomic operation at its home. Their packets to other packages say
the same, in the model's form of ADDR and of the payload (log 18). -/
def SignalsAndAtomics : Prop :=
  ∀ (s : State) (c : Cmd) (slot : Nat) (x : Ctx) (p : Peer), CmStart s c slot x → peerOf c.p0.toNat = some p →
    let a := c.arg.toNat
    let here := peerHere s p = true
    (let tls := bits a 39 38
     let n := bits a 37 30 + 1
     let legal := bits a 29 0 = 0 ∧ tls ≠ 0 ∧ c.p1 = 0 ∧ c.p2 = 0 ∧ c.p3 = 0 ∧ (here → inPart x p.core = true)
     let clear := ∀ r ∈ aheadOf (getRing s.core 3), r.puts = true → r.posted = true
     (¬legal → exec (.nsig c) s = cmIllegal s) ∧
     (legal → ¬clear → heldBack s (exec (.nsig c) s)) ∧
     (legal → clear → here → ∃ t, exec (.nsig c) s = cmEnds c false 0 0 t ∧ t.mem = s.mem ∧
       (∀ j, getTl (getCore t p.core) j = if j = 4 + tls then getTl (getCore s p.core) j + .ofNat 64 n else getTl (getCore s p.core) j) ∧
       ∀ k, k ≠ p.core → getCore t k = getCore s k) ∧
     (legal → clear → ¬here → peerReach s p = true → ∃ t k, exec (.nsig c) s = .next t ∧ CmWaits s t c [(0, k)] ∧ k.op = 4 ∧ k.dst.toNat = c.p0.toNat ∧
       bits k.addr.toNat 1 0 = tls ∧ bits k.addr.toNat 10 2 = n)) ∧
    (aheadDone 3 s.core = true →
     let op := bits a 39 36
     let n := if bits a 35 35 = 1 then 8 else 4
     let va := c.p1.toNat
     let legal := bits a 34 0 = 0 ∧ op < 10 ∧ p.core = 0 ∧ va % n = 0 ∧ (op = 5 ∨ c.p3 = 0)
     (¬legal → exec (.natom c) s = cmIllegal s) ∧
     (∀ code, legal → here → translate s slot va .atomic = .error code → code = 3 ∨ code = 4 → ∃ t, exec (.natom c) s = .next (endBad 3 code 0 c.p1 t) ∧ t.core = s.core ∧ t.mem = s.mem) ∧
     (∀ pa, legal → here → Held s slot va n true pa →
       let old := memNum s pa n
       let new := atomNew op n old (c.p2.toNat % 2 ^ (8 * n)) (c.p3.toNat % 2 ^ (8 * n))
       ∃ t, exec (.natom c) s = cmEnds c true 0 (.ofNat 64 old) t ∧ t.core = s.core ∧ SameBytes s t (fun b => pa ≤ b ∧ b < pa + n) ∧
         memNum t pa n = (match new with | some v => v % 2 ^ (8 * n) | none => old)) ∧
     (legal → ¬here → peerReach s p = true → ∃ t k, exec (.natom c) s = .next t ∧ CmWaits s t c [(0, k)] ∧ k.op = 3 ∧ k.dst.toNat = c.p0.toNat ∧ k.addr = c.p1 ∧ pktForm k = 1 ∧
       unpack [8, 8, 64, 64] (ofBytes (k.payload.drop 24)) = [op, n, c.p2.toNat, c.p3.toNat]))

/-- R364 to R367, R371: NCOLL starts a walker at iteration 1 of the record in its row, with STEP 0 for its group unless the group is frozen, whose STEP stays. A record that breaks R364 is ILLEGAL, a reduction that neither the switches nor the members may
perform OPAQUE, and a group that is aborted ends it with ABORT. A step of the walker to a core of the package moves its bytes (PUT, GET), or combines them with what stands there (PUTRED), raises the
timeline that the record names, and counts; the last step completes the command. A member whose group is frozen refuses the step, which never counts (R370). -/
def Collectives : Prop :=
  ∀ (s : State) (c : Cmd) (slot : Nat) (x : Ctx),
    (CmCan s c slot x →
      let a := c.arg.toNat
      let row := bits a 39 27
      let fb := bits a 26 26 = 1
      let zeros := bits a 25 0 = 0 ∧ c.p0 = 0 ∧ c.p1 = 0 ∧ c.p2 = 0 ∧ c.p3 = 0 ∧ row < 6144
      let r := getRow s.core row
      let g := collOf r
      let enc := 4 ≤ x.transport.toNat
      (¬zeros → exec (.ncoll c) s = cmIllegal s) ∧
      (zeros → s.core.badRows = [] →
        (collOk r g = false ∨ (g.kind = 3 ∧ ¬enc ∧ ¬fb) → exec (.ncoll c) s = cmIllegal s) ∧
        (collOk r g = true → g.kind = 3 → x.transport = 5 → ¬fb → exec (.ncoll c) s = .next (endBad 3 6 0 0 s)) ∧
        (collOk r g = true → g.kind ≠ 3 ∨ fb ∨ (enc ∧ x.transport ≠ 5) →
          ((getGroup s.core g.group).aborted = none → ∃ t q w, exec (.ncoll c) s = .next t ∧ t.mem = s.mem ∧ t.core.walkers = s.core.walkers ++ [w] ∧
            w.record = r ∧ w.next = 1 ∧ w.waiting = [] ∧ w.refused = none ∧ w.seq = nextSeq s ∧
            (getGroup t.core g.group).step = (if (getGroup s.core g.group).frozen then (getGroup s.core g.group).step else 0) ∧
            (getRing t.core 3).results = placeResult (getRing s.core 3) q ∧ q.busy = true) ∧
          (∀ d, (getGroup s.core g.group).aborted = some d → ∃ t q, exec (.ncoll c) s = .next t ∧ t.core.walkers = s.core.walkers ∧
            (getRing t.core 3).results = placeResult (getRing s.core 3) q ∧ q.code = 0x0B ∧ q.detail = g.group * 2 ^ 32 ∧ q.statx = .ofNat 64 d ∧ q.busy = false)))) ∧
    (∀ (w : Walker) (p : Peer) (pt ps pd : Nat), engSlot s = some slot → curSlot s = some slot → getCtx s slot = some x → liveCtx s slot x = true → s.core.walkers = [w] → s.core.chain = [] →
      w.waiting = [] → w.refused = none → 0 < w.next →
      let g := collOf w.record
      let st := collStep g w.next
      let total := collTotal g
      let own := s.coreNo
      let num := fun (k : Nat) (mem : Bool) (b : Nat) => ofBytes ((List.range g.len).map fun i => BitVec.ofNat 8 (peerByte s k mem (b + i)))
      (getGroup s.core g.group).frozen = false → g.kind ≤ 2 → g.stl ≤ 3 → (g.kind = 2 → g.stl = 0) → w.next ≤ total → g.len % 64 = 0 → (g.sk = 0 ∨ g.dk = 0 → g.len % 512 = 0) → g.sk ≤ 1 → g.dk ≤ 1 →
      Held s slot ((g.mtab + 4 * st.1) % 2 ^ 64) 4 false pt → peerOf (memNum s pt 4) = some p → peerHere s p = true → inPart x p.core = true →
      PeerSide s slot own (g.sk == 1) st.2.1 g.len (g.kind == 2) ps → PeerSide s slot p.core (g.dk == 1) st.2.2 g.len (g.kind != 2) pd →
      (g.kind = 1 → g.dk = 0 → (getCore s p.core).badRows = []) →
      ∃ t, exec .loopWalkerTransfer s = .next t ∧ if (getGroup (getCore s p.core) g.group).frozen then
        t.mem = s.mem ∧ SamePeers s t (fun _ _ => False) ∧ t.core.walkers = [{ w with next := w.next + 1, refused := some w.next }] ∧ (getGroup t.core g.group).step = w.next - 1
      else
        (g.kind = 0 → ∀ i, i < g.len → peerByte t p.core (g.dk == 1) (pd + i) = peerByte s own (g.sk == 1) (ps + i)) ∧
        (g.kind = 1 → [4, 10, 11, 12, 13].contains g.ety = true → ∀ i, i < g.len → peerByte t p.core (g.dk == 1) (pd + i) =
          nByte (combNum g.ety g.rop g.len (num p.core (g.dk == 1) pd) (num own (g.sk == 1) ps)) i) ∧
        (g.kind = 2 → ∀ i, i < g.len → peerByte t own (g.sk == 1) (ps + i) = peerByte s p.core (g.dk == 1) (pd + i)) ∧
        (SamePeers s t fun k q => if g.kind = 2 then k = (if g.sk = 1 then none else some own) ∧ ps ≤ q ∧ q < ps + g.len
          else k = (if g.dk = 1 then none else some p.core) ∧ pd ≤ q ∧ q < pd + g.len) ∧
        (∀ j, getTl (getCore t p.core) j = getTl (getCore s p.core) j + (if g.stl ≠ 0 ∧ j = 4 + g.stl then 1 else 0)) ∧
        (getGroup t.core g.group).step = w.next ∧
        (w.next < total → t.core.walkers = [{ w with next := w.next + 1 }]) ∧ (w.next = total → t.core.walkers = []))

/-- R364, R365: the record of NCOLL, field by field; what makes it legal, over every iteration; the rank, source and destination of iteration `n`, counted from 1 with the innermost index
fastest; and what PUTRED makes of an element: its sum, minimum or maximum with the element that arrives, by the rules of integers (R365) or those of the vector instructions (R145, R150; that a
minimum takes a NaN as R150 does is the model's reading, log 19). -/
def CollectiveRecords : Prop :=
  ∀ (r : Row), let g := collOf r
    let byte := rowBytes r
    let lev := fun (l : Nat) => (byte (64 + 32 * l) 4, signed 64 (byte (68 + 32 * l) 8), signed 64 (byte (76 + 32 * l) 8), signed 32 (byte (84 + 32 * l) 4))
    let red := g.kind = 1 ∨ g.kind = 3
    let L := g.levels
    let iter := fun (i : List Nat) => i.length = L.length ∧ ∀ k x, L[k]? = some x → i.getD k 0 < x.1
    let sum := fun (f : Nat × Int × Int × Int → Int) (i : List Nat) => ((L.zip i).map fun p => (p.2 : Int) * f p.1).sum
    let S := fun i => (g.sbase : Int) + sum (·.2.1) i
    let D := fun i => (g.dbase : Int) + sum (·.2.2.1) i
    let number := fun (i : List Nat) => ((List.range L.length).map fun k => i.getD k 0 * ((L.take k).map (·.1)).foldl (· * ·) 1).sum
    g = { group := byte 0 2, kind := byte 2 1, ety := byte 3 1, rop := byte 4 1, nlev := byte 5 1, sk := byte 6 1, dk := byte 7 1, len := byte 8 4, gsize := byte 12 4,
          rank := byte 16 4, p0 := byte 20 4, pself := signed 32 (byte 24 4), sbase := byte 32 8, dbase := byte 40 8, mtab := byte 48 8, stl := byte 56 1,
          levels := (List.range (min 4 (byte 5 1))).map lev } ∧
    (collOk r g = true ↔ 1 ≤ g.group ∧ g.kind ≤ 3 ∧ (red → g.ety ∈ [4, 10, 11, 12, 13] ∧ g.rop ≤ 2) ∧ (¬red → g.ety = 0 ∧ g.rop = 0) ∧ 1 ≤ g.nlev ∧ g.nlev ≤ 4 ∧ g.sk ≤ 1 ∧ g.dk ≤ 1 ∧
      64 ≤ g.len ∧ g.len ≤ 1048576 ∧ g.len % 64 = 0 ∧ (g.sk = 0 ∨ g.dk = 0 → g.len % 512 = 0) ∧ 1 ≤ g.gsize ∧ g.gsize ≤ 2 ^ 20 ∧ g.rank < g.gsize ∧ byte 28 4 = 0 ∧ g.mtab % 4 = 0 ∧ g.stl ≤ 3 ∧
      (2 ≤ g.kind → g.stl = 0) ∧ byte 57 7 = 0 ∧ (∀ x ∈ L, 1 ≤ x.1) ∧ (∀ l, l < g.nlev → byte (88 + 32 * l) 8 = 0) ∧ (∀ k, 64 + 32 * g.nlev ≤ k → k < 512 → byte k 1 = 0) ∧
      (g.sk = 0 → ∀ i, iter i → 0 ≤ S i ∧ S i + (g.len / 512 : Nat) ≤ 6144) ∧
      (g.dk = 0 → ∀ i, iter i → 0 ≤ D i ∧ D i + (g.len / 512 : Nat) ≤ (if g.kind = 3 then 6144 else 6096))) ∧
    (∀ i, iter i → 0 < g.gsize → let t := collStep g (number i + 1)
      (t.1 : Int) = ((g.p0 : Int) + g.pself * g.rank + sum (·.2.2.2) i) % g.gsize ∧ t.2.1 = (S i % 2 ^ 64).toNat ∧ t.2.2 = (D i % 2 ^ 64).toNat ∧ number i < collTotal g) ∧
    ∀ (ety rop n x y j : Nat), ety ∈ [4, 10, 11, 12, 13] → n % 64 = 0 →
      let w := tyBits (.ofNat 4 ety)
      let F := fmtOf ety
      let el := fun (v : Nat) => v / 2 ^ (w * j) % 2 ^ w
      let a := el x
      let b := el y
      w * j < 8 * n → el (combNum ety rop n x y) =
        if ety = 4 then (if rop = 0 then (a + b) % 2 ^ 32 else wrapTo 32 (if rop = 1 then min (signed 32 a) (signed 32 b) else max (signed 32 a) (signed 32 b)))
        else if rop = 0 then (fAdd F .rne false a b).1 else fMinMax F (rop == 2) a b

/-- R368, R369: NXPERT delivers each token's rows to the experts of its mask in this package, up to each one's capacity, in order; DETAIL counts what it sent and what it dropped. -/
def ExpertsDeliver : Prop :=
  ∀ (s : State) (c : Cmd) (slot : Nat) (x : Ctx) (xs : List Expert), CmCan s c slot x →
    let a := c.arg.toNat
    let row := bits a 39 27
    let zeros := bits a 26 0 = 0 ∧ c.p0 = 0 ∧ c.p1 = 0 ∧ c.p2 = 0 ∧ c.p3 = 0 ∧ row + 5 ≤ 6144
    let h := getRow s.core row
    let ntok := rowBytes h 0 2
    let trows := rowBytes h 2 1
    let nexp := rowBytes h 3 1
    let lrow := rowBytes h 4 2
    let etab := rowBytes h 8 8
    let mask := fun (t : Nat) => rowBytes (getRow s.core (row + 1 + t / 64)) (8 * (t % 64)) 8
    let legal := 1 ≤ ntok ∧ ntok ≤ 256 ∧ 1 ≤ trows ∧ trows ≤ 4 ∧ 1 ≤ nexp ∧ nexp ≤ 64 ∧ rowBytes h 6 2 = 0 ∧ etab % 64 = 0 ∧ rowBytes h 16 496 = 0 ∧
      lrow + trows * ntok ≤ 6144 ∧ ∀ t, t < ntok → mask t < 2 ^ nexp
    let routed := fun (e : Nat) => (List.range ntok).filter fun t => (mask t).testBit e
    let cap := fun (e : Nat) => (xs.map (·.cap)).getD e 0
    (¬zeros → exec (.nxpert c) s = cmIllegal s) ∧
    (zeros → s.core.badRows = [] → ¬legal → exec (.nxpert c) s = cmIllegal s) ∧
    (zeros → s.core.badRows = [] → legal → experts slot trows s nexp etab = .ok xs → (∀ y ∈ xs, peerHere s y.peer = true) →
      s.coreNo ∉ xs.map (·.peer.core) → (xs.map (·.peer.core)).Nodup →
      ∃ t d, exec (.nxpert c) s = cmEnds c false d 0 t ∧ t.mem = s.mem ∧
        d % 2 ^ 32 = ((List.range nexp).map fun e => min (cap e) (routed e).length).sum ∧
        d / 2 ^ 32 = ((List.range nexp).map fun e => (routed e).length - cap e).sum % 2 ^ 16 ∧
        ∀ e y, xs[e]? = some y →
          (∀ j u i, (routed e)[j]? = some u → j < y.cap → i < trows → getRow (getCore t y.peer.core) (y.drow + trows * j + i) = getRow s.core (lrow + trows * u + i)) ∧
          (∀ r, ¬(y.drow ≤ r ∧ r < y.drow + trows * y.cap) → getRow (getCore t y.peer.core) r = getRow (getCore s y.peer.core) r) ∧
          (∀ j, getTl (getCore t y.peer.core) j = getTl (getCore s y.peer.core) j + if y.stl ≠ 0 ∧ j = 4 + y.stl then 1 else 0))

/-- R370 to R372: an abort whose members stand in the package and run no collective of the group: each member's group is frozen and aborted at the least STEP of all, the initiator's included (log 43), and NABORT
completes with it. When no answer comes, STOP_REPLY_TIMEOUT counts STEP 0: the group is aborted at 0 on the initiator and on the members of the package, and NABORT completes with STATX 0. -/
def Aborts : Prop :=
  ∀ (s : State) (c : Cmd) (slot : Nat) (x : Ctx) (l : List Peer), CmStart s c slot x →
    let a := c.arg.toNat
    let g := bits a 39 24
    let n := c.p1.toNat
    let legal := g ≠ 0 ∧ bits a 23 0 = 0 ∧ c.p2 = 0 ∧ c.p3 = 0 ∧ c.p0.toNat % 4 = 0 ∧ 0 < n ∧ n ≤ 2 ^ 20
    let cores := s.coreNo :: l.map (·.core)
    let step := fun k => (getGroup (getCore s k) g).step
    (¬legal → exec (.nabort c) s = cmIllegal s) ∧
    (legal → s.aborts = [] → s.stopsDue = [] → slotOfJob s (x.job % 2 ^ 32) = some slot → x.job < 2 ^ 32 → s.coreNo < 128 → tablePeers slot c.p0.toNat s n 0 = .ok l → l.Nodup →
      (∀ p ∈ l, peerHere s p = true ∧ inPart x p.core = true) →
      (∀ k ∈ cores, (∀ w ∈ (getCore s k).walkers, rowBytes w.record 0 2 ≠ g) ∧ (getGroup (getCore s k) g).aborted = none ∧ (getGroup (getCore s k) g).trapped = false ∧ step k < 2 ^ 48) →
      ∃ t least q, exec (.nabort c) s = .next t ∧ t.mem = s.mem ∧ t.aborts = [] ∧ t.stopsDue = [] ∧ (∃ k ∈ cores, least = step k) ∧ (∀ k ∈ cores, least ≤ step k) ∧
        (∀ k ∈ cores, (getGroup (getCore t k) g).frozen = true ∧ (getGroup (getCore t k) g).aborted = some least) ∧
        (∀ k ∈ cores, k ≠ s.coreNo → (getCore t k).abortPend = (getCore s k).abortPend ++ [.ofNat 64 (g * 2 ^ 48 + least)]) ∧
        (getRing t.core 3).results = placeResult (getRing s.core 3) q ∧ q.code = 0 ∧ q.busy = false ∧ q.statx = .ofNat 64 least) ∧
    (∀ r rest, s.aborts = r :: rest → ∃ t, exec .stopReplyTimeout s = .next t ∧ t.aborts.length ≤ rest.length ∧ (∀ e ∈ t.aborts, e ∈ rest) ∧ t.mem = s.mem ∧
      ((∀ e ∈ rest, e.awaiting ≠ []) → t.aborts = rest ∧
        ∀ q sl y, r.seq = some q → slotOfJob s r.job = some sl → getCtx s sl = some y → liveCtx s sl y = true →
          (∀ k ∈ r.core :: membersHere s r.members, (getGroup (getCore s k) r.group).aborted = none) →
          (∀ k ∈ r.core :: membersHere s r.members, (getGroup (getCore t k) r.group).frozen = true ∧ (getGroup (getCore t k) r.group).aborted = some 0) ∧
          let i := (q - (getRing (getCore s r.core) 3).rseq).toNat
          ∀ e, (getRing (getCore s r.core) 3).results[i]? = some e → (∀ w ∈ (getCore s r.core).walkers, rowBytes w.record 0 2 ≠ r.group) →
            ∃ e2, (getRing (getCore t r.core) 3).results[i]? = some e2 ∧ e2.code = 0 ∧ e2.busy = false ∧ e2.statx = 0)) ∧
    (s.aborts = [] → exec .stopReplyTimeout s = .next s)

end Sys2Proof.Claims

namespace Sys2Proof.Claims
open Sys2Proof.Machine

/-- The request `k` has reached its package, where its context is resident in `slot` and its cores stand in the package (R355). -/
def AtHome (s : State) (k : Packet) (slot : Nat) (x : Ctx) : Prop :=
  packetDst k = (s.domNo.toNat, s.pkgNo.toNat) ∧ slotOfJob s k.job.toNat = some slot ∧ getCtx s slot = some x ∧ liveCtx s slot x = true

/-- `n` bytes at virtual address `va` lie on one plain page of the package, from physical address `pa`, by the walk that a link agent makes for each access (log 89), which what is written
there does not change. -/
def Walked (s : State) (slot va n : Nat) (write : Bool) (pa : Nat) : Prop :=
  ∃ lf : Leaf, (∀ m i, i < n → (∀ a, (write = true ∧ pa ≤ a ∧ a < pa + n) ∨ Memory.read m a = Memory.read s.mem a) →
      lookup { s with unit := some noColumn, mem := m } slot (va + i) = .ok lf) ∧
    lf.tol = 0 ∧ lf.kh = 0 ∧ (write = true → lf.w = true) ∧ paPkg lf.base = s.pkgNo.toNat ∧
    va + n ≤ 2 ^ 57 ∧ va % 2 ^ lf.lg + n ≤ 2 ^ lf.lg ∧ pa = lf.base + va % 2 ^ lf.lg ∧ sectorsOk s pa n = true

/-- What a request reads or writes: `n` bytes of memory so, or rows of core `k` from row `a`. -/
def RequestSide (s : State) (slot k : Nat) (mem : Bool) (a n : Nat) (write : Bool) (p : Nat) : Prop :=
  if mem then Walked s slot a n write p else p = 512 * a ∧ (write = false → (getCore s k).badRows = [])

/-- The answer to `k` with a code and data is on its way from `t`. -/
def answered (k : Packet) (code : Nat) (data : List Byte) (t : State) : Host.Outcome State Fault Refusal :=
  .next (sendPacket (answerTo k 8 code data) t)

/-- R355 to R357, R369: a request finds no resident context of its JOB: it is answered RETRY, in a form that names its OP (log 18); in another package than its own it has no effect. A write packet that
stands for several writes has the effect of each, one after another. -/
def RequestsWithoutContext : Prop :=
  ∀ (s : State) (k : Packet) (i : Instr), i ∈ [Instr.readPacket k, .writePacket k, .atomicPacket k, .signalPacket k, .collectiveTransferPacket k, .stopPacket k, .abortPacket k] →
    ((i = .writePacket k → k.flg.getLsbD 1 = false) →
      (packetDst k ≠ (s.domNo.toNat, s.pkgNo.toNat) → exec i s = .next s) ∧
      (packetDst k = (s.domNo.toNat, s.pkgNo.toNat) → slotOfJob s k.job.toNat = none → exec i s = .next (sendPacket (answerTo k 9 k.op.toNat []) s))) ∧
    (replicas k).foldl (fun o p => match o with | .next t => exec (.writePacket p) t | x => x) (.next s) = exec (.writePacket k) s

/-- R356, R358, R360 to R363: requests at their home. A read of plain memory or rows is answered with the bytes; a write changes those bytes alone; an atomic request performs its operation and is answered with the old value; a
signal raises its timeline; a refused access is answered with its code. A load-store request names a physical address and its page's attributes: a plain one passes the bank checks of the destination
context, and reads or writes those bytes. Which field says what is log 18's; that a link agent walks the tables for each access is log 89's. -/
def RequestsAtHome : Prop :=
  ∀ (s : State) (k : Packet) (slot p : Nat) (x : Ctx), AtHome s k slot x →
    let core := bits k.dst.toNat 6 0
    let mem := pktForm k == 1
    let at_ := if mem then k.addr.toNat else bits k.addr.toNat 12 0
    let n := ofBytes (pktData k)
    let w := (pktData k).length
    let single := k.flg.getLsbD 1 = false
    let op := rowBytes (.ofNat 4096 n) 0 1
    let sz := rowBytes (.ofNat 4096 n) 1 1
    let tls := bits k.addr.toNat 1 0
    (pktForm k ≠ 0 →
      (n % 512 = 0 ∨ mem = true → (mem = false → inPart x core = true ∧ at_ + n / 512 ≤ 6096) → RequestSide s slot core mem at_ n false p →
        ∃ t, exec (.readPacket k) s = answered k 0 (toBytes n (ofBytes ((List.range n).map fun i => .ofNat 8 (peerByte s core mem (p + i))))) t ∧ t.mem = s.mem ∧ t.core = s.core) ∧
      (single → w % 512 = 0 ∨ mem = true → (mem = false → inPart x core = true ∧ at_ + w / 512 ≤ 6096) → RequestSide s slot core mem at_ w true p →
        ∃ t, exec (.writePacket k) s = answered k 0 [] t ∧ (∀ i, i < w → some (BitVec.ofNat 8 (peerByte t core mem (p + i))) = (pktData k)[i]?) ∧
          SamePeers s t fun c q => c = (if mem then none else some core) ∧ p ≤ q ∧ q < p + w)) ∧
    (2 ≤ pktForm k → inPart x core = false → exec (.readPacket k) s = answered k 1 (toBytes 8 0) s ∧ (single → exec (.writePacket k) s = answered k 1 (toBytes 8 0) s)) ∧
    (let t0 := attrOf k
     let pa := bits k.addr.toNat 45 0
     pktForm k = 0 → t0.tol = 0 → t0.eng = false → pa % 64 = t0.va % 64 →
      (0 < n → pa % 64 + n ≤ 64 → (∀ e, physOk s slot pa n t0 = .error e → e ≠ codeRetry → e ≠ codeCheck → exec (.readPacket k) s = answered k e (toBytes 8 t0.va) s) ∧
        (physOk s slot pa n t0 = .ok () → sectorsOk s pa n = true → ∃ t, exec (.readPacket k) s = answered k 0 (toBytes n (memNum s pa n)) t ∧ t.mem = s.mem ∧ t.core = s.core)) ∧
      (single → 0 < w → pa % 64 + w ≤ 64 → (∀ e, physOk s slot pa w t0 = .error e → e ≠ codeRetry → e ≠ codeCheck → exec (.writePacket k) s = answered k e (toBytes 8 t0.va) s) ∧
        (physOk s slot pa w t0 = .ok () → (doorFrames s).contains (pa / 65536 * 65536) = false → ∃ t, exec (.writePacket k) s = answered k 0 [] t ∧
          (∀ i, i < w → some (BitVec.ofNat 8 (Memory.read t.mem (pa + i)).toNat) = (pktData k)[i]?) ∧ SameBytes s t (fun b => pa ≤ b ∧ b < pa + w) ∧ t.core = s.core))) ∧
    (mem = true → w = 18 → sz = 4 ∨ sz = 8 → at_ % sz = 0 → Walked s slot at_ sz true p →
      let old := memNum s p sz
      let new := atomNew op sz old (n / 2 ^ 16 % 2 ^ (8 * sz)) (n / 2 ^ 80 % 2 ^ (8 * sz))
      ∃ t, exec (.atomicPacket k) s = answered k 0 (toBytes 8 old) t ∧ t.core = s.core ∧ SameBytes s t (fun b => p ≤ b ∧ b < p + sz) ∧
        memNum t p sz = (match new with | some v => v % 2 ^ (8 * sz) | none => old)) ∧
    (tls = 0 ∨ inPart x core = false → exec (.signalPacket k) s = answered k 1 (toBytes 8 0) s) ∧
    (tls ≠ 0 → inPart x core = true → ∃ t, exec (.signalPacket k) s = answered k 0 [] t ∧ t.mem = s.mem ∧
      (∀ j, getTl (getCore t core) j = if j = 4 + tls then getTl (getCore s core) j + .ofNat 64 (bits k.addr.toNat 10 2) else getTl (getCore s core) j) ∧
      ∀ c, c ≠ core → getCore t c = getCore s c)

/-- R365, R370, R371: a collective write to rows of a core whose group runs; a group that is frozen answers ABORT and changes nothing; STOP freezes the group of a core and is answered once its transfers have ended; that a reduction which waits for parts of others
cannot end, and counts no more, is log 72's choice; ABORT ends the group's collectives on a member and its thread gets one trap. The forms of the payload are log 18's. -/
def GroupRequests : Prop :=
  ∀ (s : State) (k : Packet) (slot : Nat) (x : Ctx), AtHome s k slot x → inPart x (bits k.dst.toNat 6 0) = true →
    let core := bits k.dst.toNat 6 0
    let g := k.group.toNat
    let v := getGroup (getCore s core) g
    let data := k.payload.drop 8
    let r := bits k.addr.toNat 12 0
    (v.frozen = true → exec (.collectiveTransferPacket k) s = answered k 0x0B (toBytes 8 0) s) ∧
    (v.frozen = false → pktForm k = 2 → pktKind k = 0 → data.length % 512 = 0 → r + data.length / 512 ≤ 6096 →
      ∃ t, exec (.collectiveTransferPacket k) s = answered k 0 [] t ∧ (∀ i, i < data.length → some (BitVec.ofNat 8 (coreByte t core (512 * r + i))) = data[i]?) ∧
        SamePeers s t fun c q => c = some core ∧ 512 * r ≤ q ∧ q < 512 * r + data.length) ∧
    (v.frozen = false → 3 ≤ pktKind k → ∃ t p, exec (.collectiveTransferPacket k) s = .next t ∧ t.mem = s.mem ∧ (getCore t core).chain = (getCore s core).chain ++ [p] ∧
      p.group = g ∧ p.step = k.step.toNat ∧ p.data = data ∧ p.result = decide (pktKind k = 4)) ∧
    (let quiet := ((getCore s core).walkers.map (dropMarks g)).all fun w => rowBytes w.record 0 2 != g || w.waiting.isEmpty
     ∃ t, exec (.stopPacket k) s = .next t ∧ t.mem = s.mem ∧ (s.aborts = [] → s.stopsDue = [] →
      (∀ j, (getGroup (getCore t core) j).frozen = (decide (j = g) || (getGroup (getCore s core) j).frozen)) ∧
      (quiet = false → t.stopsDue = [{ core := core, pkt := k }]) ∧
      ((peerOf k.src.toNat).any (fun p => !peerHere s p) = true → quiet = true → ∃ u, t = sendPacket (answerTo k 8 0 (toBytes 6 v.step)) u ∧ u.stopsDue = []))) ∧
    (v.aborted ≠ none → exec (.abortPacket k) s = .next (putCtxCore slot core (getCore s core) s)) ∧
    (v.aborted = none → ∃ t, exec (.abortPacket k) s = .next t ∧ t.mem = s.mem ∧ (getGroup (getCore t core) g).frozen = true ∧
      (getGroup (getCore t core) g).aborted = some k.step.toNat ∧ (∀ w ∈ (getCore t core).walkers, rowBytes w.record 0 2 ≠ g) ∧
      (getCore t core).abortPend = (getCore s core).abortPend ++ (if v.trapped then [] else [.ofNat 64 (g * 2 ^ 48 + k.step.toNat % 2 ^ 48)]))

/-- R352, R357, R361 to R363, R397: an answer ends the command that waits for it: while requests of it are unsent one of them takes the place of the answered one (eight are in flight, R361), the last answer completes it, a code stops it, and of a machine check the place that the answer names is logged; a RETRY puts the request into the
queue that RETRY_RESEND sends again. A request whose route no longer carries traffic ends its command with MACHINE_CHECK, with its virtual address where it has one. The forms of an answer are log 18's. -/
def AnswersEndCommands : Prop :=
  ∀ (s : State) (r q : Packet) (w : CmWait) (row slot : Nat) (x : Ctx) (res : Result),
    engSlot s = some slot → getCtx s slot = some x → liveCtx s slot x = true → packetDst r = (s.domNo.toNat, s.pkgNo.toNat) → bits r.dst.toNat 6 0 = s.coreNo → s.aborts = [] → s.stopsDue = [] →
    s.core.cmwait = [w] → s.core.walkers = [] → w.waiting = [(row, q)] → answers r q = true → (getRing s.core 3).results = [res] → w.seq = (getRing s.core 3).rseq →
    (∀ y rest, w.todo = y :: rest → ofBytes (r.payload.take 1) = 0 → q.op ≠ 1 → ∃ t, exec (.responsePacket r) s = .next t ∧ t.mem = s.mem ∧
      t.core = { s.core with cmwait := [{ w with waiting := [y], todo := rest }] } ∧ ∃ u, t = sendPacket y.2 u) ∧
    (w.todo = [] → w.after = [] → ofBytes (r.payload.take 1) = 0 → q.op ≠ 1 → ∃ t, exec (.responsePacket r) s = .next t ∧ t.mem = s.mem ∧ t.core.cmwait = [] ∧
      (getRing t.core 3).results = [{ res with code := 0, detail := w.detail, statx := if q.op = 3 then .ofNat 64 (ofBytes (r.payload.drop 1)) else 0, busy := false, trans := false, coll := none }]) ∧
    (w.todo = [] → w.after = [] → ofBytes (r.payload.take 1) = 0 → q.op = 1 → ∃ t, exec (.responsePacket r) s = .next t ∧ t.mem = s.mem ∧ t.core.cmwait = [] ∧
      (getRow t.core row).toNat = ofBytes (r.payload.drop 1) % 2 ^ 4096 ∧ (∀ k, k ≠ row → getRow t.core k = getRow s.core k) ∧
      (getRing t.core 3).results = [{ res with code := 0, detail := w.detail, statx := 0, busy := false, trans := false, coll := none }]) ∧
    (∀ code, ofBytes (r.payload.take 1) = code → code = 1 ∨ code = 3 ∨ code = 4 ∨ code = 8 ∨ code = 9 ∨ code = 0x0C → ∃ t, exec (.responsePacket r) s = .next t ∧ t.mem = s.mem ∧ t.core.cmwait = [] ∧
      (getRing t.core 3).results = [{ res with code := code, detail := 0, statx := .ofNat 64 (ofBytes ((r.payload.drop 1).take 8)), busy := false, trans := false, rtl := 0, coll := none }] ∧
      t.mclog = (if code = 0x0C then (logStop (ofBytes ((r.payload.drop 9).take 1)) (ofBytes ((r.payload.drop 10).take 4)) s).mclog else s.mclog)) ∧
    (ofBytes (r.payload.take 1) ≠ 6 → ofBytes (r.payload.take 1) ≠ 7 → exec (.retryPacket r) s = .next { s with retryq := s.retryq ++ [q] }) ∧
    ((∀ k ∈ s.retryq, routeUp s k = true) → ∃ t, exec .retryResend s = .next t ∧ t.mem = s.mem ∧ t.core = s.core ∧ t.retryq = [] ∧ (s.retryq = [] → t = s) ∧
      (∀ k, s.retryq = [k] → t = sendPacket k { s with retryq := [] })) ∧
    (s.retryq = [q] → routeUp s q = false → bits q.src.toNat 6 0 = s.coreNo → q.op ≠ 6 → q.flg.getLsbD 1 = false → ∃ t, exec .retryResend s = .next t ∧ t.mem = s.mem ∧ t.retryq = [] ∧ t.core.cmwait = [] ∧
      (getRing t.core 3).results = [{ res with code := 0x0C, detail := 0, statx := if pktForm q = 0 then .ofNat 64 (ofBytes ((q.payload.drop 16).take 8)) else if pktForm q = 1 then q.addr else 0, busy := false, trans := false, rtl := 0, coll := none }])

/-- R350 to R354: a link. A flit on a link that is not up, and an idle or control flit, moves no data; one with a wrong CRC (as log 16 divides it) is asked for again by a control flit with NAK, and after 64 in a row the link
retrains; a data flit out of order is asked for again; one in order advances the expected number. A NAK sends again, in order, what is not acknowledged. A timeout with traffic pending retrains; after it the link is up and sends
again what is not acknowledged (log 74's choice), or down and told. -/
def LinkSteps : Prop :=
  ∀ (s : State) (port : BitVec 3) (f : BitVec 2048),
    let p := port.toNat
    let l := getLink s p
    let kind := bits f.toNat 63 60
    let whole := kind ≤ 2 ∧ f.toNat / 2 ^ 1984 = crc64 ((toBytes 256 f.toNat).take 248)
    let after := fun (g : Link → Prop) => ∃ t, exec (.flitReceive port f) s = .next t ∧ t.mem = s.mem ∧ t.core = s.core ∧ g (getLink t p)
    let naks := fun (m : Link) => ∃ x rest, m.wire = l.wire ++ x :: rest ∧ bits x.toNat 63 60 = 2 ∧ bits x.toNat 35 35 = 1 ∧ bits x.toNat 47 36 = (l.rxSeq + 4095) % 4096
    (l.st ≠ .up → after fun m => m = l) ∧
    (l.st = .up → l.outq = [] → ¬whole → after fun m => m.rxSeq = l.rxSeq ∧ m.inbuf = l.inbuf ∧
      (l.fails < 63 → m.st = .up ∧ m.fails = l.fails + 1 ∧ naks m) ∧ (63 ≤ l.fails → m.st = .retraining ∧ m.fails = 0)) ∧
    (l.st = .up → l.outq = [] → whole → kind = 1 → bits f.toNat 59 48 ≠ l.rxSeq → after fun m => naks m ∧ m.rxSeq = l.rxSeq ∧ m.inbuf = l.inbuf) ∧
    (l.st = .up → l.outq = [] → l.owed = [] → l.nak = false → whole → kind ≠ 1 → after fun m => m.rxSeq = l.rxSeq ∧ m.inbuf = l.inbuf ∧
      m.wire = l.wire ++ if bits f.toNat 35 35 = 1 then m.unacked else []) ∧
    (l.st = .up → whole → kind = 1 → bits f.toNat 59 48 = l.rxSeq → (takeFlit f l).2 = none → ∃ t, exec (.flitReceive port f) s = .next t ∧ t.mem = s.mem ∧ t.core = s.core ∧
      (getLink t p).rxSeq = (l.rxSeq + 1) % 4096 ∧ (getLink t p).fails = 0) ∧
    (l.st = .up → l.outq ≠ [] ∨ l.unacked ≠ [] → ∃ t, exec (.linkIdleTimeout port) s = .next t ∧ getLink t p = { l with st := .retraining } ∧ t.mem = s.mem ∧ t.core = s.core) ∧
    (l.st ≠ .up ∨ (l.outq = [] ∧ l.unacked = []) → exec (.linkIdleTimeout port) s = .next s) ∧
    (l.st ≠ .retraining → ∀ ok, exec (.linkRetrainDone port ok) s = .next s) ∧
    (l.st = .retraining → ∃ t, exec (.linkRetrainDone port true) s = .next t ∧ (getLink t p).st = .up ∧ (getLink t p).fails = 0 ∧ (∃ rest, (getLink t p).wire = l.wire ++ l.unacked ++ rest) ∧ t.mem = s.mem ∧ t.core = s.core) ∧
    (l.st = .retraining → ∃ t, exec (.linkRetrainDone port false) s = .next t ∧ (getLink t p).st = .down ∧ HostMsg.linkDown p ∈ t.hostLog ∧ t.mem = s.mem)

/-- R374, R375: a datagram of a job whose transport record has ENC, with a tag that AES-256-GCM under the job's key does not give, is discarded and told; its form is log 48's. Another one that is out of order is not delivered;
one in order advances the flow, and its acknowledgement frees what it covers. What has waited 50 µs for its acknowledgement is sent again, up to 64 times; then its request is lost. -/
def FlowSteps : Prop :=
  ∀ (s : State) (flow : Nat) (seq ack : BitVec 32) (tag : BitVec 128) (k : Packet),
    let v := getFlow s flow
    let run := exec (.datagramReceive flow seq ack tag k) s
    let body := k.payload.map (·.toNat)
    (∀ key, sealKey s k.job.toNat = some key → gcmTag (aesKey (splitEls 8 32 key)) (nonceOf flow false seq.toNat) body ≠ tag → run = .next (tellHost s (.authFailed flow))) ∧
    (∀ key, sealKey s k.job.toNat = some key → gcmTag (aesKey (splitEls 8 32 key)) (nonceOf flow false seq.toNat) body = tag →
      openDatagram s flow seq.toNat tag k = some { k with payload := (gcmCrypt key (nonceOf flow false seq.toNat) body).map (.ofNat 8) }) ∧
    (sealKey s k.job.toNat = none → openDatagram s flow seq.toNat tag k = some k) ∧
    (∀ m, openDatagram s flow seq.toNat tag k = some m →
      (seq.toNat ≠ v.rxSeq → ∃ t, run = .next t ∧ getFlow t flow = ackFlow ack.toNat v ∧ (getFlow t flow).rxSeq = v.rxSeq ∧ t.core = s.core ∧ t.mem = s.mem) ∧
      (seq.toNat = v.rxSeq → packetDst m = (s.domNo.toNat, s.pkgNo.toNat) → 9 < m.op.toNat → ∃ t, run = .next t ∧
        (getFlow t flow).rxSeq = (v.rxSeq + 1) % 2 ^ 32 ∧ (getFlow t flow).unacked = (ackFlow ack.toNat v).unacked ∧ t.core = s.core ∧ t.mem = s.mem) ∧
      (seq.toNat = v.rxSeq → packetDst m = (s.domNo.toNat, s.pkgNo.toNat) → m.op = 9 → answerCode m ≠ 6 → answerCode m ≠ 7 → ∃ t, run = .next t ∧
        (getFlow t flow).rxSeq = (v.rxSeq + 1) % 2 ^ 32 ∧ t.retryq = s.retryq ++ ((corePending (getCore s (bits m.dst.toNat 6 0))).filter (answers m)).take 1)) ∧
    (let due := fun (d : Datagram) => d.sent + 50000 ≤ devNs s
     ((∀ d ∈ v.unacked, due d → d.resends < 63) → ∃ t, exec (.datagramResend flow) s = .next t ∧ t.core = s.core ∧ t.mem = s.mem ∧
       getFlow t flow = { v with unacked := v.unacked.map fun d => if d.sent + 50000 ≤ devNs s then { d with sent := devNs s, resends := d.resends + 1 } else d }) ∧
     (∀ d, v.unacked = [d] → due d → 63 ≤ d.resends → d.pkt.flg.getLsbD 1 = false → exec (.datagramResend flow) s = .next (loseOne d.pkt (setFlow s flow { v with unacked := [] }))))

end Sys2Proof.Claims

namespace Sys2Proof.Claims
open Sys2Proof.Machine

/-- The step changes device state alone: no core, no byte of memory, no context. -/
def DeviceOnly (s t : State) : Prop := t.core = s.core ∧ t.others = s.others ∧ t.mem = s.mem ∧ t.ctxs = s.ctxs

/-- The link of the endpoint of the package's owner host carries transactions (R400; log 69). -/
def ownerHears (s : State) : Prop := ∃ x, s.board = some x ∧ linkOpen s x.owner.toNat = true

/-- The records of all banks but those of `f` are the same. -/
def SameBanks (s t : State) (f : BitVec 15 → Prop) : Prop := ∀ b, ¬f b → ownRec t b = ownRec s b ∧ bankTime t (ownBank t b) = bankTime s (ownBank s b)

/-- R262, R263, R266, R267, R289: BANK_ALLOCATE takes the lowest free banks of a stack (log 55), or none when it has too few, the set is above 15 or the context is not resident. OWNER and SET of a bank that holds zeros are set at
once; one that is being scrubbed, or leaves DEEP to be scrubbed, is granted when its scrub ends, and shows SCRUB and IDLE while that runs; host software is told once every bank holds zeros. BANK_FREE waits for what is still to come through translations into the bank, a store that waits for its destination context (log 90) too; then it performs the buffered stores through pages that
touch it, frees it, drops the translations and scrubs it, in the STATE that it has (log 63). The end of a scrub leaves every byte of the bank zero and no other byte changed. -/
def BanksGrantedAndFreed : Prop :=
  ∀ (s : State) (stack : BitVec 3) (ctx : BitVec 4) (set count : Nat) (b : BitVec 15),
    let free := freeBanks s stack.toNat count
    let waits := free.filter fun k => recState (ownRec s (.ofNat 15 k)) == 3 || (bankTime s (ownBank s (.ofNat 15 k))).scrub.isSome
    let r := ownRec s b
    let u := bankTime s (ownBank s b)
    (free.length < count ∨ 15 < set ∨ 8 ≤ ctx.toNat ∨ getCtx s ctx.toNat = none → exec (.bankAllocate stack ctx set count) s = .next (tellHost s .bankRefused)) ∧
    (count ≤ free.length → set ≤ 15 → ctx.toNat < 8 → getCtx s ctx.toNat ≠ none → ∃ t, exec (.bankAllocate stack ctx set count) s = .next t ∧ DeviceOnly s t ∧
      (∀ k ∈ free, let q := ownRec s (.ofNat 15 k)
        let q2 := ownRec t (.ofNat 15 k)
        let until_ := fun (x : State) => (bankTime x (ownBank s (.ofNat 15 k))).scrub
        recOwner q = 15 ∧ (k ∉ waits → recOwner q2 = ctx.toNat ∧ bfield q2 22 4 = set ∧ bfield q2 18 2 = bfield q 18 2 ∧ recState q2 = recState q ∧ bfield q2 30 1 = bfield q 30 1) ∧
          (k ∈ waits → q2 = q ∧ until_ t = some ((until_ s).getD (devNs s + 720000)))) ∧
      (s.bankReqs = [] → waits = [] → t.bankReqs = [] ∧ t.hostLog = s.hostLog ++ [.bankGranted ctx.toNat set free]) ∧
      (s.bankReqs = [] → waits ≠ [] → t.bankReqs = [{ ctx := ctx.toNat, set := set, banks := free, left := waits }] ∧ t.hostLog = s.hostLog) ∧
      SameBanks s t fun k => k.toNat ∈ free) ∧
    (recOwner r = 15 ∨ bankHeld s (ownBank s b) = true → exec (.bankFree b) s = .next s) ∧
    (recOwner r ≠ 15 → bankHeld s (ownBank s b) = false → ∃ t, exec (.bankFree b) s = .next t ∧ recOwner (ownRec t b) = 15 ∧ bfield (ownRec t b) 22 4 = 0 ∧
      bfield (ownRec t b) 30 1 = 1 ∧ (bankTime t (ownBank s b)).scrub = some (devNs s + 700000) ∧
      (∀ e ∈ t.tlb, ownBank s b ∉ leafBanks e.leaf) ∧ (∀ e ∈ s.tlb, ownBank s b ∉ leafBanks e.leaf → e ∈ t.tlb) ∧
      (∀ k, k < 128 → (∃ e ∈ (getCore s k).sb, storeOfBank (ownBank s b) e = true) → (getCore t k).sb = []) ∧
      ((∀ k, k < 128 → ∀ e ∈ (getCore s k).sb, storeOfBank (ownBank s b) e = false) → DeviceOnly s t ∧ (recState r ≠ 3 → recState (ownRec t b) = recState r) ∧ SameBanks s t fun k => k = b)) ∧
    (∀ due, u.scrub = some due → bfield r 30 1 = (if due ≤ devNs s + 700000 then 1 else 0) ∧ (due ≤ devNs s + 700000 → recState r ≠ 3)) ∧ (u.scrub = none → bfield r 30 1 = 0) ∧
    (∀ due, u.scrub = some due → due ≤ devNs s → ∃ t, exec (.scrubComplete b) s = .next t ∧ t.core = s.core ∧ t.ctxs = s.ctxs ∧ bfield (ownRec t b) 30 1 = 0 ∧
      recState (ownRec t b) = recState r ∧
      (match s.bankReqs.find? fun q => q.left.contains b.toNat with
        | some q => recOwner (ownRec t b) = q.ctx % 16 ∧ bfield (ownRec t b) 22 4 = q.set % 16
        | none => recOwner (ownRec t b) = recOwner r ∧ bfield (ownRec t b) 22 4 = bfield r 22 4) ∧ (∀ a, Memory.read t.mem a = if paBank a = ownBank s b then 0 else Memory.read s.mem a) ∧
      (∀ q, s.bankReqs = [q] → q.left = [b.toNat] → t.bankReqs = [] ∧ t.hostLog = s.hostLog ++ [.bankGranted q.ctx q.set q.banks]) ∧ SameBanks s t fun k => k = b) ∧
    ((∀ due, u.scrub = some due → devNs s < due) → exec (.scrubComplete b) s = .next s)

/-- R264, R265, R271, R275, R279: the power states of a bank. Each move happens when its rule lets it, changes STATE alone as the rule says, and otherwise nothing happens; a bank that enters RETAIN where FULL
is due within 1.2 µs wakes at once (log 64); DEEP loses the bank's bytes. REFRESH never changes data. The times are the device's own (log 67). -/
def BankPowerStates : Prop :=
  ∀ (s : State) (b : BitVec 15) (degrees : Int),
    let r := ownRec s b
    let u := bankTime s (ownBank s b)
    let st := recState r
    let slot := recOwner r
    let set := bfield r 22 4
    let lv := levelOf s slot set
    let now := devNs s
    let turns := fun (o : Host.Outcome State Fault Refusal) (n : Nat) => ∃ t, o = .next t ∧ DeviceOnly s t ∧ recState (ownRec t b) = n ∧
      recOwner (ownRec t b) = slot ∧ bfield (ownRec t b) 22 4 = set ∧ bfield (ownRec t b) 30 1 = bfield r 30 1 ∧ SameBanks s t fun k => k = b
    (st = 0 ∧ u.access + 1000 ≤ now → turns (exec (.bankIdleTimeout b) s) 1) ∧
    (¬(st = 0 ∧ u.access + 1000 ≤ now) → exec (.bankIdleTimeout b) s = .next s) ∧
    (let may := st = 1 ∧ slot < 8 ∧ (lv = 0 ∨ (lv = 1 ∧ u.access + 50000 ≤ now))
     let soon := ∃ c p, getCtx s slot = some c ∧ c.running = true ∧ Sparse.find c.phasePend set = some p ∧ p.level = 2 ∧ p.due ≤ gtimeOf s + 1200
     (may → turns (exec (.retainEntry b) s) 2 ∧ ∃ t, exec (.retainEntry b) s = .next t ∧ (bankTime t (ownBank s b)).retained = now ∧
       (bankTime t (ownBank s b)).entering = some (now + 100) ∧ (soon → (bankTime t (ownBank s b)).waking = some (now + 1300)) ∧ (¬soon → (bankTime t (ownBank s b)).waking = none)) ∧ (¬may → exec (.retainEntry b) s = .next s)) ∧
    (∀ due, u.entering = some due → due ≤ now → turns (exec (.retainEntryComplete b) s) st ∧
      ∃ t, exec (.retainEntryComplete b) s = .next t ∧ (bankTime t (ownBank s b)).entering = none) ∧
    ((∀ due, u.entering = some due → now < due) → exec (.retainEntryComplete b) s = .next s) ∧
    (let may := st = 1 ∧ slot = 15 ∧ u.scrub = none ∧ u.freed + 1000000 ≤ now
     (may → ∃ t, exec (.deepEntry b) s = .next t ∧ recState (ownRec t b) = 3 ∧ recOwner (ownRec t b) = 15 ∧ t.core = s.core ∧
       (∀ a, paBank a ≠ ownBank s b → Memory.read t.mem a = Memory.read s.mem a) ∧ SameBanks s t fun k => k = b) ∧
     (¬may → exec (.deepEntry b) s = .next s)) ∧
    (let l := ((getCtx s slot).elim [] fun c => letWake s c set).filter fun x => decide (u.retained ≤ x) && decide (x ≤ now)
     (∀ d, d ∈ l → (∀ x ∈ l, d ≤ x) → st = 2 → u.waking = none → bfield r 31 1 = 0 → turns (exec (.bankWake b) s) 2 ∧
       ∃ t, exec (.bankWake b) s = .next t ∧ (bankTime t (ownBank s b)).waking = some (max d (u.retained + 100) + 1200)) ∧
     (l = [] ∨ st ≠ 2 ∨ u.waking ≠ none ∨ bfield r 31 1 ≠ 0 → exec (.bankWake b) s = .next s)) ∧
    (∀ due, u.waking = some due → due ≤ now → turns (exec (.bankWakeComplete b) s) 0) ∧
    ((∀ due, u.waking = some due → now < due) → exec (.bankWakeComplete b) s = .next s) ∧
    exec (.refresh b) s = .next s ∧
    (turns (exec (.temperatureSample b degrees) s) st ∧ ∃ t, exec (.temperatureSample b degrees) s = .next t ∧
      let old := bfield r 18 2
      let new := bfield (ownRec t b) 18 2
      let up := if 105 < degrees then 3 else if 95 ≤ degrees then 2 else if 85 ≤ degrees then 1 else 0
      (old ≤ up → new = up) ∧ (up < old → up ≤ new ∧ new ≤ old) ∧ (old = 1 → 83 < degrees → up ≤ 1 → new = 1) ∧ (old = 1 → degrees ≤ 83 → new = 0))

/-- R270, R276 to R279: a declared level comes into force when it is due; LOSS and HOT of a column count its stack's awake banks; repairs of a stack are committed whole, and a clash leaves the stack unrepaired (also where it was
repaired, log 65) and is told. -/
def LevelsLossAndRepairs : Prop :=
  ∀ (s : State) (slot col stack : BitVec 3) (set : BitVec 4) (c : Ctx),
    (∀ p, getCtx s slot.toNat = some c → Sparse.find c.phasePend set.toNat = some p → p.due ≤ gtimeOf s → c.running = true → p.level < 4 →
      ∃ t c2, exec (.phaseLevelDue slot set) s = .next t ∧ t.core = s.core ∧ t.mem = s.mem ∧ getCtx t slot.toNat = some c2 ∧ c2 = { c with phase := c2.phase, phasePend := c2.phasePend, wakeFrom := c2.wakeFrom } ∧
        c2.phase / 4 ^ set.toNat % 4 = p.level ∧ (∀ k, k ≠ set.toNat → c2.phase / 4 ^ k % 4 = c.phase / 4 ^ k % 4) ∧
        ∀ k, (Sparse.find c2.phasePend k = if k = set.toNat then none else Sparse.find c.phasePend k) ∧
          Sparse.get [] c2.wakeFrom k = if k = set.toNat then letWake s c k else Sparse.get [] c.wakeFrom k) ∧
    (let listed := s.banks.map (·.1) ++ (s.bankT.filter fun e => (e.2.scrub.elim false fun due => decide (due ≤ devNs s + 700000)) && !(s.banks.any fun x => x.1 == e.1)).map (·.1)
     let mine := listed.filter fun k => decide (s.pkgNo.toNat * 65536 + 4096 * col.toNat ≤ k) && decide (k < s.pkgNo.toNat * 65536 + 4096 * col.toNat + 4096)
     let awake := ((mine.map (bankRec s)).filter fun r => decide (recState r ≤ 1)).map fun r => bfield r 18 2
     let loss := if awake = [] then 0 else 65536 * (awake.map fun k => if k = 0 then 1 else if k = 1 then 2 else if k = 2 then 4 else 12).sum / (20 * awake.length)
     ∃ t, exec (.reflossUpdate col) s = .next t ∧ DeviceOnly s t ∧ (getCol t col.toNat).refloss = loss + 65536 * awake.countP (fun k => decide (1 ≤ k)) ∧
       (32768 < loss → ownerHears s → t.hostLog = s.hostLog ++ [.thermalAlarm col.toNat]) ∧ (loss ≤ 32768 ∨ ¬ownerHears s → t.hostLog = s.hostLog)) ∧
    (∃ t, exec (.repairCommit stack) s = .next t ∧ DeviceOnly s t ∧ getStack t stack.toNat = { getStack s stack.toNat with committing := true } ∧
      ∀ n, n ≠ stack.toNat → getStack t n = getStack s n) ∧
    (let v := getStack s stack.toNat
     let valid := (validRepairs v.entries).map (·.2)
     (v.committing = false → exec (.repairCommitDone stack) s = .next s) ∧
     (v.committing = true → repairClash valid = true → ∃ t, exec (.repairCommitDone stack) s = .next t ∧ DeviceOnly s t ∧ (getStack t stack.toNat).unrepaired = true ∧
       t.hostLog = s.hostLog ++ [.repairFailed stack.toNat]) ∧
     (v.committing = true → repairClash valid = false → ∃ t, exec (.repairCommitDone stack) s = .next t ∧ t.core = s.core ∧ t.ctxs = s.ctxs ∧
       (getStack t stack.toNat).unrepaired = false ∧ (getStack t stack.toNat).committing = false ∧ (∀ a, ¬(paPkg a = s.pkgNo.toNat ∧ a / 2 ^ 36 % 16 = stack.toNat) → Memory.read t.mem a = Memory.read s.mem a) ∧
       ((∀ e, e ∈ valid ↔ e ∈ (validRepairs (boardStack s.board stack.toNat)).map (·.2)) → t.mem = s.mem)))

/-- R219, R220, R409, R410: heat tokens, the power limit, the thermal limits and droop of a column. Refills fall on whole microseconds of the device (log 39), and those that are due come before a change of APPLIED; what is written into TOKCTL takes effect with the next of them (limitOn and refillOn are what is in effect), REFILL but where the power has exceeded LIMIT and APPLIED has not risen to it since, or at 120 °C; an eighth is rounded
up (log 44); POWER is the mean of the last ten readings of 100 µs. -/
def PowerAndHeat : Prop :=
  ∀ (s : State) (col : BitVec 3) (watts : Nat) (tj : Int) (v : Word),
    let c := getCol s col.toNat
    let becomes := fun (o : Host.Outcome State Fault Refusal) (d : Column) => ∃ t, o = .next t ∧ DeviceOnly s t ∧ getCol t col.toNat = d ∧
      (∀ k, k ≠ col.toNat → getCol t k = getCol s k) ∧ t.hostLog = s.hostLog
    let d := devNs s / 1000 - c.refilled
    let force := if c.throttled then c.applied else if c.limited then min c.applied c.refill else c.refill
    let c1 := if d = 0 then c else { c with limitOn := c.limit, refillOn := c.refill, applied := force, pool := min c.cap (c.pool + d * force), refilled := devNs s / 1000 }
    ((s.board.any fun b => linkOpen s b.owner.toNat) = true → becomes (exec (.mgmtRegisterWrite (.ofNat 32 (0x10040 + 4096 * col.toNat)) v) s)
      { c1 with cap := max 32 (bits v.toNat 51 32), limit := min 270 (bits v.toNat 28 20), refill := bits v.toNat 19 0 }) ∧
    (c.refilled < devNs s / 1000 → becomes (exec (.tokenRefill col) s) { c with limitOn := c.limit, refillOn := c.refill, applied := force, pool := min c.cap (c.pool + force), refilled := c.refilled + 1 }) ∧
    (devNs s / 1000 ≤ c.refilled → exec (.tokenRefill col) s = .next s) ∧
    (∀ r rest, c.tokq = r :: rest →
      (c.pool < r.tokens → exec (.tokenGrant col) s = .next s) ∧
      (r.tokens ≤ c.pool → ∃ t, exec (.tokenGrant col) s = .next t ∧ t.mem = s.mem ∧ getCol t col.toNat = { c with pool := c.pool - r.tokens, tokq := rest } ∧
        (if r.sk then (getCore t r.core).grantSK = true ∧ (getCore t r.core).grantMX = (getCore s r.core).grantMX
         else (getCore t r.core).grantMX = true ∧ (getCore t r.core).grantSK = (getCore s r.core).grantSK) ∧ ∀ k, k ≠ r.core → getCore t k = getCore s k)) ∧
    (c.tokq = [] → exec (.tokenGrant col) s = .next s) ∧
    (let l := (watts :: c.samples).take 10
     let m := { c1 with samples := l, power := l.sum / l.length % 4096 }
     let e := max 1 ((c1.applied + 7) / 8)
     let up := min c1.refillOn (c1.applied + e)
     (c.throttled = true → becomes (exec (.powerLimitAdjust col watts) s) m) ∧
     (c.throttled = false → c1.limitOn < watts ∨ (c.lowering = true ∧ c1.limitOn ≤ watts) → becomes (exec (.powerLimitAdjust col watts) s) { m with lowering := true, limited := true, applied := c1.applied - e }) ∧
     (c.throttled = false → watts < c1.limitOn ∨ (c.lowering = false ∧ watts ≤ c1.limitOn) → becomes (exec (.powerLimitAdjust col watts) s)
       (if c.limited then { m with lowering := false, applied := up, limited := decide (up < c1.refillOn) } else { m with lowering := false }))) ∧
    (tj < 110 → exec (.thermalAlarm col tj) s = .next s) ∧
    (110 ≤ tj → ∃ t, exec (.thermalAlarm col tj) s = .next t ∧ DeviceOnly s t ∧ (ownerHears s → t.hostLog = s.hostLog ++ [.thermalAlarm col.toNat]) ∧ (¬ownerHears s → t.hostLog = s.hostLog) ∧
      getCol t col.toNat = (if 120 ≤ tj then { c1 with tj := tj, applied := 0, throttled := true } else { c1 with tj := tj })) ∧
    (110 ≤ tj → exec (.tjFallsBelow110 col tj) s = .next s) ∧
    (tj < 110 → becomes (exec (.tjFallsBelow110 col tj) s) (if c.throttled then { c1 with tj := tj, throttled := false, lowering := false, limited := false, applied := c1.refillOn } else { c1 with tj := tj })) ∧
    (c.stretched = true → exec (.droopStretch col) s = .next s) ∧
    (c.stretched = false → becomes (exec (.droopStretch col) s) { c with stretched := true, droop := (c.droop + 1) % 2 ^ 24 }) ∧
    becomes (exec (.droopRecover col) s) { c with stretched := false }

end Sys2Proof.Claims

namespace Sys2Proof.Claims
open Sys2Proof.Machine

/-- R90, R289, R390, R391, R397, R398, R400, R401: registers that host software reads and writes. MCLOG_READ pops the head, and LOST with it (log 45); TLBINV starts with GO, a command that still runs goes on beside the new one, and their end leaves no entry that they name, and of the context's
buffered stores through pages that overlap a range none, one that waits for its destination context holding GO (log 90); a launch request for a slot with no context waits in launchq (log 78's choice); GSWCTL keeps FIRED unless ARM is written; LANEMAP with SWAP starts a copy of 64 cycles; RESUME clears the mark of a core's saved state; a core that is retired ends the contexts that run or are saved
there; PARTCFG is written only while no context runs. A write at an offset that R401 does not list is an unsupported request; one takes effect only over a link of the owner host that carries transactions. The offsets that one line of
R401 lists are log 21's. -/
def HostRegisterWrites : Prop :=
  ∀ (s : State) (v : Word) (core : BitVec 7) (lmap : BitVec 16) (slot : BitVec 3) (link : BitVec 2) (ieee : Bool),
    let off := fun (o : Nat) => exec (.mgmtRegisterWrite (.ofNat 32 o) v) s
    let k := core.toNat
    let swap := lmap.getLsbD 15
    let live := s.board.any fun b => linkOpen s b.owner.toNat
    exec .mclogRead s = .next { s with mclog := s.mclog.drop 1, mcLost := false } ∧
    (live = false → ∀ o, off o = .next s) ∧
    (∀ b o, s.board = some b → live = true → o < 2 ^ 32 → mgmtAt o = none → off o = .next (tellHost s (.unsupported b.owner.toNat o))) ∧
    (∀ ep o r, linkOpen s ep = true → mgmtAt o = some r → (hostRead ep o s).hostLog = s.hostLog ++ [.registerData ep o (.ofNat 64 (readMgmt s r))] ∧ (hostRead ep o s).core = s.core) ∧
    (let go := s.tlbinv.getLsbD 63
     ∃ t, exec (.tlbinv v) s = .next t ∧ (live = true → off 0x1018 = .next t) ∧ t = { s with tlbinv := t.tlbinv, tlbinvq := if go then s.tlbinvq ++ [s.tlbinv] else s.tlbinvq } ∧
       ∀ i, i < 64 → t.tlbinv.getLsbD i = ((v.getLsbD i && i != 57) || (decide (i = 63) && go))) ∧
    (let cmds := s.tlbinvq ++ [s.tlbinv]
     let mine := fun (k : Nat) => ∃ x ∈ cmds, engSlotOf s k = some (bits x.toNat 61 59) ∧ ∃ e ∈ (getCore s k).sb, rangeNamed x.toNat (e.va / 2 ^ e.lg) e.lg = true
     (s.tlbinv.getLsbD 63 = false ∨ (∃ x ∈ cmds, invHeld x.toNat s = true) → exec .tlbinvDone s = .next s) ∧
     (s.tlbinv.getLsbD 63 = true → (∀ x ∈ cmds, invHeld x.toNat s = false) → ∃ t, exec .tlbinvDone s = .next t ∧ t.tlbinv.getLsbD 63 = false ∧ t.tlbinvq = [] ∧
      ((∀ k, k < 128 → ¬mine k) → t = { s with tlb := t.tlb, tlbinv := t.tlbinv, tlbinvq := [] }) ∧ (∀ k, k < 128 → mine k → (getCore t k).sb = []) ∧
      (∀ e ∈ t.tlb, e ∈ s.tlb) ∧
      ∀ e ∈ s.tlb, e ∉ t.tlb ↔ ∃ x ∈ cmds, let n := x.toNat
        let lo := bits n 56 16 * 65536
        e.slot = bits n 61 59 ∧ (bits n 62 62 = 1 ∨ (e.page * 2 ^ e.leaf.lg < lo + (bits n 15 0 + 1) * 65536 ∧ lo < (e.page + 1) * 2 ^ e.leaf.lg)))) ∧
    (∃ t, exec (.gswctlWrite v) s = .next t ∧ (live = true → off 0x1010 = .next t) ∧ t = { s with gswctl := t.gswctl } ∧
      ∀ i, i < 64 → t.gswctl.getLsbD i = if i = 62 then s.gswctl.getLsbD 62 && !v.getLsbD 63 else v.getLsbD i && (decide (i < 4) || (decide (8 ≤ i) && decide (i < 16)) || i == 63)) ∧
    (live = true → off 0x1008 = .next { s with gsw := v } ∧
      off 0x1000 = .next (if s.parts.any (fun e => e.2.slot.isSome) then s else { s with partcfg := v.toNat % 4 }) ∧
      off 0x1028 = .next (if v.getLsbD 0 && !s.wrst.getLsbD 0 then { s with wrst := 1 } else s)) ∧
    (∃ t, exec (.corectlLmap core lmap) s = .next t ∧ t.mem = s.mem ∧ (∀ j, j ≠ k → getCore t j = getCore s j) ∧
      (let m := getCore t k
       m = { getCore s k with lanemap := m.lanemap, swapLeft := if swap then 64 else 0, vregs := m.vregs, pregs := m.pregs, spareV := m.spareV, spareP := m.spareP, parityBad := m.parityBad }) ∧
      (laneEn (getCore s k).lanemap = false → swap = true ∨ lmap.getLsbD 8 = false → (getCore t k).vregs = (getCore s k).vregs ∧ (getCore t k).pregs = (getCore s k).pregs) ∧
      ∀ i, i < 64 → (getCore t k).lanemap.getLsbD i = (decide (i < 16) && lmap.getLsbD i && (decide (i < 5) || i == 8 || i == 15))) ∧
    (∃ t, exec (.corectlResume core) s = .next t ∧ t = { s with ctxs := t.ctxs } ∧ ∀ n, (getCtx s n = none → getCtx t n = none) ∧
      ∀ c, getCtx s n = some c → ∃ d, getCtx t n = some d ∧ d = { c with saved := d.saved } ∧
        ∀ i, Sparse.get Core.blank d.saved i = if inPart c k = true ∧ liveCtx s n c = false ∧ i = ctxPos c k
          then { Sparse.get Core.blank c.saved i with checkstop := false } else Sparse.get Core.blank c.saved i) ∧
    (let there := s.ctxs.filter fun e => match e.2 with | some c => inPart c k && c.launched | none => false
     ∃ t, exec (.corectlRetire core) s = .next t ∧ (there = [] → t = setCore s k { getCore s k with retired := true }) ∧
      ∀ x c, there = [(x, some c)] → getCtx s x = some c → (getCore t k).retired = true ∧
        (liveCtx s x c = true → (getPart s c.part).phase = .running → t.mem = s.mem ∧ (getPart t c.part).phase = .stopping ∧ (getPart t c.part).kill = true) ∧
        (liveCtx s x c = false → getCtx t x = none)) ∧
    (∃ t, exec (.launchRequest slot v) s = .next t ∧ t = { s with ctxs := t.ctxs, launchq := t.launchq, parts := t.parts } ∧ (∀ q, getPart t q = { getPart s q with seen := (getPart t q).seen }) ∧
      (ready s slot.toNat = true ∨ getCtx s slot.toNat = none → t.parts = s.parts) ∧
      (ready s slot.toNat = false → getCtx s slot.toNat ≠ none → ∀ q, (getPart t q).seen = (getPart s q).seen.filter (· ≠ slot.toNat)) ∧
      (∀ c, getCtx s slot.toNat = some c → getCtx t slot.toNat = some { c with launch := some v } ∧ t.launchq = s.launchq) ∧
      (getCtx s slot.toNat = none → t.ctxs = s.ctxs ∧ Sparse.get none t.launchq slot.toNat = some v) ∧ ∀ n, n ≠ slot.toNat → getCtx t n = getCtx s n) ∧
    exec (.gtimeAlignmentLoss ieee) s = .next (tellHost s (.alignmentLoss ieee)) ∧
    (∃ t, exec (.ideEstablishment link) s = .next t ∧ t = { s with ide := t.ide } ∧ ∀ l, l ∈ t.ide ↔ l = link.toNat ∨ l ∈ s.ide)

/-- R379, R381, R383: residency and launches. A context becomes resident with the fields of its record and the launch that waited for it (log 78's choice), or is refused for what R379 lists, and the host told: its areas must be mapped, whatever bank holds them; one that is not running can be removed, with its translations (log 41). A partition that is idle, and is to run a context whose launch is pending, starts it:
each core at its ENTRY, halted where ENTRY is 0 or the core is retired (R398), its rows the image, its rings empty, the stores of its last thread still in its buffer (R303; log 90); a broken record changes no core and is told. -/
def ContextsLaunched : Prop :=
  ∀ (s : State) (slot : BitVec 3) (rec : BitVec 512) (stores : List (List Word)) (tr : BitVec 3) (part : BitVec 3) (c : Ctx) (st : Start) (image : Nat) (a : Word),
    let n := slot.toNat
    let d := ctxOf rec ((stores.take 8).map Sys2Proof.Machine.storeOf) tr
    let byte := fun (o k : Nat) => rec.toNat / 2 ^ (8 * o) % 2 ^ (8 * k)
    let plain := fun (va : Nat) (lf : Leaf) => walkFrom s (nodeStack s) va 4 3 d.ptroot = .ok lf ∧ lf.w = true ∧ lf.kh = 0 ∧ lf.tol = 0 ∧ bits va 63 57 = 0
    let fits := getCtx s n = none ∧ (∀ e ∈ s.ctxs, ∀ x, e.2 = some x → x.job ≠ d.job) ∧ 2 ^ d.width = partWidth s ∧ d.ptroot % 2 ^ 21 = 0 ∧
      d.savebase % 65536 = 0 ∧ d.dbell % 65536 = 0 ∧ d.trbase % 16384 = 0
    let mapped := (∀ i, i < 2048 * 2 ^ d.width → ∃ lf, plain (d.savebase + 65536 * i) lf) ∧
      (∀ o, o < 2048 * 2 ^ d.width → ∃ lf, plain ((d.trbase + o) / 65536 * 65536) lf) ∧ (d.dbell ≠ 0 → ∃ lf, plain d.dbell lf ∧ lf.kind = 0)
    (¬fits → exec (.contextResident slot rec stores tr) s = .next (tellHost s .residencyRefused)) ∧
    (fits → ¬mapped → ∃ t, exec (.contextResident slot rec stores tr) s = .next t ∧ t.core = s.core ∧ t.others = s.others ∧ t.mem = s.mem ∧ t.ctxs = s.ctxs ∧ t.hostLog = s.hostLog ++ [.residencyRefused]) ∧
    (fits → mapped → ∃ t, exec (.contextResident slot rec stores tr) s = .next t ∧ t.core = s.core ∧ t.mem = s.mem ∧ getCtx t n = some { d with launch := Sparse.get none s.launchq n } ∧ (∀ k, k ≠ n → getCtx t k = getCtx s k) ∧
      d.job = byte 0 4 ∧ d.cls = byte 4 1 % 4 ∧ d.width = byte 5 1 % 4 ∧ d.ptroot = byte 8 8 ∧ d.savebase = byte 16 8 ∧ d.trbase = byte 24 8 ∧ d.quantum = byte 32 4 ∧ d.dbell = byte 40 8 ∧
      d.transport = tr ∧ d.running = false ∧ d.launch = none ∧ d.saved = []) ∧
    (getCtx s n = none → exec (.contextRemove slot) s = .next s) ∧
    (getCtx s n = some c → liveCtx s n c = true → exec (.contextRemove slot) s = .next s) ∧
    (getCtx s n = some c → liveCtx s n c = false → ∃ t, exec (.contextRemove slot) s = .next t ∧ getCtx t n = none ∧ (∀ k, k ≠ n → getCtx t k = getCtx s k) ∧
      (∀ e, e ∈ t.tlb ↔ e ∈ s.tlb ∧ e.slot ≠ n) ∧ t.core = s.core ∧ t.mem = s.mem ∧ t.keys = s.keys) ∧
    (let p := part.toNat
     let w := 16 * partWidth s
     (getPart s p).phase = .running → (getPart s p).slot = none → partOk s p = true → chosen s p = some n → getCtx s n = some c → liveCtx s n c = false → 2 ^ c.width = partWidth s →
       c.saved.any (fun e => coreBusy e.2) = false → c.launch = some a →
       (a.toNat % 64 ≠ 0 ∨ (launchWaits s n 33 a.toNat = false ∧ (launchRead s n 33 a.toNat).bind (startOf w) = none) → ∃ t, exec (.launch part) s = .next t ∧ t.core = s.core ∧ t.others = s.others ∧ t.mem = s.mem ∧
         (∃ x, getCtx t n = some x ∧ x = { c with launch := none, phasemiss := x.phasemiss }) ∧ t.hostLog = s.hostLog ++ [.launchDiscarded n]) ∧
       (a.toNat % 64 = 0 → (launchRead s n 33 a.toNat).bind (startOf w) = some st → launchImage s n st = some image →
         ∃ t x, exec (.launch part) s = .next t ∧ t.mem = s.mem ∧ getCtx t n = some x ∧ x.launch = none ∧ x.running = true ∧ x.part = p ∧ (getPart t p).slot = some n ∧ (getPart t p).phase = .running ∧
           (∀ k, ¬(w * p ≤ k ∧ k < w * p + w) → getCore t k = getCore s k) ∧
           ∀ i, i < w → let e := st.entries.getD i (0, 0)
             let k := getCore t (w * p + i)
             k.pc = .ofNat 64 e.1 ∧ k.halted = (decide (e.1 = 0) || (getCore s (w * p + i)).retired) ∧ k.livemark = e.2 ∧ k.sregs = [] ∧ k.vregs = [] ∧ k.tstat = 0 ∧ k.sb = (Sparse.get Core.blank c.saved i).sb ∧ k.inflight = [] ∧ k.tags = 0 ∧ k.tl = [] ∧
             k.checkstop = false ∧ k.ticks = 0 ∧ k.cycle = (getCore s (w * p + i)).cycle ∧ k.lanemap = (getCore s (w * p + i)).lanemap ∧ k.retired = (getCore s (w * p + i)).retired ∧
             k.team.toNat = colOf (w * p + i) % 2 ^ 16 + 2 ^ 16 * (st.pkgid % 2 ^ 16) + 2 ^ 32 * (st.domid % 2 ^ 16) + 2 ^ 48 * (st.sysid % 2 ^ 16) ∧
             (∀ q, q < 6 → (getRing k q).occ = 0 ∧ (getRing k q).stopped = false ∧ (getRing k q).cls = max c.cls (st.rcls / 4 ^ q % 4)) ∧
             ∀ r, getRow k r = if r < st.rows then .ofNat 4096 (image / 2 ^ (4096 * r)) else 0))

/-- R223, R383, R386 to R388, R391, R392, R399: switches. A trigger lets the partition stop, and marks the nests of its cores as they stand (`NestsMarked`); when its engines have done what they must, its buffered stores are performed, but for one that waits for its destination context or must come after such a one (log 90), the exposed results are captured as a trap captures them, and it is to be saved; the save keeps every core of the context by its position, leaves memory as it
is (log 27), and frees the partition; a restore gives them back, with the captured results in flight again (those of a handler stay in flight, log 40). A gang switch fires once, and notes the class-0 context that it stops. A kill ends a context that does not run at once, and stops one that
runs. -/
def ContextsSwitched : Prop :=
  ∀ (s : State) (part : BitVec 3) (slot : BitVec 3) (c : Ctx),
    let p := part.toNat
    let v := getPart s p
    let w := 16 * partWidth s
    let triggered := fun (t : State) (q : Nat) => (getPart t q).phase = .stopping ∧ (getPart t q).slot = (getPart s q).slot ∧ (getPart t q).late = false
    let only := fun (t : State) => t.core = s.core ∧ t.others = s.others ∧ t.mem = s.mem ∧ t.ctxs = s.ctxs
    let marked := fun (t : State) (f : Nat → Prop) => t.mem = s.mem ∧ t.ctxs = s.ctxs ∧
      ∀ k, ((∃ q, f q ∧ k ∈ partCores s q) → getCore t k = markNests (getCore s k)) ∧ ((∀ q, f q → k ∉ partCores s q) → getCore t k = getCore s k)
    (v.phase ≠ .running → exec (.preemptRequest part) s = .next s) ∧
    (v.phase = .running → v.slot.isSome = true → ∃ t, exec (.preemptRequest part) s = .next t ∧ triggered t p ∧ (getPart t p).kill = v.kill ∧ marked t (· = p)) ∧
    (∀ x due, v.slot = some x → v.quantum = some due → v.phase = .running → due ≤ devNs s →
      (ctxClass s x = 0 → ∃ t, exec (.quantumExpiry part) s = .next t ∧ getPart t p = { v with quantum := quantumOf s x } ∧ only t) ∧
      (∀ y d, ctxClass s x ≠ 0 → y ∈ s.recency → y ≠ x → ready s y = true → widthOk s y = true → ctxClass s y ≤ ctxClass s x → getCtx s y = some d → liveCtx s y d = false →
        ∃ t, exec (.quantumExpiry part) s = .next t ∧ triggered t p ∧ marked t (· = p))) ∧
    (∀ due, v.quantum = some due → devNs s < due → exec (.quantumExpiry part) s = .next s) ∧
    (∀ x, v.slot = some x → v.phase = .running → givesWay s p = true → ∃ t, exec (.preemption part) s = .next t ∧ triggered t p ∧ marked t (· = p)) ∧
    (∀ x, v.slot = some x → v.phase = .stopping → v.kill = false → (partCores s p).all (fun k => coreStopped v.late false (focus k s)) = true →
      ∃ t, exec (.preemption part) s = .next t ∧ getPart t p = { v with phase := .saving } ∧
        ∀ k, k ∈ partCores s p → ((∀ e ∈ (getCore s k).sb, ¬Away s x e) → (getCore t k).sb = []) ∧ (∀ e ∈ (getCore t k).sb, e ∈ (getCore s k).sb) ∧ (getCore t k).pend = [] ∧ (getCore t k).nestMX = none ∧ (getCore t k).nestSK = none ∧
          ((getCore s k).tstat.getLsbD 0 = false → (getCore t k).inflight = []) ∧ ((getCore s k).tstat.getLsbD 0 = true → (getCore t k).lb = (getCore s k).lb ∧ (getCore t k).lbcnt = (getCore s k).lbcnt)) ∧
    (∀ x, v.slot = some x → v.phase = .stopping → (partCores s p).all (fun k => coreStopped (v.late || v.kill) v.kill (focus k s)) = false → exec (.preemption part) s = .next s) ∧
    (v.phase ≠ .stopping → exec (.preemptAbandonDeadline part) s = .next s) ∧
    (v.phase = .stopping → ∃ t, exec (.preemptAbandonDeadline part) s = .next t ∧ getPart t p = { v with late := true } ∧ t.mem = s.mem ∧
      ∀ k, k ∈ partCores s p → ∀ r ∈ (getRing (getCore t k) 2).results, r.posted = true ∨ r.code ≠ 0 ∨ (r.redo = true ∧ r.fills = [] ∧ r.busy = false)) ∧
    (∀ x, v.slot = some x → getCtx s x = some c → v.phase = .saving → saveOk s x c = true → ∃ t d, exec (.contextSave part) s = .next t ∧ t.mem = s.mem ∧ getPart t p = { Part.idle with next := v.next, keep := v.keep } ∧
      getCtx t x = some d ∧ d.running = false ∧ (∀ i, i < w → Sparse.get Core.blank d.saved i = saveImage (getCore s (w * p + i))) ∧
      (∀ i, i < w → getCore t (w * p + i) = emptyCore (getCore s (w * p + i))) ∧ ∀ k, ¬(w * p ≤ k ∧ k < w * p + w) → getCore t k = getCore s k) ∧
    (v.slot.isSome = true → exec (.contextRestore part) s = .next s) ∧
    (∀ x, v.slot = none → partOk s p = true → chosen s p = some x → getCtx s x = some c → c.saved.any (fun e => coreBusy e.2) = true → loadOk s x c = true → 2 ^ c.width = partWidth s →
      (∀ i, i < w → (Sparse.get Core.blank c.saved i).badTiles = [] ∧ (getResume false (Sparse.get Core.blank c.saved i)).getLsbD 1384 = false ∧ (getResume true (Sparse.get Core.blank c.saved i)).getLsbD 1384 = false) →
      ∃ t d, exec (.contextRestore part) s = .next t ∧ t.mem = s.mem ∧ getCtx t x = some d ∧ d.running = true ∧ d.part = p ∧ (getPart t p).slot = some x ∧ (getPart t p).phase = .running ∧
        ∀ i, i < w → let m := Sparse.get Core.blank c.saved i
          let o := getCore s (w * p + i)
          let m1 := { m with cycle := o.cycle, lanemap := o.lanemap, retired := o.retired, swapLeft := o.swapLeft, spareV := o.spareV, spareP := o.spareP,
                             parityBad := o.parityBad.filter fun e => !laneUsed o e.2.2 }
          getCore t (w * p + i) = if m.tstat.getLsbD 0 then m1 else
            { m1 with lbcnt := 0, inflight := m.inflight ++ (List.range m.lbcnt).filterMap fun j => reinstate m.ticks (Sparse.get LbEntry.empty m.lb j) }) ∧
    (s.gswctl.getLsbD 63 = false ∨ gtimeOf s < s.gsw.toNat → exec .gangSwitchFire s = .next s) ∧
    (s.gswctl.getLsbD 63 = true → s.gsw.toNat ≤ gtimeOf s → ∃ t, exec .gangSwitchFire s = .next t ∧ t.gswctl.getLsbD 63 = false ∧ t.gswctl.getLsbD 62 = true ∧
      marked t (fun q => q < 8 / partWidth s ∧ s.gswctl.getLsbD (8 + q) = true ∧ (getPart s q).slot.isSome = true ∧ (getPart s q).phase = .running) ∧
      ∀ q, q < 8 / partWidth s → (s.gswctl.getLsbD (8 + q) = false → getPart t q = getPart s q) ∧
        (s.gswctl.getLsbD (8 + q) = true → (getPart s q).slot.isSome = true → (getPart s q).phase = .running → triggered t q ∧
          (s.gswctl.getLsbD 3 = true → (getPart t q).next = some (s.gswctl.toNat % 8)) ∧
          ∀ x, (getPart s q).slot = some x → ctxClass s x = 0 → (getPart t q).keep = some x)) ∧
    (getCtx s slot.toNat = none → exec (.kill slot) s = .next s) ∧
    (getCtx s slot.toNat = some c → liveCtx s slot.toNat c = false → ∃ t, exec (.kill slot) s = .next t ∧ getCtx t slot.toNat = none ∧ (∀ e ∈ t.tlb, e.slot ≠ slot.toNat) ∧ ((∀ i, i < 16 * 2 ^ c.width → openColls (ctxCore s slot.toNat (16 * 2 ^ c.width * c.part + i)) = []) → t.mem = s.mem)) ∧
    (getCtx s slot.toNat = some c → liveCtx s slot.toNat c = true → (getPart s c.part).phase = .running → ∃ t, exec (.kill slot) s = .next t ∧ triggered t c.part ∧ (getPart t c.part).kill = true ∧ marked t (· = c.part))

/-- R90, R278, R279, R390, R405, R406: the resets. While WRST is set no core runs; WARM_RESET then leaves no context, no key of the package, no translation, PARTCFG 0, and every core blank but for CYCLE, retirement and the slices of the lane out of use, with the board's LANEMAP; memory keeps
its bytes, GTIME goes on, and every bank its record: an allocated one stands in RETAIN, a free one keeps its timers, and all await their repair. While a link trains, WRST goes on reading 1. COLD_RESET leaves the state after reset with the board's identity, lane maps and repairs, and GTIME 0; a stack whose repair record is missing, or clashes, is unrepaired and told. -/
def Resets : Prop :=
  ∀ (s : State) (r : BoardRecord) (n : Nat),
    (s.wrst.getLsbD 0 = false → exec .warmReset s = .next s) ∧ (s.wrst.getLsbD 0 = true → curSlot s = none) ∧
    (let trains := fun (l : Link) => l.st = .retraining
     s.wrst.getLsbD 0 = true → s.wrst.getLsbD 1 = true → ((∃ e ∈ s.links, trains e.2) → exec .warmReset s = .next s) ∧ ((∀ e ∈ s.links, ¬trains e.2) → exec .warmReset s = .next { s with wrst := 0 })) ∧
    (s.wrst.getLsbD 0 = true → s.wrst.getLsbD 1 = false → ∃ t, exec .warmReset s = .next t ∧ t.mem = s.mem ∧ t.ctxs = [] ∧ t.parts = [] ∧ t.partcfg = 0 ∧ t.tlb = [] ∧ t.lanes = [] ∧ t.gswctl.getLsbD 63 = false ∧
      t.ident = s.ident ∧ (∀ h, h < 1024 → Sparse.get none t.keys (s.pkgNo.toNat * 1024 + h) = none) ∧
      ((∃ e ∈ s.links, e.2.st = .up ∨ e.2.st = .retraining) → t.wrst = 3) ∧ ((∀ e ∈ s.links, e.2.st ≠ .up ∧ e.2.st ≠ .retraining) → t.wrst = 0) ∧
      gtimeOf t = gtimeOf s ∧ t.bankReqs = [] ∧ t.launchq = [] ∧
      (∀ k, k < 128 → let m := getCore t k
        m = { Core.blank with cycle := (getCore s k).cycle, retired := (getCore s k).retired, lanemap := boardLane s.board k, spareV := m.spareV, spareP := m.spareP, parityBad := m.parityBad }) ∧
      (∀ b : BitVec 15, let q := ownRec s b
        let q2 := ownRec t b
        let same := fun (lo n : Nat) => bfield q2 lo n = bfield q lo n
        same 26 4 ∧ same 22 4 ∧ same 18 2 ∧ same 0 16 ∧ same 30 1 ∧ bfield q2 31 1 = 1 ∧ recState q2 = (if recOwner q = 15 then recState q else 2) ∧
        (recOwner q = 15 → bankTime t (ownBank s b) = bankTime s (ownBank s b))) ∧
      ∀ m, m < 8 → (getStack t m).unrepaired = true ∧ (getStack t m).entries = []) ∧
    (∃ t, exec (.coldReset none) s = .next t ∧ t.core = Core.blank ∧ t.others = [] ∧ t.mem = [] ∧ t.ctxs = [] ∧ t.ident = 0 ∧ t.banks = [] ∧ t.mclog.length = 8 ∧ gtimeOf t = 0 ∧ ∀ m, m < 8 → (getStack t m).unrepaired = true) ∧
    (∃ t, exec (.coldReset (some r)) s = .next t ∧ t.mem = [] ∧ t.ctxs = [] ∧ t.ident = r.ident ∧ t.domNo = r.domain ∧ t.pkgNo = r.pkg ∧ t.keys = [] ∧ t.banks = [] ∧ gtimeOf t = 0 ∧ t.board = some r ∧
      (n < 8 → (getStack t n).unrepaired = (!(r.stacksRead.getLsbD n) || repairClash ((validRepairs (getStack t n).entries).map (·.2)))) ∧
      (n < 8 → ∀ i w, boardStack (some r) n = [(i, w)] → ∀ e, Sparse.get 0 (getStack t n).entries e = if e = i then w else 0) ∧
      (r.lanemaps = [] → ∀ k, getCore t k = Core.blank) ∧ ∀ k v, r.lanemaps = [(k, v)] → k < 128 → getCore t k = { Core.blank with lanemap := v &&& 0x11F })

/-- R4, R69, R77: INSTRUCTION_FETCH keeps the bundle that the pc's page holds, and in a cache of 4,096 bundles gives none up while it is not full (log 24); what it keeps of a keyed page are the stored bytes, as they are (the model's choice, log 82); a fetch that its page denies traps with TVAL the pc. A bundle that the instruction cache holds is not fetched again. -/
def InstructionFetches : Prop :=
  ∀ (s : State) (slot pa : Nat), running s = true → curSlot s = some slot →
    (Sparse.get none s.core.icache s.core.pc.toNat ≠ none → exec .instructionFetch s = .next s) ∧
    (∀ lf, Sparse.get none s.core.icache s.core.pc.toNat = none → translate s slot s.core.pc.toNat .fetch = .ok lf → lf.tol = 0 → pa = lf.base + s.core.pc.toNat % 2 ^ lf.lg → sectorsOk s pa 16 = true →
      ∃ t, exec .instructionFetch s = .next t ∧ t.core = { s.core with icache := t.core.icache } ∧ t.mem = s.mem ∧ t.others = s.others ∧ fetchBundle t = .ok (memNum s pa 16) ∧
        ∀ k, k ≠ s.core.pc.toNat → s.core.icache.length < 4096 → Sparse.get none t.core.icache k = Sparse.get none s.core.icache k) ∧
    (∀ code, Sparse.get none s.core.icache s.core.pc.toNat = none → translate s slot s.core.pc.toNat .fetch = .error code → code = 3 ∨ code = 4 ∨ code = 8 ∨ code = 9 →
      exec .instructionFetch s = .next (takeTrap (mkTrap code 4 s.core.pc) s.core.pc s.core.ticks (atIssue (touchWalk s slot s.core.pc.toNat))))

end Sys2Proof.Claims

namespace Sys2Proof.Claims
open Sys2Proof.Machine

/-- An instruction that a bundle holds. -/
def isSyllable (i : Instr) : Bool := inS i || inV i || inM i

/-- The program counter, TSTAT, TCAUSE and LIVEMARK have the form that R10, R12, R63 and R179 give them. -/
def RegistersKept (c : Core) : Prop :=
  c.pc.toNat % 16 = 0 ∧ c.tstat.toNat < 4 ∧ c.tcause &&& ~~~(0x1FFF07FF : Word) = 0 ∧ c.livemark ≤ 6144

/-- An instruction of the thread: a syllable, or a step that takes or ends a trap (R57, R75, R394), or fetches (R77). -/
def ofThread (i : Instr) : Prop :=
  isSyllable i = true ∨ i = .asynchronousTrap ∨ i = .rftReinstate ∨ i = .instructionFetch ∨ ∃ cause slot code tval, i = .trapEntry cause slot code tval

end Sys2Proof.Claims

/-- R12, R13, R69, R394: the step of a thread whose bundle is fetched and decodes is the issue of its three syllables; where the bundle holds one syllable, it is `exec` of that
instruction. The fetch reaches the banks of the bundle's bytes (R263), unless the instruction cache holds it. A bundle that does not decode traps before any slot takes effect, and a pending asynchronous trap is taken first. Around it the step adds `settleStep`, which lets another agent move when the thread stays at its bundle (log 5). -/
def Obligations.StepRunsDecodedBundle : Prop :=
  ∀ (s : State) (w : Nat) (b : BundleI),
    let ran := fun (t : State) => step s = .next (settleStep s t)
    let u := fetchTouch s
    u.core = s.core ∧ u.others = s.others ∧ u.mem = s.mem ∧ (Sparse.get none s.core.icache s.core.pc.toNat ≠ none → u = s) ∧
    (Fetches s w b → ran (issue (idleOf w) (semOf b.s) (semOf b.v) (semOf b.m) u) ∧
      (b.v = .vnop → b.m = .mnop → ∃ t, exec b.s u = .next t ∧ ran t) ∧
      (b.s = .nop 0 → b.m = .mnop → ∃ t, exec b.v u = .next t ∧ ran t) ∧
      (b.s = .nop 0 → b.v = .vnop → ∃ t, exec b.m u = .next t ∧ ran t)) ∧
    (∀ slot e, s.agenda = [] → running s = true → asyncPending s = none → fetchBundle s = .ok w → decodeBundle w = .error (slot, e) →
      let emu := e == DecodeErr.extension
      ran (takeTrap { cause := if emu then 2 else 1, slot := slot, code := 0, tval := 0, bundle := if emu then w else 0, emu := emu } s.core.pc s.core.ticks (atIssue u))) ∧
    ∀ x, s.agenda = [] → running s = true → asyncPending s = some x → ∃ t, exec .asynchronousTrap s = .next t ∧ ran t

/-- R12, R15, R17, R21, R31, R32, R41: words whose fields are those of the spec's worked encodings, and the instructions for which they stand. -/
def Obligations.WorkedWordsDecode : Prop :=
  decodeS 0x0690A3C8 = .ok (.extu 0 4 5 15 8) ∧ decodeS 0x1B00800C = .ok (.setphase 0 4 12) ∧ decodeS 0x1194C008 = .ok (.ldc 0 5 6 8) ∧ decodeS 0xE0000000 = .ok (.nop 7) ∧
  decodeV 0x202109020304 = .ok (.vcmp 2 1 9 2 3 4) ∧ decodeV 0x014302040600 = .ok (.vadd 4 3 2 4 6) ∧
  decodeM 0x223000000000 = .ok (.claim 17 1) ∧ decodeM 0x281000000000 = .ok (.mtc 0 0 4 0) ∧ decodeM 0x2C60A6800000 = .ok (.accrd 6 5 3 1) ∧
  decodeEntry 2 (0x4014240000000000 + 2 ^ 64 * 5) = .ok (.cnop 2 { wtl := 1, rtl := 1, tag := 9, arg := 0, waitv := 5, p0 := 0, p1 := 0, p2 := 0, p3 := 0 }) ∧
  decodeX 0 (3 * 2 ^ 56) = .ok (.xloop 0 { flags := 0, op := 0, x1 := 0, x2 := 0, x3 := 0 }) ∧
  decodeBundle 0 = .ok { s := .nop 0, v := .vnop, m := .mnop }

/-- R13, R22, R23, R29, R30, R36, R42, R43: the extension regions of the slots, the rings and the lanes hold no instruction, and are told from the reserved opcodes of the V and the M slot and of the lanes, which are refused by a name of their own; FEAT0[7:0] reads zero. A bundle names its first slot that is no instruction. -/
def Obligations.ReservedEncodings : Prop :=
  (∀ w, 0x38 ≤ w / 2 ^ 23 % 64 → decodeS w = .error .extension) ∧
  (∀ w, 0xE0 ≤ w / 2 ^ 40 % 256 → decodeV w = .error .extension) ∧
  (∀ w, 0x38 ≤ w / 2 ^ 42 % 64 → decodeM w = .error .extension) ∧
  (∀ r n c, r ≤ 5 → 0x18 ≤ n → n < 32 → parseCmdNo r n c = .error .extension) ∧
  (∀ l w, 0x80 ≤ w / 2 ^ 56 % 256 → decodeX l w = .error .extension) ∧
  (∀ l w, 0x08 ≤ w / 2 ^ 56 % 256 → w / 2 ^ 56 % 256 < 0x80 → decodeX l w = .error .reservedOpcode) ∧
  (∀ w, 0x72 ≤ w / 2 ^ 40 % 256 → w / 2 ^ 40 % 256 < 0xE0 → decodeV w = .error .reservedOpcode) ∧
  (∀ w, 0x29 ≤ w / 2 ^ 42 % 64 → w / 2 ^ 42 % 64 < 0x38 → decodeM w = .error .reservedOpcode) ∧
  (∀ s, sysRead s 1 &&& 0xFF = 0) ∧
  ∀ w e, let s := w % 2 ^ 32
    let v := w / 2 ^ 32 % 2 ^ 48
    let m := w / 2 ^ 80 % 2 ^ 48
    (decodeS s = .error e → decodeBundle w = .error (1, e)) ∧
    (∀ i, decodeS s = .ok i → alone i = false → decodeV v = .error e → decodeBundle w = .error (2, e)) ∧
    ∀ i j, decodeS s = .ok i → alone i = false → decodeV v = .ok j → clash i j = false → decodeM m = .error e → decodeBundle w = .error (3, e)

/-- R12 to R43: for every well-formed instruction, decoding its encoding gives the instruction back, with every operand: a syllable in its slot, a command in its entry, a transfer instruction in its 32 bytes. -/
def Obligations.InstructionsRoundTrip : Prop := ∀ i : Instr, Sys2Proof.Laws.RoundTrip.Statement i

/-- R12, R53, R74, R75: a bundle of three well-formed syllables that name no scalar destination twice, of which TRAP and RFT stand alone, decodes from its 128 bits. -/
def Obligations.BundlesRoundTrip : Prop :=
  ∀ b : BundleI, inS b.s = true → inV b.v = true → inM b.m = true → b.s.wf = true → b.v.wf = true → b.m.wf = true →
    clash b.s b.v = false → clash b.s b.m = false → clash b.v b.m = false → (alone b.s = true → b.v = .vnop ∧ b.m = .mnop) →
    decodeBundle (encodeBundle b) = .ok b

/-- R263, R266, R281: memory. A byte written is read back and no other byte changes; writes keep the canonical form, in which memories that read alike are equal. -/
def Obligations.MemoryReadsBack : Prop :=
  ∀ (m m' : Memory) (a : Nat) (b : Byte) (l : List Byte),
    (∀ x, Memory.read (Memory.write m a b) x = if x = a then b else Memory.read m x) ∧
    (∀ x, Memory.read (Memory.writeL m a l) x = if a ≤ x ∧ x < a + l.length then l.getD (x - a) 0 else Memory.read m x) ∧
    Memory.readN (Memory.writeL m a l) a l.length = l ∧
    (Memory.wf m = true → Memory.wf (Memory.write m a b) = true ∧ Memory.wf (Memory.writeL m a l) = true) ∧
    (Memory.wf m = true → Memory.wf m' = true → (∀ x, Memory.read m x = Memory.read m' x) → m = m')

/-- R266, R381, R405: the state after reset: no context, no key, PARTCFG 0, GTIME 0, every bank free and DEEP, every token pool full, every core halted with its state cleared; memory holds nothing.
That every byte of memory reads 0 is the model's choice (log 52), as the values that R405 does not give are (logs 1 to 4). -/
def Obligations.StateAtReset : Prop :=
  let s := State.reset
  (∀ n, getCtx s n = none) ∧ (∀ h, Sparse.get none s.keys h = none) ∧ s.partcfg = 0 ∧ gtimeOf s = 0 ∧ (∀ b, recState (bankRec s b) = 3 ∧ recOwner (bankRec s b) = 15) ∧
  (∀ c, (getCol s c).pool = (getCol s c).cap) ∧ s.mclog = [] ∧ (∀ a, Memory.read s.mem a = 0) ∧
  ∀ k, let c := getCore s k
    c.halted = true ∧ c.checkstop = false ∧ c.pc = 0 ∧ c.tstat = 0 ∧ c.lanemap = 0 ∧ c.cycle = 0 ∧ (∀ r, rdS c r = 0) ∧ (∀ q, (getRing c q).occ = 0) ∧ ∀ r, getRow c r = 0

/-- The canonical form of memory holds at reset. -/
def Obligations.MemoryFormAtReset : Prop := MemOk State.reset

/-- Every step keeps the canonical form of memory, from every state that has it. -/
def Obligations.EveryStepKeepsMemoryForm : Prop := ∀ s t : State, MemOk s → step s = .next t → MemOk t

/-- R10, R12, R63, R179: what every instruction of the thread and every trap keeps: the program counter is a multiple of 16, reserved bits of TSTAT and TCAUSE are zero, and LIVEMARK is at most 6,144. -/
def Obligations.RegisterFormsStay : Prop :=
  ∀ (i : Instr) (s t : State), ofThread i → RegistersKept s.core → exec i s = .next t → RegistersKept t.core

/-- R2, R60: the thread of a core reaches no register of another core, and none of the package's partitions (but that its store to a launch doorbell can make a context ready, R381), keys, links or lanes. -/
def Obligations.SyllablesKeepTheirCore : Prop :=
  ∀ (i : Instr) (s t : State), isSyllable i = true → exec i s = .next t →
    t.others = s.others ∧ t.coreNo = s.coreNo ∧ t.domNo = s.domNo ∧ t.pkgNo = s.pkgNo ∧ t.ident = s.ident ∧ t.partcfg = s.partcfg ∧ (∀ q, getPart t q = { getPart s q with seen := (getPart t q).seen }) ∧
    t.keys = s.keys ∧ t.lanes = s.lanes ∧ t.links = s.links ∧ t.flows = s.flows ∧ t.core.retired = s.core.retired ∧ t.core.team = s.core.team

/-- R22: no encoding has undefined behaviour, and every exception that the spec names is taken as a next state: every instruction answers a next state from every state, and no run stops with a fault or a refusal. -/
def Obligations.NothingStopsTheMachine : Prop := (∀ (i : Instr) (s : State), ∃ t, exec i s = .next t) ∧ ∀ (n : Nat) (s : State), RunsOn n s

/-- R131 to R137, R145, R146, R156 to R159, R193: VDOT, VCVT and SCACC, and the arithmetic of their elements. That a NaN goes to FP32 as VCVT converts it (log 13), and that OF comes with E8M0's saturation (log 57), are the model's readings. -/
def Obligations.DotConvertAndScale : Prop :=
  Claims.DotsConversionsAndScales ∧ Claims.DotElements ∧ Claims.ConversionResults ∧ Claims.ScaledElements

/-- R65: the register group: each instruction of it retires with the result of R65's table. None of them traps, and none writes a flag. -/
def Obligations.ScalarRegisterResults : Prop :=
  Claims.RegisterGroupResults ∧ Claims.DivisionResults ∧ Claims.BitCounts

/-- R66 to R68: the immediate forms, the bit-field forms and the long constants retire with their results. -/
def Obligations.ImmediateAndFieldResults : Prop :=
  Claims.ImmediateResults ∧ Claims.BitFieldsAndConstants

/-- R69: branches, calls and jumps, with their targets, their links and the ILLEGAL of a misaligned jump. -/
def Obligations.BranchAndJumpResults : Prop :=
  Claims.BranchResults ∧ Claims.RegisterJumps

/-- R58, R61, R62, R71, R72, R301, R303, R305: loads from memory, from the store buffer, through the constant path, and from the windows of the system registers, of the landing buffer and of control memory; where a store that overlaps in part makes a load wait, and where uncorrectable bytes stop its core. -/
def Obligations.LoadsReadMemory : Prop :=
  Claims.LoadsFromMemory ∧ Claims.BufferedStoresForward ∧ Claims.PartialOverlapWaits ∧ Claims.LoadsWaitOrStop ∧ Claims.SystemRegisterWindow ∧ Claims.LandingBufferWindow ∧ Claims.ControlMemoryAccesses

/-- R71, R72, R303, R352, R357, R396: stores enter the buffer, and leave it for memory; which of them wait for a link, and which are lost with one. -/
def Obligations.StoresReachMemory : Prop :=
  Claims.StoresEnterTheBuffer ∧ Claims.ReleasesPerformStores ∧ Claims.StoreBufferDrains

/-- R297, R298, R304: atomics at once, the table of their operations, and fences. -/
def Obligations.AtomicsAndFences : Prop :=
  Claims.Atomics ∧ Claims.AtomicOperations ∧ Claims.Fences

/-- R16, R50 to R55, R65 to R70: what the scalar instructions without an access to memory leave alone; S0 reads zero and discards. -/
def Obligations.ScalarFrame : Prop :=
  Claims.RegisterInstructionFrame ∧ Claims.ScalarZeroDiscards

/-- R51 to R54, R69, R77: bundles stall whole; exposed results and scalar writes land; a bundle is fetched and kept, from a keyed page as its bytes are stored (the model's choice, log 82). -/
def Obligations.PipelineSteps : Prop :=
  Claims.StalledAndStoppedBundles ∧ Claims.LandingsAndCompletions ∧ Claims.ExposedResultsLand ∧ Claims.InstructionFetches

/-- R10, R62, R63, R73, R402: the system registers as MFS reads and MTS writes them. -/
def Obligations.SystemRegisters : Prop :=
  Claims.SystemRegisterReads ∧ Claims.SystemRegisterWrites

/-- R57, R58, R63, R91, R393, R396: what taking a trap leaves, the record that it writes, and where the core checkstops instead; a parity error checkstops, and a lane copy ends. That LBCNT counts more than 256 results (log 58), and that the old destination counts as read whatever the predicate (log 59), are the model's choices. -/
def Obligations.TrapEntry : Prop :=
  Claims.TrapEntryState ∧ Claims.TrapRecordBytes ∧ Claims.DoubleTrapsCheckstop ∧ Claims.ParityErrorsAndLaneSwaps

/-- R394: the traps that are taken: of a bundle, and asynchronous. -/
def Obligations.TrapsTaken : Prop :=
  Claims.TrapsAreTaken ∧ Claims.AsynchronousTrapsAreTaken

/-- R75, R395: the return from a trap. -/
def Obligations.TrapReturn : Prop :=
  Claims.ReturnFromTrap ∧ Claims.ReinstatedEntries

/-- R92 to R100: the integer V instructions, element by element. -/
def Obligations.IntegerVectorResults : Prop :=
  Claims.IntegerElementwiseResults ∧ Claims.IntegerUnaryResults ∧ Claims.WideningAndNarrowing

/-- R101 to R113, R119, R124, R152: moves, comparisons, the order of floating-point numbers, and the predicate instructions. -/
def Obligations.MoveAndPredicateResults : Prop :=
  Claims.MovesAndComparisons ∧ Claims.FloatComparisons ∧ Claims.PredicateResults

/-- R130, R131, R142 to R159: the floating-point V instructions: sums and products of finite and of infinite operands, minima and maxima, fused sums, approximations, and the rounding that they share. -/
def Obligations.FloatVectorResults : Prop :=
  Claims.FloatElementwiseResults ∧ Claims.FloatExtremes ∧ Claims.FloatSumsAndProducts ∧ Claims.FusedSums ∧ Claims.ApproximationResults ∧ Claims.RoundingProcedure

/-- R92, R104 to R112, R114, R127, R145, R146, R153, R154: reductions, scans, ranks and permutations, and the values of the CB2 codebook. -/
def Obligations.ReductionAndPermutationResults : Prop :=
  Claims.ReductionsScansAndRanks ∧ Claims.FloatReductions ∧ Claims.PermutationResults ∧ Claims.CodebookValues

/-- R163 to R171, R181: rows of the scratchpad, loaded, stored, gathered, scattered and merged, with poison and uncorrectable words. -/
def Obligations.RowAccesses : Prop :=
  Claims.RowLoadsAndStores ∧ Claims.GathersScattersAndMerges

/-- R307 to R317: timelines, tags and rendezvous points. That RVINIT without a team is SLOT_STATE also where its count is out of range is the model's choice (log 85). -/
def Obligations.Synchronisation : Prop :=
  Claims.TimelinesAndTags ∧ Claims.RendezvousPoints

/-- R33 to R37, R40, R172, R183, R310: a command waits, has its outcome, and its entry completes or stops its ring; fills complete. What an entry of the CM ring waits for is log 26's. -/
def Obligations.RingEntries : Prop :=
  Claims.CommandsWait ∧ Claims.CommandOutcomes ∧ Claims.EntriesComplete ∧ Claims.RingsStop ∧ Claims.SlotFillsComplete

/-- R183 to R190, R212, R215 to R218: the MX and SK commands that move operands, tiles, metadata and palettes. -/
def Obligations.OperandCommands : Prop :=
  Claims.OperandLoads ∧ Claims.AccumulatorCommands ∧ Claims.MetadataAndPalettes

/-- R126, R127, R129, R203, R205 to R212, R223, R225 to R238: the checks of a nest's start, spelled out; nests start, stop at those checks, go on step by step, stand still where a pre-emption finds them, and each step adds its exact products. That a step sums in its command's mode, and as one event, is the model's choice (log 62). -/
def Obligations.LoopNests : Prop :=
  Claims.NestChecks ∧ Claims.NestsStart ∧ Claims.NestsAdvance ∧ Claims.NestStepsSum ∧ Claims.StepSumsExact ∧ Claims.NestsMarked ∧ Claims.PairStepsSum ∧ Claims.SlicesSplit

/-- R186 to R189, R213, R214: what one step adds to a tile: a scaled chunk with the renormalisation of R187 and its flags, a chunk in integer mode whatever the tile's MODE was (the model's choice, log 62); and the scores of a sketch. -/
def Obligations.TileUpdates : Prop :=
  Claims.ScaledUpdates ∧ Claims.ChunkUpdates ∧ Claims.SketchScores

/-- R416 to R420, R429, R430: the CP commands. -/
def Obligations.CopyCommands : Prop :=
  Claims.CopiesMoveBytes ∧ Claims.SlotCopiesAndGathers

/-- R282 to R288: walks, leaves and the checks of banks. -/
def Obligations.Translation : Prop :=
  Claims.TranslationAndWalks ∧ Claims.LeafEntries ∧ Claims.BankChecks

/-- R291 to R293: the key table, and accesses through keyed pages. -/
def Obligations.KeysAndKeyedPages : Prop :=
  Claims.KeyedAccesses ∧ Claims.KeyTable

/-- R318 to R329, R339 to R342: the block commands of the EZ ring, where their storage comes from, and the bytes that copy on write copies. That an absent block's descriptor is zero but for its number and its tag is the model's reading (log 36). -/
def Obligations.BlockCommands : Prop :=
  Claims.StorageTaken ∧ Claims.BlocksAllocated ∧ Claims.BlocksFreedAndShared ∧ Claims.BlocksEvictedAndSummarised ∧ Claims.BlockWalks

/-- R330 to R335, R343 to R347: the easel commands of the EZ ring, with the acceptance walk. The order of EZOPEN's checks is the model's choice (log 35). -/
def Obligations.EaselCommands : Prop :=
  Claims.EaselsBound ∧ Claims.BatchesFormed ∧ Claims.AcceptanceWalks ∧ Claims.TreesAndChecks

/-- R245 to R258: transfer programs, instruction by instruction, and how a lane runs and stops. -/
def Obligations.LanePrograms : Prop :=
  Claims.LaneControl ∧ Claims.LanePhases ∧ Claims.LaneTransfers ∧ Claims.LanesRunAndStop

/-- R138, R325, R326, R348: the block store's own steps, and the MXFP4 blocks that it encodes. -/
def Obligations.BlockStoreSteps : Prop :=
  Claims.StoreSteps ∧ Claims.MxfpBlocks

/-- R357 to R369: the CM commands that put, get, signal, deliver and take part in groups, with the records, the walks and the combines of collectives. -/
def Obligations.RemoteCommands : Prop :=
  Claims.PutsAndGets ∧ Claims.SignalsAndAtomics ∧ Claims.CollectiveRecords ∧ Claims.Collectives ∧ Claims.ExpertsDeliver

/-- R370 to R372: aborts of groups. -/
def Obligations.GroupAborts : Prop :=
  Claims.Aborts

/-- R355 to R358, R362, R366 to R371: packets at their home. That a reduction which waits for parts of others ends with its freezing is the model's choice (log 72). -/
def Obligations.PacketsServed : Prop :=
  Claims.RequestsWithoutContext ∧ Claims.RequestsAtHome ∧ Claims.GroupRequests

/-- R350 to R354, R373 to R377: answers, links and flows. What a link sends again after a retrain is the model's choice (log 74). -/
def Obligations.LinksAndFlows : Prop :=
  Claims.AnswersEndCommands ∧ Claims.LinkSteps ∧ Claims.FlowSteps

/-- R262 to R279, R407 to R410: banks, levels, repairs, power and heat. Times are the device's own (log 67). -/
def Obligations.BanksAndPower : Prop :=
  Claims.BanksGrantedAndFreed ∧ Claims.BankPowerStates ∧ Claims.LevelsLossAndRepairs ∧ Claims.PowerAndHeat

/-- R289, R390, R391, R397, R398, R400, R401: what host software reads and writes. That a launch request for a slot with no context waits is the model's choice (log 78). -/
def Obligations.HostRegisters : Prop :=
  Claims.HostRegisterWrites

/-- R379 to R381: residency and launches. That a context takes the launch that waited for its slot is the model's choice (log 78). -/
def Obligations.Launches : Prop :=
  Claims.ContextsLaunched

/-- R223, R383, R386, R387, R391, R392, R399: switches, gang switches and kills, and the nests that a pre-emption marks. What becomes of a store that waits for its destination context is the model's choice (log 90). -/
def Obligations.Switches : Prop :=
  Claims.ContextsSwitched

/-- R278, R279, R405, R406: the cold and the warm reset, with the records of the banks. -/
def Obligations.DeviceResets : Prop :=
  Claims.Resets
end

