-- ==== Sys2Proof/Laws/State.lean ====
section
/-! SUPPORT. What the updates of a state and of a core leave in each field, one lemma per field per update, so that no proof
unfolds a record update. -/
namespace Sys2Proof.Machine

@[simp] theorem withCore_core (s : State) (c : Core) : (withCore s c).core = c := rfl
@[simp] theorem withCore_coreNo (s : State) (c : Core) : (withCore s c).coreNo = s.coreNo := rfl
@[simp] theorem withCore_others (s : State) (c : Core) : (withCore s c).others = s.others := rfl
@[simp] theorem withCore_domNo (s : State) (c : Core) : (withCore s c).domNo = s.domNo := rfl
@[simp] theorem withCore_pkgNo (s : State) (c : Core) : (withCore s c).pkgNo = s.pkgNo := rfl
@[simp] theorem withCore_ident (s : State) (c : Core) : (withCore s c).ident = s.ident := rfl
@[simp] theorem withCore_board (s : State) (c : Core) : (withCore s c).board = s.board := rfl
@[simp] theorem withCore_gset (s : State) (c : Core) : (withCore s c).gset = s.gset := rfl
@[simp] theorem withCore_gbase (s : State) (c : Core) : (withCore s c).gbase = s.gbase := rfl
@[simp] theorem withCore_gclk (s : State) (c : Core) : (withCore s c).gclk = s.gclk := rfl
@[simp] theorem withCore_gppm (s : State) (c : Core) : (withCore s c).gppm = s.gppm := rfl
@[simp] theorem withCore_clock (s : State) (c : Core) : (withCore s c).clock = s.clock := rfl
@[simp] theorem withCore_mem (s : State) (c : Core) : (withCore s c).mem = s.mem := rfl
@[simp] theorem withCore_badMem (s : State) (c : Core) : (withCore s c).badMem = s.badMem := rfl
@[simp] theorem withCore_badL2 (s : State) (c : Core) : (withCore s c).badL2 = s.badL2 := rfl
@[simp] theorem withCore_ctxs (s : State) (c : Core) : (withCore s c).ctxs = s.ctxs := rfl
@[simp] theorem withCore_launchq (s : State) (c : Core) : (withCore s c).launchq = s.launchq := rfl
@[simp] theorem withCore_parts (s : State) (c : Core) : (withCore s c).parts = s.parts := rfl
@[simp] theorem withCore_recency (s : State) (c : Core) : (withCore s c).recency = s.recency := rfl
@[simp] theorem withCore_partcfg (s : State) (c : Core) : (withCore s c).partcfg = s.partcfg := rfl
@[simp] theorem withCore_gsw (s : State) (c : Core) : (withCore s c).gsw = s.gsw := rfl
@[simp] theorem withCore_gswctl (s : State) (c : Core) : (withCore s c).gswctl = s.gswctl := rfl
@[simp] theorem withCore_tlbinv (s : State) (c : Core) : (withCore s c).tlbinv = s.tlbinv := rfl
@[simp] theorem withCore_tlbinvq (s : State) (c : Core) : (withCore s c).tlbinvq = s.tlbinvq := rfl
@[simp] theorem withCore_unit (s : State) (c : Core) : (withCore s c).unit = s.unit := rfl
@[simp] theorem withCore_behalf (s : State) (c : Core) : (withCore s c).behalf = s.behalf := rfl
@[simp] theorem withCore_wrst (s : State) (c : Core) : (withCore s c).wrst = s.wrst := rfl
@[simp] theorem withCore_mclog (s : State) (c : Core) : (withCore s c).mclog = s.mclog := rfl
@[simp] theorem withCore_mcLost (s : State) (c : Core) : (withCore s c).mcLost = s.mcLost := rfl
@[simp] theorem withCore_keys (s : State) (c : Core) : (withCore s c).keys = s.keys := rfl
@[simp] theorem withCore_tlb (s : State) (c : Core) : (withCore s c).tlb = s.tlb := rfl
@[simp] theorem withCore_lanes (s : State) (c : Core) : (withCore s c).lanes = s.lanes := rfl
@[simp] theorem withCore_banks (s : State) (c : Core) : (withCore s c).banks = s.banks := rfl
@[simp] theorem withCore_bankT (s : State) (c : Core) : (withCore s c).bankT = s.bankT := rfl
@[simp] theorem withCore_bankReqs (s : State) (c : Core) : (withCore s c).bankReqs = s.bankReqs := rfl
@[simp] theorem withCore_dramStacks (s : State) (c : Core) : (withCore s c).dramStacks = s.dramStacks := rfl
@[simp] theorem withCore_cols (s : State) (c : Core) : (withCore s c).cols = s.cols := rfl
@[simp] theorem withCore_links (s : State) (c : Core) : (withCore s c).links = s.links := rfl
@[simp] theorem withCore_flows (s : State) (c : Core) : (withCore s c).flows = s.flows := rfl
@[simp] theorem withCore_retryq (s : State) (c : Core) : (withCore s c).retryq = s.retryq := rfl
@[simp] theorem withCore_aborts (s : State) (c : Core) : (withCore s c).aborts = s.aborts := rfl
@[simp] theorem withCore_stopsDue (s : State) (c : Core) : (withCore s c).stopsDue = s.stopsDue := rfl
@[simp] theorem withCore_remotes (s : State) (c : Core) : (withCore s c).remotes = s.remotes := rfl
@[simp] theorem withCore_deadLinks (s : State) (c : Core) : (withCore s c).deadLinks = s.deadLinks := rfl
@[simp] theorem withCore_ide (s : State) (c : Core) : (withCore s c).ide = s.ide := rfl
@[simp] theorem withCore_hostLog (s : State) (c : Core) : (withCore s c).hostLog = s.hostLog := rfl
@[simp] theorem withCore_agenda (s : State) (c : Core) : (withCore s c).agenda = s.agenda := rfl
@[simp] theorem withCore_freeCtr (s : State) (c : Core) : (withCore s c).freeCtr = s.freeCtr := rfl

@[simp] theorem passCycles_coreNo (n : Nat) (s : State) : (passCycles n s).coreNo = s.coreNo := rfl
@[simp] theorem passCycles_others (n : Nat) (s : State) : (passCycles n s).others = s.others := rfl
@[simp] theorem passCycles_domNo (n : Nat) (s : State) : (passCycles n s).domNo = s.domNo := rfl
@[simp] theorem passCycles_pkgNo (n : Nat) (s : State) : (passCycles n s).pkgNo = s.pkgNo := rfl
@[simp] theorem passCycles_ident (n : Nat) (s : State) : (passCycles n s).ident = s.ident := rfl
@[simp] theorem passCycles_board (n : Nat) (s : State) : (passCycles n s).board = s.board := rfl
@[simp] theorem passCycles_gset (n : Nat) (s : State) : (passCycles n s).gset = s.gset := rfl
@[simp] theorem passCycles_gbase (n : Nat) (s : State) : (passCycles n s).gbase = s.gbase := rfl
@[simp] theorem passCycles_gclk (n : Nat) (s : State) : (passCycles n s).gclk = s.gclk := rfl
@[simp] theorem passCycles_gppm (n : Nat) (s : State) : (passCycles n s).gppm = s.gppm := rfl
@[simp] theorem passCycles_mem (n : Nat) (s : State) : (passCycles n s).mem = s.mem := rfl
@[simp] theorem passCycles_badMem (n : Nat) (s : State) : (passCycles n s).badMem = s.badMem := rfl
@[simp] theorem passCycles_badL2 (n : Nat) (s : State) : (passCycles n s).badL2 = s.badL2 := rfl
@[simp] theorem passCycles_ctxs (n : Nat) (s : State) : (passCycles n s).ctxs = s.ctxs := rfl
@[simp] theorem passCycles_launchq (n : Nat) (s : State) : (passCycles n s).launchq = s.launchq := rfl
@[simp] theorem passCycles_parts (n : Nat) (s : State) : (passCycles n s).parts = s.parts := rfl
@[simp] theorem passCycles_recency (n : Nat) (s : State) : (passCycles n s).recency = s.recency := rfl
@[simp] theorem passCycles_partcfg (n : Nat) (s : State) : (passCycles n s).partcfg = s.partcfg := rfl
@[simp] theorem passCycles_gsw (n : Nat) (s : State) : (passCycles n s).gsw = s.gsw := rfl
@[simp] theorem passCycles_gswctl (n : Nat) (s : State) : (passCycles n s).gswctl = s.gswctl := rfl
@[simp] theorem passCycles_tlbinv (n : Nat) (s : State) : (passCycles n s).tlbinv = s.tlbinv := rfl
@[simp] theorem passCycles_tlbinvq (n : Nat) (s : State) : (passCycles n s).tlbinvq = s.tlbinvq := rfl
@[simp] theorem passCycles_unit (n : Nat) (s : State) : (passCycles n s).unit = s.unit := rfl
@[simp] theorem passCycles_behalf (n : Nat) (s : State) : (passCycles n s).behalf = s.behalf := rfl
@[simp] theorem passCycles_wrst (n : Nat) (s : State) : (passCycles n s).wrst = s.wrst := rfl
@[simp] theorem passCycles_mclog (n : Nat) (s : State) : (passCycles n s).mclog = s.mclog := rfl
@[simp] theorem passCycles_mcLost (n : Nat) (s : State) : (passCycles n s).mcLost = s.mcLost := rfl
@[simp] theorem passCycles_keys (n : Nat) (s : State) : (passCycles n s).keys = s.keys := rfl
@[simp] theorem passCycles_tlb (n : Nat) (s : State) : (passCycles n s).tlb = s.tlb := rfl
@[simp] theorem passCycles_lanes (n : Nat) (s : State) : (passCycles n s).lanes = s.lanes := rfl
@[simp] theorem passCycles_banks (n : Nat) (s : State) : (passCycles n s).banks = s.banks := rfl
@[simp] theorem passCycles_bankT (n : Nat) (s : State) : (passCycles n s).bankT = s.bankT := rfl
@[simp] theorem passCycles_bankReqs (n : Nat) (s : State) : (passCycles n s).bankReqs = s.bankReqs := rfl
@[simp] theorem passCycles_dramStacks (n : Nat) (s : State) : (passCycles n s).dramStacks = s.dramStacks := rfl
@[simp] theorem passCycles_cols (n : Nat) (s : State) : (passCycles n s).cols = s.cols := rfl
@[simp] theorem passCycles_links (n : Nat) (s : State) : (passCycles n s).links = s.links := rfl
@[simp] theorem passCycles_flows (n : Nat) (s : State) : (passCycles n s).flows = s.flows := rfl
@[simp] theorem passCycles_retryq (n : Nat) (s : State) : (passCycles n s).retryq = s.retryq := rfl
@[simp] theorem passCycles_aborts (n : Nat) (s : State) : (passCycles n s).aborts = s.aborts := rfl
@[simp] theorem passCycles_stopsDue (n : Nat) (s : State) : (passCycles n s).stopsDue = s.stopsDue := rfl
@[simp] theorem passCycles_remotes (n : Nat) (s : State) : (passCycles n s).remotes = s.remotes := rfl
@[simp] theorem passCycles_deadLinks (n : Nat) (s : State) : (passCycles n s).deadLinks = s.deadLinks := rfl
@[simp] theorem passCycles_ide (n : Nat) (s : State) : (passCycles n s).ide = s.ide := rfl
@[simp] theorem passCycles_hostLog (n : Nat) (s : State) : (passCycles n s).hostLog = s.hostLog := rfl
@[simp] theorem passCycles_agenda (n : Nat) (s : State) : (passCycles n s).agenda = s.agenda := rfl
@[simp] theorem passCycles_freeCtr (n : Nat) (s : State) : (passCycles n s).freeCtr = s.freeCtr := rfl
@[simp] theorem passCycles_clock (n : Nat) (s : State) : (passCycles n s).clock = Nat.max s.clock (s.core.cycle + n) := rfl
@[simp] theorem passCycles_core_pc (n : Nat) (s : State) : (passCycles n s).core.pc = s.core.pc := rfl
@[simp] theorem passCycles_core_sregs (n : Nat) (s : State) : (passCycles n s).core.sregs = s.core.sregs := rfl
@[simp] theorem passCycles_core_pend (n : Nat) (s : State) : (passCycles n s).core.pend = s.core.pend := rfl
@[simp] theorem passCycles_core_vregs (n : Nat) (s : State) : (passCycles n s).core.vregs = s.core.vregs := rfl
@[simp] theorem passCycles_core_pregs (n : Nat) (s : State) : (passCycles n s).core.pregs = s.core.pregs := rfl
@[simp] theorem passCycles_core_parityBad (n : Nat) (s : State) : (passCycles n s).core.parityBad = s.core.parityBad := rfl
@[simp] theorem passCycles_core_spareV (n : Nat) (s : State) : (passCycles n s).core.spareV = s.core.spareV := rfl
@[simp] theorem passCycles_core_spareP (n : Nat) (s : State) : (passCycles n s).core.spareP = s.core.spareP := rfl
@[simp] theorem passCycles_core_inflight (n : Nat) (s : State) : (passCycles n s).core.inflight = s.core.inflight := rfl
@[simp] theorem passCycles_core_halted (n : Nat) (s : State) : (passCycles n s).core.halted = s.core.halted := rfl
@[simp] theorem passCycles_core_checkstop (n : Nat) (s : State) : (passCycles n s).core.checkstop = s.core.checkstop := rfl
@[simp] theorem passCycles_core_retired (n : Nat) (s : State) : (passCycles n s).core.retired = s.core.retired := rfl
@[simp] theorem passCycles_core_lb (n : Nat) (s : State) : (passCycles n s).core.lb = s.core.lb := rfl
@[simp] theorem passCycles_core_lbcnt (n : Nat) (s : State) : (passCycles n s).core.lbcnt = s.core.lbcnt := rfl
@[simp] theorem passCycles_core_vrb (n : Nat) (s : State) : (passCycles n s).core.vrb = s.core.vrb := rfl
@[simp] theorem passCycles_core_prb (n : Nat) (s : State) : (passCycles n s).core.prb = s.core.prb := rfl
@[simp] theorem passCycles_core_vflags (n : Nat) (s : State) : (passCycles n s).core.vflags = s.core.vflags := rfl
@[simp] theorem passCycles_core_livemark (n : Nat) (s : State) : (passCycles n s).core.livemark = s.core.livemark := rfl
@[simp] theorem passCycles_core_lanemap (n : Nat) (s : State) : (passCycles n s).core.lanemap = s.core.lanemap := rfl
@[simp] theorem passCycles_core_cycle (n : Nat) (s : State) : (passCycles n s).core.cycle = s.core.cycle + n := rfl
@[simp] theorem passCycles_core_ticks (n : Nat) (s : State) : (passCycles n s).core.ticks = s.core.ticks := rfl
@[simp] theorem passCycles_core_team (n : Nat) (s : State) : (passCycles n s).core.team = s.core.team := rfl
@[simp] theorem passCycles_core_tvec (n : Nat) (s : State) : (passCycles n s).core.tvec = s.core.tvec := rfl
@[simp] theorem passCycles_core_evec (n : Nat) (s : State) : (passCycles n s).core.evec = s.core.evec := rfl
@[simp] theorem passCycles_core_epc (n : Nat) (s : State) : (passCycles n s).core.epc = s.core.epc := rfl
@[simp] theorem passCycles_core_tcause (n : Nat) (s : State) : (passCycles n s).core.tcause = s.core.tcause := rfl
@[simp] theorem passCycles_core_tval (n : Nat) (s : State) : (passCycles n s).core.tval = s.core.tval := rfl
@[simp] theorem passCycles_core_tstat (n : Nat) (s : State) : (passCycles n s).core.tstat = s.core.tstat := rfl
@[simp] theorem passCycles_core_tbund0 (n : Nat) (s : State) : (passCycles n s).core.tbund0 = s.core.tbund0 := rfl
@[simp] theorem passCycles_core_tbund1 (n : Nat) (s : State) : (passCycles n s).core.tbund1 = s.core.tbund1 := rfl
@[simp] theorem passCycles_core_tscr0 (n : Nat) (s : State) : (passCycles n s).core.tscr0 = s.core.tscr0 := rfl
@[simp] theorem passCycles_core_tscr1 (n : Nat) (s : State) : (passCycles n s).core.tscr1 = s.core.tscr1 := rfl
@[simp] theorem passCycles_core_cmem (n : Nat) (s : State) : (passCycles n s).core.cmem = s.core.cmem := rfl
@[simp] theorem passCycles_core_icache (n : Nat) (s : State) : (passCycles n s).core.icache = s.core.icache := rfl
@[simp] theorem passCycles_core_cpath (n : Nat) (s : State) : (passCycles n s).core.cpath = s.core.cpath := rfl
@[simp] theorem passCycles_core_sb (n : Nat) (s : State) : (passCycles n s).core.sb = s.core.sb := rfl
@[simp] theorem passCycles_core_rows (n : Nat) (s : State) : (passCycles n s).core.rows = s.core.rows := rfl
@[simp] theorem passCycles_core_badRows (n : Nat) (s : State) : (passCycles n s).core.badRows = s.core.badRows := rfl
@[simp] theorem passCycles_core_slots (n : Nat) (s : State) : (passCycles n s).core.slots = s.core.slots := rfl
@[simp] theorem passCycles_core_badSlots (n : Nat) (s : State) : (passCycles n s).core.badSlots = s.core.badSlots := rfl
@[simp] theorem passCycles_core_mdq (n : Nat) (s : State) : (passCycles n s).core.mdq = s.core.mdq := rfl
@[simp] theorem passCycles_core_tiles (n : Nat) (s : State) : (passCycles n s).core.tiles = s.core.tiles := rfl
@[simp] theorem passCycles_core_badTiles (n : Nat) (s : State) : (passCycles n s).core.badTiles = s.core.badTiles := rfl
@[simp] theorem passCycles_core_resume0 (n : Nat) (s : State) : (passCycles n s).core.resume0 = s.core.resume0 := rfl
@[simp] theorem passCycles_core_resume1 (n : Nat) (s : State) : (passCycles n s).core.resume1 = s.core.resume1 := rfl
@[simp] theorem passCycles_core_shadows (n : Nat) (s : State) : (passCycles n s).core.shadows = s.core.shadows := rfl
@[simp] theorem passCycles_core_pal0 (n : Nat) (s : State) : (passCycles n s).core.pal0 = s.core.pal0 := rfl
@[simp] theorem passCycles_core_pal1 (n : Nat) (s : State) : (passCycles n s).core.pal1 = s.core.pal1 := rfl
@[simp] theorem passCycles_core_rings (n : Nat) (s : State) : (passCycles n s).core.rings = s.core.rings := rfl
@[simp] theorem passCycles_core_tl (n : Nat) (s : State) : (passCycles n s).core.tl = s.core.tl := rfl
@[simp] theorem passCycles_core_tags (n : Nat) (s : State) : (passCycles n s).core.tags = s.core.tags := rfl
@[simp] theorem passCycles_core_nestMX (n : Nat) (s : State) : (passCycles n s).core.nestMX = s.core.nestMX := rfl
@[simp] theorem passCycles_core_nestSK (n : Nat) (s : State) : (passCycles n s).core.nestSK = s.core.nestSK := rfl
@[simp] theorem passCycles_core_skCounted (n : Nat) (s : State) : (passCycles n s).core.skCounted = s.core.skCounted := rfl
@[simp] theorem passCycles_core_xstop (n : Nat) (s : State) : (passCycles n s).core.xstop = s.core.xstop := rfl
@[simp] theorem passCycles_core_grantMX (n : Nat) (s : State) : (passCycles n s).core.grantMX = s.core.grantMX := rfl
@[simp] theorem passCycles_core_grantSK (n : Nat) (s : State) : (passCycles n s).core.grantSK = s.core.grantSK := rfl
@[simp] theorem passCycles_core_pausedMX (n : Nat) (s : State) : (passCycles n s).core.pausedMX = s.core.pausedMX := rfl
@[simp] theorem passCycles_core_pausedSK (n : Nat) (s : State) : (passCycles n s).core.pausedSK = s.core.pausedSK := rfl
@[simp] theorem passCycles_core_abortPend (n : Nat) (s : State) : (passCycles n s).core.abortPend = s.core.abortPend := rfl
@[simp] theorem passCycles_core_groups (n : Nat) (s : State) : (passCycles n s).core.groups = s.core.groups := rfl
@[simp] theorem passCycles_core_walkers (n : Nat) (s : State) : (passCycles n s).core.walkers = s.core.walkers := rfl
@[simp] theorem passCycles_core_cmwait (n : Nat) (s : State) : (passCycles n s).core.cmwait = s.core.cmwait := rfl
@[simp] theorem passCycles_core_chain (n : Nat) (s : State) : (passCycles n s).core.chain = s.core.chain := rfl
@[simp] theorem passCycles_core_swapLeft (n : Nat) (s : State) : (passCycles n s).core.swapLeft = s.core.swapLeft := rfl

@[simp] theorem wrSL_pc (c : Core) (l : Nat) (d : BitVec 5) (v : Word) : (wrSL c l d v).pc = c.pc := rfl
@[simp] theorem wrSL_vregs (c : Core) (l : Nat) (d : BitVec 5) (v : Word) : (wrSL c l d v).vregs = c.vregs := rfl
@[simp] theorem wrSL_pregs (c : Core) (l : Nat) (d : BitVec 5) (v : Word) : (wrSL c l d v).pregs = c.pregs := rfl
@[simp] theorem wrSL_parityBad (c : Core) (l : Nat) (d : BitVec 5) (v : Word) : (wrSL c l d v).parityBad = c.parityBad := rfl
@[simp] theorem wrSL_spareV (c : Core) (l : Nat) (d : BitVec 5) (v : Word) : (wrSL c l d v).spareV = c.spareV := rfl
@[simp] theorem wrSL_spareP (c : Core) (l : Nat) (d : BitVec 5) (v : Word) : (wrSL c l d v).spareP = c.spareP := rfl
@[simp] theorem wrSL_inflight (c : Core) (l : Nat) (d : BitVec 5) (v : Word) : (wrSL c l d v).inflight = c.inflight := rfl
@[simp] theorem wrSL_halted (c : Core) (l : Nat) (d : BitVec 5) (v : Word) : (wrSL c l d v).halted = c.halted := rfl
@[simp] theorem wrSL_checkstop (c : Core) (l : Nat) (d : BitVec 5) (v : Word) : (wrSL c l d v).checkstop = c.checkstop := rfl
@[simp] theorem wrSL_retired (c : Core) (l : Nat) (d : BitVec 5) (v : Word) : (wrSL c l d v).retired = c.retired := rfl
@[simp] theorem wrSL_lb (c : Core) (l : Nat) (d : BitVec 5) (v : Word) : (wrSL c l d v).lb = c.lb := rfl
@[simp] theorem wrSL_lbcnt (c : Core) (l : Nat) (d : BitVec 5) (v : Word) : (wrSL c l d v).lbcnt = c.lbcnt := rfl
@[simp] theorem wrSL_vrb (c : Core) (l : Nat) (d : BitVec 5) (v : Word) : (wrSL c l d v).vrb = c.vrb := rfl
@[simp] theorem wrSL_prb (c : Core) (l : Nat) (d : BitVec 5) (v : Word) : (wrSL c l d v).prb = c.prb := rfl
@[simp] theorem wrSL_vflags (c : Core) (l : Nat) (d : BitVec 5) (v : Word) : (wrSL c l d v).vflags = c.vflags := rfl
@[simp] theorem wrSL_livemark (c : Core) (l : Nat) (d : BitVec 5) (v : Word) : (wrSL c l d v).livemark = c.livemark := rfl
@[simp] theorem wrSL_lanemap (c : Core) (l : Nat) (d : BitVec 5) (v : Word) : (wrSL c l d v).lanemap = c.lanemap := rfl
@[simp] theorem wrSL_cycle (c : Core) (l : Nat) (d : BitVec 5) (v : Word) : (wrSL c l d v).cycle = c.cycle := rfl
@[simp] theorem wrSL_ticks (c : Core) (l : Nat) (d : BitVec 5) (v : Word) : (wrSL c l d v).ticks = c.ticks := rfl
@[simp] theorem wrSL_team (c : Core) (l : Nat) (d : BitVec 5) (v : Word) : (wrSL c l d v).team = c.team := rfl
@[simp] theorem wrSL_tvec (c : Core) (l : Nat) (d : BitVec 5) (v : Word) : (wrSL c l d v).tvec = c.tvec := rfl
@[simp] theorem wrSL_evec (c : Core) (l : Nat) (d : BitVec 5) (v : Word) : (wrSL c l d v).evec = c.evec := rfl
@[simp] theorem wrSL_epc (c : Core) (l : Nat) (d : BitVec 5) (v : Word) : (wrSL c l d v).epc = c.epc := rfl
@[simp] theorem wrSL_tcause (c : Core) (l : Nat) (d : BitVec 5) (v : Word) : (wrSL c l d v).tcause = c.tcause := rfl
@[simp] theorem wrSL_tval (c : Core) (l : Nat) (d : BitVec 5) (v : Word) : (wrSL c l d v).tval = c.tval := rfl
@[simp] theorem wrSL_tstat (c : Core) (l : Nat) (d : BitVec 5) (v : Word) : (wrSL c l d v).tstat = c.tstat := rfl
@[simp] theorem wrSL_tbund0 (c : Core) (l : Nat) (d : BitVec 5) (v : Word) : (wrSL c l d v).tbund0 = c.tbund0 := rfl
@[simp] theorem wrSL_tbund1 (c : Core) (l : Nat) (d : BitVec 5) (v : Word) : (wrSL c l d v).tbund1 = c.tbund1 := rfl
@[simp] theorem wrSL_tscr0 (c : Core) (l : Nat) (d : BitVec 5) (v : Word) : (wrSL c l d v).tscr0 = c.tscr0 := rfl
@[simp] theorem wrSL_tscr1 (c : Core) (l : Nat) (d : BitVec 5) (v : Word) : (wrSL c l d v).tscr1 = c.tscr1 := rfl
@[simp] theorem wrSL_cmem (c : Core) (l : Nat) (d : BitVec 5) (v : Word) : (wrSL c l d v).cmem = c.cmem := rfl
@[simp] theorem wrSL_icache (c : Core) (l : Nat) (d : BitVec 5) (v : Word) : (wrSL c l d v).icache = c.icache := rfl
@[simp] theorem wrSL_cpath (c : Core) (l : Nat) (d : BitVec 5) (v : Word) : (wrSL c l d v).cpath = c.cpath := rfl
@[simp] theorem wrSL_sb (c : Core) (l : Nat) (d : BitVec 5) (v : Word) : (wrSL c l d v).sb = c.sb := rfl
@[simp] theorem wrSL_rows (c : Core) (l : Nat) (d : BitVec 5) (v : Word) : (wrSL c l d v).rows = c.rows := rfl
@[simp] theorem wrSL_badRows (c : Core) (l : Nat) (d : BitVec 5) (v : Word) : (wrSL c l d v).badRows = c.badRows := rfl
@[simp] theorem wrSL_slots (c : Core) (l : Nat) (d : BitVec 5) (v : Word) : (wrSL c l d v).slots = c.slots := rfl
@[simp] theorem wrSL_badSlots (c : Core) (l : Nat) (d : BitVec 5) (v : Word) : (wrSL c l d v).badSlots = c.badSlots := rfl
@[simp] theorem wrSL_mdq (c : Core) (l : Nat) (d : BitVec 5) (v : Word) : (wrSL c l d v).mdq = c.mdq := rfl
@[simp] theorem wrSL_tiles (c : Core) (l : Nat) (d : BitVec 5) (v : Word) : (wrSL c l d v).tiles = c.tiles := rfl
@[simp] theorem wrSL_badTiles (c : Core) (l : Nat) (d : BitVec 5) (v : Word) : (wrSL c l d v).badTiles = c.badTiles := rfl
@[simp] theorem wrSL_resume0 (c : Core) (l : Nat) (d : BitVec 5) (v : Word) : (wrSL c l d v).resume0 = c.resume0 := rfl
@[simp] theorem wrSL_resume1 (c : Core) (l : Nat) (d : BitVec 5) (v : Word) : (wrSL c l d v).resume1 = c.resume1 := rfl
@[simp] theorem wrSL_shadows (c : Core) (l : Nat) (d : BitVec 5) (v : Word) : (wrSL c l d v).shadows = c.shadows := rfl
@[simp] theorem wrSL_pal0 (c : Core) (l : Nat) (d : BitVec 5) (v : Word) : (wrSL c l d v).pal0 = c.pal0 := rfl
@[simp] theorem wrSL_pal1 (c : Core) (l : Nat) (d : BitVec 5) (v : Word) : (wrSL c l d v).pal1 = c.pal1 := rfl
@[simp] theorem wrSL_rings (c : Core) (l : Nat) (d : BitVec 5) (v : Word) : (wrSL c l d v).rings = c.rings := rfl
@[simp] theorem wrSL_tl (c : Core) (l : Nat) (d : BitVec 5) (v : Word) : (wrSL c l d v).tl = c.tl := rfl
@[simp] theorem wrSL_tags (c : Core) (l : Nat) (d : BitVec 5) (v : Word) : (wrSL c l d v).tags = c.tags := rfl
@[simp] theorem wrSL_nestMX (c : Core) (l : Nat) (d : BitVec 5) (v : Word) : (wrSL c l d v).nestMX = c.nestMX := rfl
@[simp] theorem wrSL_nestSK (c : Core) (l : Nat) (d : BitVec 5) (v : Word) : (wrSL c l d v).nestSK = c.nestSK := rfl
@[simp] theorem wrSL_skCounted (c : Core) (l : Nat) (d : BitVec 5) (v : Word) : (wrSL c l d v).skCounted = c.skCounted := rfl
@[simp] theorem wrSL_xstop (c : Core) (l : Nat) (d : BitVec 5) (v : Word) : (wrSL c l d v).xstop = c.xstop := rfl
@[simp] theorem wrSL_grantMX (c : Core) (l : Nat) (d : BitVec 5) (v : Word) : (wrSL c l d v).grantMX = c.grantMX := rfl
@[simp] theorem wrSL_grantSK (c : Core) (l : Nat) (d : BitVec 5) (v : Word) : (wrSL c l d v).grantSK = c.grantSK := rfl
@[simp] theorem wrSL_pausedMX (c : Core) (l : Nat) (d : BitVec 5) (v : Word) : (wrSL c l d v).pausedMX = c.pausedMX := rfl
@[simp] theorem wrSL_pausedSK (c : Core) (l : Nat) (d : BitVec 5) (v : Word) : (wrSL c l d v).pausedSK = c.pausedSK := rfl
@[simp] theorem wrSL_abortPend (c : Core) (l : Nat) (d : BitVec 5) (v : Word) : (wrSL c l d v).abortPend = c.abortPend := rfl
@[simp] theorem wrSL_groups (c : Core) (l : Nat) (d : BitVec 5) (v : Word) : (wrSL c l d v).groups = c.groups := rfl
@[simp] theorem wrSL_walkers (c : Core) (l : Nat) (d : BitVec 5) (v : Word) : (wrSL c l d v).walkers = c.walkers := rfl
@[simp] theorem wrSL_cmwait (c : Core) (l : Nat) (d : BitVec 5) (v : Word) : (wrSL c l d v).cmwait = c.cmwait := rfl
@[simp] theorem wrSL_chain (c : Core) (l : Nat) (d : BitVec 5) (v : Word) : (wrSL c l d v).chain = c.chain := rfl
@[simp] theorem wrSL_swapLeft (c : Core) (l : Nat) (d : BitVec 5) (v : Word) : (wrSL c l d v).swapLeft = c.swapLeft := rfl

/-- Landing results changes the vector and predicate registers, the marks of wrong parity and the results in flight alone. -/
theorem landFold_eq (l : List Inflight) : ∀ c : Core, ∃ v p b,
    l.foldl landOne c = { c with vregs := v, pregs := p, parityBad := b } := by
  induction l with
  | nil => exact fun c => ⟨c.vregs, c.pregs, c.parityBad, rfl⟩
  | cons f r ih => exact fun c => ⟨_, _, _, (ih (landOne c f)).choose_spec.choose_spec.choose_spec⟩

/-- Landing results marks no slice: it writes slices whole, with their parity (R91). -/
theorem landFold_parity (l : List Inflight) : ∀ (c : Core) (e), e ∈ (l.foldl landOne c).parityBad → e ∈ c.parityBad := by
  induction l with
  | nil => exact fun _ _ h => h
  | cons f r ih => exact fun c e h => (List.mem_filter.mp (ih (landOne c f) e h)).1

/-- What `landTo` leaves, for some vector and predicate registers and marks of wrong parity. -/
theorem landTo_eq (t : Nat) (c : Core) : ∃ v p b, landTo t c =
    { c with vregs := v, pregs := p, parityBad := b, inflight := c.inflight.filter fun f => decide (t < f.land) } := by
  obtain ⟨v, p, b, h⟩ := landFold_eq (sortLand (c.inflight.filter fun f => decide (f.land ≤ t))) c
  exact ⟨v, p, b, by simp only [landTo, h]⟩

theorem landTo_parity (t : Nat) (c : Core) (e) (h : e ∈ (landTo t c).parityBad) : e ∈ c.parityBad := landFold_parity _ c e h

@[simp] theorem landTo_inflight (t : Nat) (c : Core) : (landTo t c).inflight = c.inflight.filter fun f => decide (t < f.land) := rfl
@[simp] theorem landTo_pc (t : Nat) (c : Core) : (landTo t c).pc = c.pc := by obtain ⟨v, p, b, h⟩ := landTo_eq t c; rw [h]
@[simp] theorem landTo_sregs (t : Nat) (c : Core) : (landTo t c).sregs = c.sregs := by obtain ⟨v, p, b, h⟩ := landTo_eq t c; rw [h]
@[simp] theorem landTo_pend (t : Nat) (c : Core) : (landTo t c).pend = c.pend := by obtain ⟨v, p, b, h⟩ := landTo_eq t c; rw [h]
@[simp] theorem landTo_spareV (t : Nat) (c : Core) : (landTo t c).spareV = c.spareV := by obtain ⟨v, p, b, h⟩ := landTo_eq t c; rw [h]
@[simp] theorem landTo_spareP (t : Nat) (c : Core) : (landTo t c).spareP = c.spareP := by obtain ⟨v, p, b, h⟩ := landTo_eq t c; rw [h]
@[simp] theorem landTo_halted (t : Nat) (c : Core) : (landTo t c).halted = c.halted := by obtain ⟨v, p, b, h⟩ := landTo_eq t c; rw [h]
@[simp] theorem landTo_checkstop (t : Nat) (c : Core) : (landTo t c).checkstop = c.checkstop := by obtain ⟨v, p, b, h⟩ := landTo_eq t c; rw [h]
@[simp] theorem landTo_retired (t : Nat) (c : Core) : (landTo t c).retired = c.retired := by obtain ⟨v, p, b, h⟩ := landTo_eq t c; rw [h]
@[simp] theorem landTo_lb (t : Nat) (c : Core) : (landTo t c).lb = c.lb := by obtain ⟨v, p, b, h⟩ := landTo_eq t c; rw [h]
@[simp] theorem landTo_lbcnt (t : Nat) (c : Core) : (landTo t c).lbcnt = c.lbcnt := by obtain ⟨v, p, b, h⟩ := landTo_eq t c; rw [h]
@[simp] theorem landTo_vrb (t : Nat) (c : Core) : (landTo t c).vrb = c.vrb := by obtain ⟨v, p, b, h⟩ := landTo_eq t c; rw [h]
@[simp] theorem landTo_prb (t : Nat) (c : Core) : (landTo t c).prb = c.prb := by obtain ⟨v, p, b, h⟩ := landTo_eq t c; rw [h]
@[simp] theorem landTo_vflags (t : Nat) (c : Core) : (landTo t c).vflags = c.vflags := by obtain ⟨v, p, b, h⟩ := landTo_eq t c; rw [h]
@[simp] theorem landTo_livemark (t : Nat) (c : Core) : (landTo t c).livemark = c.livemark := by obtain ⟨v, p, b, h⟩ := landTo_eq t c; rw [h]
@[simp] theorem landTo_lanemap (t : Nat) (c : Core) : (landTo t c).lanemap = c.lanemap := by obtain ⟨v, p, b, h⟩ := landTo_eq t c; rw [h]
@[simp] theorem landTo_cycle (t : Nat) (c : Core) : (landTo t c).cycle = c.cycle := by obtain ⟨v, p, b, h⟩ := landTo_eq t c; rw [h]
@[simp] theorem landTo_ticks (t : Nat) (c : Core) : (landTo t c).ticks = c.ticks := by obtain ⟨v, p, b, h⟩ := landTo_eq t c; rw [h]
@[simp] theorem landTo_team (t : Nat) (c : Core) : (landTo t c).team = c.team := by obtain ⟨v, p, b, h⟩ := landTo_eq t c; rw [h]
@[simp] theorem landTo_tvec (t : Nat) (c : Core) : (landTo t c).tvec = c.tvec := by obtain ⟨v, p, b, h⟩ := landTo_eq t c; rw [h]
@[simp] theorem landTo_evec (t : Nat) (c : Core) : (landTo t c).evec = c.evec := by obtain ⟨v, p, b, h⟩ := landTo_eq t c; rw [h]
@[simp] theorem landTo_epc (t : Nat) (c : Core) : (landTo t c).epc = c.epc := by obtain ⟨v, p, b, h⟩ := landTo_eq t c; rw [h]
@[simp] theorem landTo_tcause (t : Nat) (c : Core) : (landTo t c).tcause = c.tcause := by obtain ⟨v, p, b, h⟩ := landTo_eq t c; rw [h]
@[simp] theorem landTo_tval (t : Nat) (c : Core) : (landTo t c).tval = c.tval := by obtain ⟨v, p, b, h⟩ := landTo_eq t c; rw [h]
@[simp] theorem landTo_tstat (t : Nat) (c : Core) : (landTo t c).tstat = c.tstat := by obtain ⟨v, p, b, h⟩ := landTo_eq t c; rw [h]
@[simp] theorem landTo_tbund0 (t : Nat) (c : Core) : (landTo t c).tbund0 = c.tbund0 := by obtain ⟨v, p, b, h⟩ := landTo_eq t c; rw [h]
@[simp] theorem landTo_tbund1 (t : Nat) (c : Core) : (landTo t c).tbund1 = c.tbund1 := by obtain ⟨v, p, b, h⟩ := landTo_eq t c; rw [h]
@[simp] theorem landTo_tscr0 (t : Nat) (c : Core) : (landTo t c).tscr0 = c.tscr0 := by obtain ⟨v, p, b, h⟩ := landTo_eq t c; rw [h]
@[simp] theorem landTo_tscr1 (t : Nat) (c : Core) : (landTo t c).tscr1 = c.tscr1 := by obtain ⟨v, p, b, h⟩ := landTo_eq t c; rw [h]
@[simp] theorem landTo_cmem (t : Nat) (c : Core) : (landTo t c).cmem = c.cmem := by obtain ⟨v, p, b, h⟩ := landTo_eq t c; rw [h]
@[simp] theorem landTo_icache (t : Nat) (c : Core) : (landTo t c).icache = c.icache := by obtain ⟨v, p, b, h⟩ := landTo_eq t c; rw [h]
@[simp] theorem landTo_cpath (t : Nat) (c : Core) : (landTo t c).cpath = c.cpath := by obtain ⟨v, p, b, h⟩ := landTo_eq t c; rw [h]
@[simp] theorem landTo_sb (t : Nat) (c : Core) : (landTo t c).sb = c.sb := by obtain ⟨v, p, b, h⟩ := landTo_eq t c; rw [h]
@[simp] theorem landTo_rows (t : Nat) (c : Core) : (landTo t c).rows = c.rows := by obtain ⟨v, p, b, h⟩ := landTo_eq t c; rw [h]
@[simp] theorem landTo_badRows (t : Nat) (c : Core) : (landTo t c).badRows = c.badRows := by obtain ⟨v, p, b, h⟩ := landTo_eq t c; rw [h]
@[simp] theorem landTo_slots (t : Nat) (c : Core) : (landTo t c).slots = c.slots := by obtain ⟨v, p, b, h⟩ := landTo_eq t c; rw [h]
@[simp] theorem landTo_badSlots (t : Nat) (c : Core) : (landTo t c).badSlots = c.badSlots := by obtain ⟨v, p, b, h⟩ := landTo_eq t c; rw [h]
@[simp] theorem landTo_mdq (t : Nat) (c : Core) : (landTo t c).mdq = c.mdq := by obtain ⟨v, p, b, h⟩ := landTo_eq t c; rw [h]
@[simp] theorem landTo_tiles (t : Nat) (c : Core) : (landTo t c).tiles = c.tiles := by obtain ⟨v, p, b, h⟩ := landTo_eq t c; rw [h]
@[simp] theorem landTo_badTiles (t : Nat) (c : Core) : (landTo t c).badTiles = c.badTiles := by obtain ⟨v, p, b, h⟩ := landTo_eq t c; rw [h]
@[simp] theorem landTo_resume0 (t : Nat) (c : Core) : (landTo t c).resume0 = c.resume0 := by obtain ⟨v, p, b, h⟩ := landTo_eq t c; rw [h]
@[simp] theorem landTo_resume1 (t : Nat) (c : Core) : (landTo t c).resume1 = c.resume1 := by obtain ⟨v, p, b, h⟩ := landTo_eq t c; rw [h]
@[simp] theorem landTo_shadows (t : Nat) (c : Core) : (landTo t c).shadows = c.shadows := by obtain ⟨v, p, b, h⟩ := landTo_eq t c; rw [h]
@[simp] theorem landTo_pal0 (t : Nat) (c : Core) : (landTo t c).pal0 = c.pal0 := by obtain ⟨v, p, b, h⟩ := landTo_eq t c; rw [h]
@[simp] theorem landTo_pal1 (t : Nat) (c : Core) : (landTo t c).pal1 = c.pal1 := by obtain ⟨v, p, b, h⟩ := landTo_eq t c; rw [h]
@[simp] theorem landTo_rings (t : Nat) (c : Core) : (landTo t c).rings = c.rings := by obtain ⟨v, p, b, h⟩ := landTo_eq t c; rw [h]
@[simp] theorem landTo_tl (t : Nat) (c : Core) : (landTo t c).tl = c.tl := by obtain ⟨v, p, b, h⟩ := landTo_eq t c; rw [h]
@[simp] theorem landTo_tags (t : Nat) (c : Core) : (landTo t c).tags = c.tags := by obtain ⟨v, p, b, h⟩ := landTo_eq t c; rw [h]
@[simp] theorem landTo_nestMX (t : Nat) (c : Core) : (landTo t c).nestMX = c.nestMX := by obtain ⟨v, p, b, h⟩ := landTo_eq t c; rw [h]
@[simp] theorem landTo_nestSK (t : Nat) (c : Core) : (landTo t c).nestSK = c.nestSK := by obtain ⟨v, p, b, h⟩ := landTo_eq t c; rw [h]
@[simp] theorem landTo_skCounted (t : Nat) (c : Core) : (landTo t c).skCounted = c.skCounted := by obtain ⟨v, p, b, h⟩ := landTo_eq t c; rw [h]
@[simp] theorem landTo_xstop (t : Nat) (c : Core) : (landTo t c).xstop = c.xstop := by obtain ⟨v, p, b, h⟩ := landTo_eq t c; rw [h]
@[simp] theorem landTo_grantMX (t : Nat) (c : Core) : (landTo t c).grantMX = c.grantMX := by obtain ⟨v, p, b, h⟩ := landTo_eq t c; rw [h]
@[simp] theorem landTo_grantSK (t : Nat) (c : Core) : (landTo t c).grantSK = c.grantSK := by obtain ⟨v, p, b, h⟩ := landTo_eq t c; rw [h]
@[simp] theorem landTo_pausedMX (t : Nat) (c : Core) : (landTo t c).pausedMX = c.pausedMX := by obtain ⟨v, p, b, h⟩ := landTo_eq t c; rw [h]
@[simp] theorem landTo_pausedSK (t : Nat) (c : Core) : (landTo t c).pausedSK = c.pausedSK := by obtain ⟨v, p, b, h⟩ := landTo_eq t c; rw [h]
@[simp] theorem landTo_abortPend (t : Nat) (c : Core) : (landTo t c).abortPend = c.abortPend := by obtain ⟨v, p, b, h⟩ := landTo_eq t c; rw [h]
@[simp] theorem landTo_groups (t : Nat) (c : Core) : (landTo t c).groups = c.groups := by obtain ⟨v, p, b, h⟩ := landTo_eq t c; rw [h]
@[simp] theorem landTo_walkers (t : Nat) (c : Core) : (landTo t c).walkers = c.walkers := by obtain ⟨v, p, b, h⟩ := landTo_eq t c; rw [h]
@[simp] theorem landTo_cmwait (t : Nat) (c : Core) : (landTo t c).cmwait = c.cmwait := by obtain ⟨v, p, b, h⟩ := landTo_eq t c; rw [h]
@[simp] theorem landTo_chain (t : Nat) (c : Core) : (landTo t c).chain = c.chain := by obtain ⟨v, p, b, h⟩ := landTo_eq t c; rw [h]
@[simp] theorem landTo_swapLeft (t : Nat) (c : Core) : (landTo t c).swapLeft = c.swapLeft := by obtain ⟨v, p, b, h⟩ := landTo_eq t c; rw [h]

/-- The core in focus, by its number. -/
@[simp] theorem getCore_coreNo (s : State) : getCore s s.coreNo = s.core := if_pos rfl

end Sys2Proof.Machine
end

