-- ==== Sys2Proof/Laws/Issue.lean ====
section
/-! SUPPORT. What the issue of a bundle with one syllable does, said once (R50 to R57): the lemmas that proofs about an S, V or
M instruction cite instead of unfolding `issue`. -/
namespace Sys2Proof.Machine

@[simp] theorem atIssue_core (s : State) : (atIssue s).core = landTo s.core.ticks s.core := rfl
@[simp] theorem atIssue_mem (s : State) : (atIssue s).mem = s.mem := rfl

/-- A scalar register reads the same before and after results land. -/
@[simp] theorem rdS_landTo (t : Nat) (c : Core) (r : BitVec 5) : rdS (landTo t c) r = rdS c r := by simp [rdS]

/-- Landing completes no scalar write. -/
@[simp] theorem pending_landTo (t : Nat) (c : Core) (r : BitVec 5) : pending (landTo t c) r = pending c r := by simp [pending]

/-- Landing rotates nothing. -/
@[simp] theorem physV_landTo (t : Nat) (c : Core) (n : Nat) : physV (landTo t c) n = physV c n := by simp [physV]
@[simp] theorem physP_landTo (t : Nat) (c : Core) (n : Nat) : physP (landTo t c) n = physP c n := by simp [physP]

@[simp] theorem laneUsed_landTo (t : Nat) (c : Core) (l : Nat) : laneUsed (landTo t c) l = laneUsed c l := by simp [laneUsed]

/-- A slot that reads no register with wrong parity reads none after results have landed. -/
theorem parityHit_landTo (t : Nat) (c : Core) (a : Sem) (h : parityHit c a = none) : parityHit (landTo t c) a = none := by
  have hv : physV (landTo t c) = physV c := funext (physV_landTo t c)
  have hp : physP (landTo t c) = physP c := funext (physP_landTo t c)
  simp only [parityHit, Option.map_eq_none_iff, List.find?_eq_none, laneUsed_landTo, landTo_lanemap, hv, hp] at h ⊢
  exact fun e he => h e (landTo_parity t c e he)

/-- A slot that reads no vector and no predicate register meets no parity error. -/
theorem parityHit_none (c : Core) (a : Sem) (hv : a.vreads = []) (hp : a.preads = []) (hh : a.vhalf = [] := by rfl) :
    parityHit c a = none := by
  simp [parityHit, hv, hp, hh]

@[simp] theorem parityHit_nop (c : Core) : parityHit c nopSem = none := parityHit_none c _ rfl rfl

/-- A core that does not run issues nothing. -/
theorem issue_stopped {s : State} (h : running s = false) (n : Nat) (a b c : Sem) : issue n a b c s = s := by simp [issue, h]

/-- A pending write of a register that a slot uses stalls the whole bundle (R52). -/
theorem issue_pending {s : State} (h : running s = true) (n : Nat) (a b c : Sem)
    (hp : (a.uses ++ b.uses ++ c.uses).any (pending s.core) = true) : issue n a b c s = stallCycle (atIssue s) := by
  have e : ∀ l : List (BitVec 5), l.any (pending (landTo s.core.ticks s.core)) = l.any (pending s.core) := fun l =>
    congrArg l.any (funext (pending_landTo s.core.ticks s.core))
  simp only [issue, h, Bool.not_true, Bool.false_eq_true, if_false, e, hp, if_true, atIssue, withCore]

/-- A bundle with one S syllable whose registers are free runs its effect on the state at issue. -/
theorem issueS_eq {s : State} (h : running s = true) (i : BitVec 3) (a : Sem) (hu : a.uses.any (pending s.core) = false)
    (hp : parityHit s.core a = none) : issueS i a s =
      finish i.toNat (a.eff (atIssue s) (atIssue s)) (.done ((a.eff (atIssue s) (atIssue s)).state (atIssue s)) none)
        (.done ((a.eff (atIssue s) (atIssue s)).state (atIssue s)) none) (atIssue s)
        ((a.eff (atIssue s) (atIssue s)).state (atIssue s)) := by
  have e : ∀ l : List (BitVec 5), l.any (pending (landTo s.core.ticks s.core)) = l.any (pending s.core) := fun l =>
    congrArg l.any (funext (pending_landTo s.core.ticks s.core))
  have hp' := parityHit_landTo s.core.ticks _ _ hp
  have hn := parityHit_nop (landTo s.core.ticks s.core)
  simp only [issueS, issue, h, nopSem, atIssue, withCore, List.append_nil, e, hu, hp', SlotOut.state] at hn ⊢
  simp [hn]

/-- A bundle with one V syllable, likewise. -/
theorem issueV_eq {s : State} (h : running s = true) (a : Sem) (hu : a.uses.any (pending s.core) = false)
    (hp : parityHit s.core a = none) : issueV a s =
      finish 0 (.done (atIssue s) none) (a.eff (atIssue s) (atIssue s))
        (.done ((a.eff (atIssue s) (atIssue s)).state (atIssue s)) none) (atIssue s)
        ((a.eff (atIssue s) (atIssue s)).state (atIssue s)) := by
  have e : ∀ l : List (BitVec 5), l.any (pending (landTo s.core.ticks s.core)) = l.any (pending s.core) := fun l =>
    congrArg l.any (funext (pending_landTo s.core.ticks s.core))
  have hp' := parityHit_landTo s.core.ticks _ _ hp
  have hn := parityHit_nop (landTo s.core.ticks s.core)
  simp only [issueV, issue, h, nopSem, atIssue, withCore, List.nil_append, List.append_nil, e, hu, hp', SlotOut.state] at hn ⊢
  simp [hn]

/-- A bundle with one M syllable, likewise. -/
theorem issueM_eq {s : State} (h : running s = true) (a : Sem) (hu : a.uses.any (pending s.core) = false)
    (hp : parityHit s.core a = none) : issueM a s =
      finish 0 (.done (atIssue s) none) (.done (atIssue s) none) (a.eff (atIssue s) (atIssue s)) (atIssue s)
        ((a.eff (atIssue s) (atIssue s)).state (atIssue s)) := by
  have e : ∀ l : List (BitVec 5), l.any (pending (landTo s.core.ticks s.core)) = l.any (pending s.core) := fun l =>
    congrArg l.any (funext (pending_landTo s.core.ticks s.core))
  have hp' := parityHit_landTo s.core.ticks _ _ hp
  have hn := parityHit_nop (landTo s.core.ticks s.core)
  simp only [issueM, issue, h, nopSem, atIssue, withCore, List.nil_append, e, hu, hp', SlotOut.state] at hn ⊢
  simp [hn]

/-- The S slot takes effect: the bundle retires, to a target when it transfers control (R51, R69). -/
theorem issueS_done {s : State} {i : BitVec 3} {a : Sem} {u : State} {t : Option Word} (h : running s = true)
    (hu : a.uses.any (pending s.core) = false) (hp : parityHit s.core a = none)
    (he : a.eff (atIssue s) (atIssue s) = .done u t) : issueS i a s = retire i.toNat t u := by
  rw [issueS_eq h i a hu hp, he]; rfl

/-- The V slot takes effect. -/
theorem issueV_done {s : State} {a : Sem} {u : State} {t : Option Word} (h : running s = true)
    (hu : a.uses.any (pending s.core) = false) (hp : parityHit s.core a = none)
    (he : a.eff (atIssue s) (atIssue s) = .done u t) : issueV a s = retire 0 none u := by
  rw [issueV_eq h a hu hp, he]; rfl

/-- The M slot takes effect. -/
theorem issueM_done {s : State} {a : Sem} {u : State} {t : Option Word} (h : running s = true)
    (hu : a.uses.any (pending s.core) = false) (hp : parityHit s.core a = none)
    (he : a.eff (atIssue s) (atIssue s) = .done u t) : issueM a s = retire 0 none u := by
  rw [issueM_eq h a hu hp, he]; rfl

/-- A stall of the S, V or M slot: nothing takes effect, and a cycle passes (R52). -/
theorem issueS_stall {s : State} {i : BitVec 3} {a : Sem} (h : running s = true) (hu : a.uses.any (pending s.core) = false)
    (hp : parityHit s.core a = none) (he : a.eff (atIssue s) (atIssue s) = .stall) :
    issueS i a s = stallCycle (atIssue s) := by
  rw [issueS_eq h i a hu hp, he]; rfl
theorem issueM_stall {s : State} {a : Sem} (h : running s = true) (hu : a.uses.any (pending s.core) = false)
    (hp : parityHit s.core a = none) (he : a.eff (atIssue s) (atIssue s) = .stall) : issueM a s = stallCycle (atIssue s) := by
  rw [issueM_eq h a hu hp, he]; rfl

/-- Only a trap that a memory access of the S slot raises has read tables (R263). -/
theorem trapTouch_other {t : Trap} (h : t.slot ≠ 1 ∨ [codeNotPresent, codeProt, codeVbus, codeBank].contains t.cause = false)
    (s : State) : trapTouch t s = s := by
  unfold trapTouch
  rw [if_neg]
  rintro ⟨h1, h2⟩
  obtain h | h := h
  · exact h h1
  · rw [h] at h2; cases h2

/-- A trap of the S, V or M slot: no slot takes effect, and the trap is taken at the bundle (R57). -/
theorem issueS_trap {s : State} {i : BitVec 3} {a : Sem} {t : Trap} (h : running s = true)
    (hu : a.uses.any (pending s.core) = false) (hp : parityHit s.core a = none)
    (he : a.eff (atIssue s) (atIssue s) = .trap t) : issueS i a s = takeTrap t s.core.pc s.core.ticks (trapTouch t (atIssue s)) := by
  rw [issueS_eq h i a hu hp, he]
  simp [finish, SlotOut.isTick, SlotOut.isStall, firstBad]
theorem issueV_trap {s : State} {a : Sem} {t : Trap} (h : running s = true)
    (hu : a.uses.any (pending s.core) = false) (hp : parityHit s.core a = none)
    (he : a.eff (atIssue s) (atIssue s) = .trap t) : issueV a s = takeTrap t s.core.pc s.core.ticks (trapTouch t (atIssue s)) := by
  rw [issueV_eq h a hu hp, he]
  simp [finish, SlotOut.isTick, SlotOut.isStall, firstBad]
theorem issueM_trap {s : State} {a : Sem} {t : Trap} (h : running s = true)
    (hu : a.uses.any (pending s.core) = false) (hp : parityHit s.core a = none)
    (he : a.eff (atIssue s) (atIssue s) = .trap t) : issueM a s = takeTrap t s.core.pc s.core.ticks (trapTouch t (atIssue s)) := by
  rw [issueM_eq h a hu hp, he]
  simp [finish, SlotOut.isTick, SlotOut.isStall, firstBad]

/-- What a bundle of one S syllable can do when its slot either takes effect, stalls or traps: it is left as it was, waits, takes a
trap, or retires. -/
theorem issueS_cases (i : BitVec 3) (a : Sem) (s : State) (hp : parityHit s.core a = none)
    (he : ∀ l, (∃ u t, a.eff l l = .done u t) ∨ a.eff l l = .stall ∨ ∃ t, a.eff l l = .trap t) :
    issueS i a s = s ∨ issueS i a s = stallCycle (atIssue s) ∨
    (∃ u t, a.eff (atIssue s) (atIssue s) = .done u t ∧ issueS i a s = retire i.toNat t u) ∨
    ∃ t, a.eff (atIssue s) (atIssue s) = .trap t ∧ issueS i a s = takeTrap t s.core.pc s.core.ticks (trapTouch t (atIssue s)) := by
  cases h : running s with
  | false => exact .inl (issue_stopped h _ _ _ _)
  | true =>
    cases hu : a.uses.any (pending s.core) with
    | true => exact .inr (.inl (issue_pending h _ _ _ _ (by simpa [nopSem] using hu)))
    | false =>
      obtain ⟨u, t, h1⟩ | h1 | ⟨t, h1⟩ := he (atIssue s)
      · exact .inr (.inr (.inl ⟨u, t, h1, issueS_done h hu hp h1⟩))
      · exact .inr (.inl (issueS_stall h hu hp h1))
      · exact .inr (.inr (.inr ⟨t, h1, issueS_trap h hu hp h1⟩))

end Sys2Proof.Machine
end

