-- ==== Sys2Proof/Laws/Sparse.lean ====
section
/-! SUPPORT. What sparse tables and memory read after an update, and that every update keeps their canonical form. -/
namespace Sys2Proof.Machine

section
variable {α : Type}

@[simp] theorem Sparse.get_nil (d : α) (i : Nat) : Sparse.get d [] i = d := rfl

theorem Sparse.get_erase (d : α) (m : Sparse α) (i j : Nat) :
    Sparse.get d (Sparse.erase m i) j = if j = i then d else Sparse.get d m j := by
  induction m with
  | nil => simp [Sparse.erase]
  | cons e r ih =>
    obtain ⟨k, v⟩ := e
    by_cases h : i = k
    · subst h; simp only [Sparse.erase, if_true, ih, Sparse.get]; split <;> rfl
    · simp only [Sparse.erase, h, if_false, Sparse.get, ih]
      by_cases hj : j = k
      · simp [hj, Ne.symm h]
      · simp [hj]

theorem Sparse.get_insert (d : α) (m : Sparse α) (i j : Nat) (x : α) (h : Sparse.find m i = none) :
    Sparse.get d (Sparse.insert m i x) j = if j = i then x else Sparse.get d m j := by
  induction m with
  | nil => simp [Sparse.insert, Sparse.get]
  | cons e r ih =>
    obtain ⟨k, v⟩ := e
    have hk : i ≠ k := by intro e; simp [Sparse.find, e] at h
    have hr : Sparse.find r i = none := by simpa [Sparse.find, hk] using h
    by_cases hlt : i < k
    · simp [Sparse.insert, hlt, Sparse.get]
    · simp only [Sparse.insert, hlt, if_false, Sparse.get, ih hr]
      by_cases hj : j = k
      · simp [hj, Ne.symm hk]
      · simp [hj]

theorem Sparse.find_erase (m : Sparse α) (i : Nat) : Sparse.find (Sparse.erase m i) i = none := by
  induction m with
  | nil => rfl
  | cons e r ih =>
    obtain ⟨k, v⟩ := e
    by_cases h : i = k
    · simp [Sparse.erase, h]; simpa [h] using ih
    · simp [Sparse.erase, h, Sparse.find, ih]

variable [DecidableEq α]

/-- A table reads at a key what was last set there, whatever its form. -/
theorem Sparse.get_set (d : α) (m : Sparse α) (i j : Nat) (x : α) :
    Sparse.get d (Sparse.set d m i x) j = if j = i then x else Sparse.get d m j := by
  unfold Sparse.set
  split
  · rename_i h; subst h; exact Sparse.get_erase _ m i j
  · rw [Sparse.get_insert d _ i j x (Sparse.find_erase m i), Sparse.get_erase]; split <;> rfl

@[simp] theorem Sparse.get_set_same (d : α) (m : Sparse α) (i : Nat) (x : α) : Sparse.get d (Sparse.set d m i x) i = x := by
  rw [Sparse.get_set, if_pos rfl]

theorem Sparse.get_set_ne (d : α) (m : Sparse α) {i j : Nat} (x : α) (h : j ≠ i) :
    Sparse.get d (Sparse.set d m i x) j = Sparse.get d m j := by
  rw [Sparse.get_set, if_neg h]

theorem Sparse.wfFrom_mono {d : α} {lo hi : Nat} {m : Sparse α} (h : lo ≤ hi) (w : Sparse.wfFrom d hi m = true) :
    Sparse.wfFrom d lo m = true := by
  cases m with
  | nil => rfl
  | cons e r => obtain ⟨k, v⟩ := e; simp only [Sparse.wfFrom, Bool.and_eq_true, decide_eq_true_eq] at *; exact ⟨⟨by omega, w.1.2⟩, w.2⟩

theorem Sparse.wfFrom_erase {d : α} {lo : Nat} {m : Sparse α} (i : Nat) (w : Sparse.wfFrom d lo m = true) :
    Sparse.wfFrom d lo (Sparse.erase m i) = true := by
  induction m generalizing lo with
  | nil => rfl
  | cons e r ih =>
    obtain ⟨k, v⟩ := e
    simp only [Sparse.wfFrom, Bool.and_eq_true, decide_eq_true_eq] at w
    simp only [Sparse.erase]
    split
    · exact Sparse.wfFrom_mono (by omega) (ih w.2)
    · simp only [Sparse.wfFrom, Bool.and_eq_true, decide_eq_true_eq]; exact ⟨w.1, ih w.2⟩

theorem Sparse.wfFrom_insert {d : α} {lo : Nat} {m : Sparse α} {i : Nat} {x : α} (w : Sparse.wfFrom d lo m = true) (hl : lo ≤ i)
    (hx : x ≠ d) (hf : Sparse.find m i = none) : Sparse.wfFrom d lo (Sparse.insert m i x) = true := by
  induction m generalizing lo with
  | nil => simp [Sparse.insert, Sparse.wfFrom, hl, hx]
  | cons e r ih =>
    obtain ⟨k, v⟩ := e
    have hk : i ≠ k := by intro e; simp [Sparse.find, e] at hf
    have hr : Sparse.find r i = none := by simpa [Sparse.find, hk] using hf
    simp only [Sparse.wfFrom, Bool.and_eq_true, decide_eq_true_eq] at w
    simp only [Sparse.insert]
    split <;> simp only [Sparse.wfFrom, Bool.and_eq_true, decide_eq_true_eq]
    · exact ⟨⟨hl, hx⟩, ⟨by omega, w.1.2⟩, w.2⟩
    · exact ⟨w.1, ih w.2 (by omega) hr⟩

/-- Setting a key keeps the canonical form. -/
theorem Sparse.wf_set {d : α} {m : Sparse α} (i : Nat) (x : α) (w : Sparse.wf d m = true) : Sparse.wf d (Sparse.set d m i x) = true := by
  unfold Sparse.set
  split
  · exact Sparse.wfFrom_erase i w
  · exact Sparse.wfFrom_insert (Sparse.wfFrom_erase i w) (Nat.zero_le _) ‹_› (Sparse.find_erase m i)

/-- Dropping entries keeps the canonical form. -/
theorem Sparse.wfFrom_filter {d : α} {lo : Nat} {m : Sparse α} (p : Nat × α → Bool) (w : Sparse.wfFrom d lo m = true) :
    Sparse.wfFrom d lo (m.filter p) = true := by
  induction m generalizing lo with
  | nil => rfl
  | cons e r ih =>
    obtain ⟨k, v⟩ := e
    simp only [Sparse.wfFrom, Bool.and_eq_true, decide_eq_true_eq] at w
    simp only [List.filter_cons]
    split
    · simp only [Sparse.wfFrom, Bool.and_eq_true, decide_eq_true_eq]; exact ⟨w.1, ih w.2⟩
    · exact Sparse.wfFrom_mono (by omega) (ih w.2)

theorem Sparse.get_below {d : α} {lo i : Nat} {m : Sparse α} (w : Sparse.wfFrom d lo m = true) (h : i < lo) : Sparse.get d m i = d := by
  induction m generalizing lo with
  | nil => rfl
  | cons e r ih =>
    obtain ⟨k, v⟩ := e
    simp only [Sparse.wfFrom, Bool.and_eq_true, decide_eq_true_eq] at w
    simp only [Sparse.get]
    rw [if_neg (by omega)]; exact ih w.2 (by omega)

end

/-- A byte written is read back, and no other byte changes. -/
theorem Memory.read_write (m : Memory) (a x : Nat) (b : Byte) :
    Memory.read (Memory.write m a b) x = if x = a then b else Memory.read m x := Sparse.get_set _ m a x b

/-- A write keeps the canonical form. -/
theorem Memory.wf_write {m : Memory} (a : Nat) (b : Byte) (w : Memory.wf m = true) : Memory.wf (Memory.write m a b) = true :=
  Sparse.wf_set a b w

/-- Writes of consecutive bytes keep the canonical form. -/
theorem Memory.wf_writeL {m : Memory} (a : Nat) (l : List Byte) (w : Memory.wf m = true) : Memory.wf (Memory.writeL m a l) = true := by
  induction l generalizing m a with
  | nil => exact w
  | cons b r ih => exact ih (a + 1) (Memory.wf_write a b w)

/-- Dropping bytes keeps the canonical form. -/
theorem Memory.wf_filter {m : Memory} (p : Nat × Byte → Bool) (w : Memory.wf m = true) : Memory.wf (m.filter p) = true :=
  Sparse.wfFrom_filter p w

/-- Consecutive bytes written change no byte outside them. -/
theorem Memory.read_writeL_ne (m : Memory) (a x : Nat) (l : List Byte) (h : x < a ∨ a + l.length ≤ x) :
    Memory.read (Memory.writeL m a l) x = Memory.read m x := by
  induction l generalizing m a with
  | nil => rfl
  | cons b r ih =>
    simp only [List.length_cons] at h
    rw [Memory.writeL, ih _ _ (by omega), Memory.read_write, if_neg (by omega)]

end Sys2Proof.Machine
end

