-- ==== Sys2Proof/Tests/Slice0.lean ====
section
/-! SUPPORT. Tests: words written out from the spec, ill-formed operands, single steps on a small state, and states that meet
the hypotheses of the statements. -/
namespace Sys2Proof.Tests
open Sys2Proof.Machine Sys2Proof.Claims
set_option Elab.async false

/-- A package on which the thread of core 0 runs, with nothing but a page that the TLB holds. -/
def live : State := loadBundle State.reset 128 0

/-- Scalar registers set. -/
def withS (l : List (Nat × Word)) (s : State) : State :=
  withCore s { s.core with sregs := l.foldl (fun m e => Sparse.set 0 m e.1 e.2) s.core.sregs }

/-- A vector register set to bits. -/
def withV (n : Nat) (v : Row) (s : State) : State :=
  withCore s { s.core with vregs := Sparse.set VReg.zero s.core.vregs n { bits := v, pz := 0 } }

/-- What is asked of the next state; none after a stop. -/
def ask {α : Type} (o : Host.Outcome State Fault Refusal) (f : State → α) : Option α :=
  match o with
  | .next t => some (f t)
  | .fault _ => none
  | .refused _ => none

/-- A scalar register after an instruction. -/
def reg (i : Instr) (s : State) (r : BitVec 5) : Option Word := ask (exec i s) fun t => rdS t.core r

/-- S1 and S2 hold two numbers. -/
def two (a b : Word) : State := withS [(1, a), (2, b)] live

-- Words of the spec's worked encodings (R67, R70, R302, R304, R305, R306, R404, R269, R113, R185, R207, R192, R308, R309, R313, R37).
theorem test_decode_extu : decodeS 0x0690A3C8 = .ok (.extu 0 4 5 15 8) := by rfl
theorem test_decode_loop : decodeS 0x0D0FFFFC = .ok (.loop 0 3 0x3FFFC) := by rfl
theorem test_decode_fence_u : decodeS 0x17000013 = .ok (.fenceU 0 3) := by rfl
theorem test_decode_atom : decodeS 0x1690435B = .ok (.atomAr 0 4 2 3 5 1 3) := by rfl
theorem test_decode_ldc : decodeS 0x1194C008 = .ok (.ldc 0 5 6 8) := by rfl
theorem test_decode_cinv : decodeS 0x17800000 = .ok (.cinv 0) := by rfl
theorem test_decode_publish : decodeS 0x1A800003 = .ok (.publish 0 3) := by rfl
theorem test_decode_setphase : decodeS 0x1B01000C = .ok (.setphase 0 8 12) := by rfl
theorem test_decode_vcmp : decodeV 0x202109020304 = .ok (.vcmp 2 1 9 2 3 4) := by rfl
theorem test_decode_vadd : decodeV 0x014302040600 = .ok (.vadd 4 3 2 4 6) := by rfl
theorem test_decode_claim : decodeM 0x223000000000 = .ok (.claim 17 1) := by rfl
theorem test_decode_mtc : decodeM 0x281000000000 = .ok (.mtc 0 0 4 0) := by rfl
theorem test_decode_accrd : decodeM 0x2C60A6800000 = .ok (.accrd 6 5 3 1) := by rfl
theorem test_decode_tlwait : decodeM 0x429000002000 = .ok (.tlwait 5 4 0 0 2) := by rfl
theorem test_decode_tlwait_core : decodeM 0x4280F0001000 = .ok (.tlwait 5 0 7 1 1) := by rfl
theorem test_decode_tladv : decodeM 0x468180000000 = .ok (.tladv 5 3) := by rfl
theorem test_decode_tagwait_all : decodeM 0x4CE000000000 = .ok (.tagwaitAll 7) := by rfl
theorem test_decode_tagwait_any : decodeM 0x49A000000000 = .ok (.tagwaitAny 13) := by rfl
theorem test_decode_cnop : decodeEntry 2 (0x4014240000000000 + 2 ^ 64 * 5) =
    .ok (.cnop 2 { wtl := 1, rtl := 1, tag := 9, arg := 0, waitv := 5, p0 := 0, p1 := 0, p2 := 0, p3 := 0 }) := by rfl
theorem test_decode_xloop : decodeX 0 (3 * 2 ^ 56) = .ok (.xloop 0 { flags := 0, op := 0, x1 := 0, x2 := 0, x3 := 0 }) := by rfl
theorem test_decode_nop_bundle : decodeBundle 0 = .ok { s := .nop 0, v := .vnop, m := .mnop } := by rfl
theorem test_decode_table_word : decodeTableWord 32 0x1A800003 = some (.publish 0 3) := by decide +kernel

-- What is no instruction (R22, R23, R53, R74).
theorem test_refuse_reserved : decodeV 0x7F0000000000 = .error .reservedOpcode := by rfl
theorem test_refuse_extension : decodeS 0x1C000000 = .error .extension ∧ decodeV 0xE00000000000 = .error .extension := ⟨rfl, rfl⟩
theorem test_refuse_clash : (decodeBundle (0x00840000 + 2 ^ 32 * 0x660001000000)).toOption = none := by decide +kernel
theorem test_refuse_trap_with_m : decodeBundle (0x19000005 + 2 ^ 80 * 0x220800000000) = .error (1, .reservedBits) := by rfl

-- One ill-formed term for each check of Instr.wf.
theorem smoke_field : Instr.wf (.extu 0 1 2 63 1) = false := by decide
theorem smoke_loop : Instr.wf (.loop 0 0 0) = false := by decide
theorem smoke_scope : Instr.wf (.fence 0 5) = false ∧ Instr.wf (.atomAcq 0 1 2 3 0 0 5) = false := by decide
theorem smoke_scope_unordered : Instr.wf (.lda 0 1 2 3 0 0 0 1) = false ∧ Instr.wf (.sta 0 1 2 3 0 0 1) = false := by decide
theorem smoke_lda_unsigned_d : Instr.wf (.lda 0 1 2 3 3 1 0 0) = false := by decide
theorem smoke_atom_op : Instr.wf (.atom 0 1 2 3 10 0) = false := by decide
theorem smoke_sysreg : Instr.wf (.mfs 0 1 0x003) = false ∧ Instr.wf (.mts 0 1 0x1FFF) = false := by decide
theorem smoke_type : Instr.wf (.vadd 8 0 2 4 6) = false ∧ Instr.wf (.vfma 4 0 1 2 3 4) = false ∧ Instr.wf (.vmulw 4 0 0x44 1 2) = false := by decide
theorem smoke_group_aligned : Instr.wf (.vadd 4 0 0x41 0x42 0x44) = false := by decide
theorem smoke_group_width : Instr.wf (.vadd 4 0 0x42 4 6) = false ∧ Instr.wf (.vmulw 0 0 2 4 6) = false := by decide
theorem smoke_immediates : Instr.wf (.vshli 0 0 1 2 8) = false ∧ Instr.wf (.vcmp 4 0 1 2 3 6) = false ∧ Instr.wf (.pseti 0 1 1025) = false ∧
    Instr.wf (.vslide 4 0 1 2 3 128) = false ∧ Instr.wf (.vsplati 0 0 1 256) = false := by decide
theorem smoke_formats : Instr.wf (.vcvt 12 0 1 2 18) = false ∧ Instr.wf (.vcbdec 4 0 1 2 0) = false ∧ Instr.wf (.scacc 11 0 1 2 80 0) = false ∧
    Instr.wf (.vppopc 0 0 1 2) = false ∧ Instr.wf (.vtopk 4 0 1 2 1 0) = false := by decide
theorem smoke_rows : Instr.wf (.vld 1 1 0 0) = false ∧ Instr.wf (.vst 2 2 0 0 0 0) = false ∧ Instr.wf (.vrmg 1 1 1 1 0 0) = false ∧
    Instr.wf (.vrmg 1 2 1 1 0 4) = false := by decide
theorem smoke_tiles : Instr.wf (.accrd 0 80 0 0) = false ∧ Instr.wf (.accrd 0 1 1 3) = false := by decide
theorem smoke_enq : Instr.wf (.enq 6 0 0 0 0 0) = false ∧ Instr.wf (.enq 0 0 7 1 0 0) = false ∧ Instr.wf (.enq 0 0 0 0 0 1) = false := by decide
theorem smoke_sync : Instr.wf (.tladv 1 0) = false ∧ Instr.wf (.tlwait 0 0 1 0 0) = false ∧ Instr.wf (.rvinit 24 0 0) = false ∧
    Instr.wf (.livemark 1 6145 0) = false := by decide
theorem smoke_commands : Instr.wf (.cnop 6 { wtl := 8, rtl := 0, tag := 0, arg := 0, waitv := 0, p0 := 0, p1 := 0, p2 := 0, p3 := 0 }) = false ∧
    Instr.wf (.opld { wtl := 9, rtl := 0, tag := 0, arg := 0, waitv := 0, p0 := 0, p1 := 0, p2 := 0, p3 := 0 }) = false ∧
    Instr.wf (.mmgo { wtl := 8, rtl := 0, tag := 0, arg := 0, waitv := 1, p0 := 0, p1 := 0, p2 := 0, p3 := 0 }) = false ∧
    Instr.wf (.nput { wtl := 0, rtl := 0, tag := 1, arg := 0, waitv := 0, p0 := 0, p1 := 0, p2 := 0, p3 := 0 }) = false := by decide

-- Single scalar steps (R65 to R70): results by hand from the tables.
theorem test_add_wraps : reg (.add 0 3 1 2) (two 0xFFFFFFFFFFFFFFFF 2) 3 = some 1 := by decide +kernel
theorem test_sub_order : reg (.sub 0 3 1 2) (two 5 7) 3 = some 0xFFFFFFFFFFFFFFFE := by decide +kernel
theorem test_andn_second : reg (.andn 0 3 1 2) (two 0xFF 0x0F) 3 = some 0xF0 := by decide +kernel
theorem test_sra_count : reg (.sra 0 3 1 2) (two 0x8000000000000000 0x44) 3 = some 0xF800000000000000 := by decide +kernel
theorem test_slt_signed : reg (.slt 0 3 1 2) (two 0xFFFFFFFFFFFFFFFF 0) 3 = some 1 := by decide +kernel
theorem test_sltu_unsigned : reg (.sltu 0 3 1 2) (two 0xFFFFFFFFFFFFFFFF 0) 3 = some 0 := by decide +kernel
theorem test_mulh_signed : reg (.mulh 0 3 1 2) (two 0xFFFFFFFFFFFFFFFF 2) 3 = some 0xFFFFFFFFFFFFFFFF := by decide +kernel
theorem test_mulhu : reg (.mulhu 0 3 1 2) (two 0xFFFFFFFFFFFFFFFF 2) 3 = some 1 := by decide +kernel
theorem test_div_zero : reg (.div 0 3 1 2) (two 7 0) 3 = some 0xFFFFFFFFFFFFFFFF := by decide +kernel
theorem test_div_truncates : reg (.div 0 3 1 2) (two 0xFFFFFFFFFFFFFFF9 2) 3 = some 0xFFFFFFFFFFFFFFFD := by decide +kernel
theorem test_rem_sign : reg (.rem 0 3 1 2) (two 0xFFFFFFFFFFFFFFF9 2) 3 = some 0xFFFFFFFFFFFFFFFF := by decide +kernel
theorem test_div_overflow : reg (.div 0 3 1 2) (two 0x8000000000000000 0xFFFFFFFFFFFFFFFF) 3 = some 0x8000000000000000 := by decide +kernel
theorem test_clz_zero : reg (.clz 0 3 1) (two 0 0) 3 = some 64 := by decide +kernel
theorem test_ctz : reg (.ctz 0 3 1) (two 0x50 0) 3 = some 4 := by decide +kernel
theorem test_extu_worked : reg (.extu 0 4 1 15 8) (two 0x123456789ABCDEF0 0) 4 = some 0xBCDE := by decide +kernel
theorem test_exts : reg (.exts 0 4 1 3 4) (two 0xF0 0) 4 = some 0xFFFFFFFFFFFFFFFF := by decide +kernel
theorem test_ins_keeps : reg (.ins 0 2 1 7 8) (two 0xAB 0x111111) 2 = some 0x11AB11 := by decide +kernel
theorem test_addi_negative : reg (.addi 0 3 1 0x1FFF) (two 5 0) 3 = some 4 := by decide +kernel
theorem test_s0_discards : reg (.add 0 0 1 2) (two 5 6) 0 = some 0 := by decide +kernel
theorem test_loop_last : ask (exec (.loop 0 1 2) (two 1 0)) (fun t => (t.core.pc, rdS t.core 1, t.core.vrb)) = some (16, 0, 0) := by decide +kernel
theorem test_loop_taken : ask (exec (.loop 0 1 2) (two 2 0)) (fun t => (t.core.pc, rdS t.core 1, t.core.vrb, t.core.prb)) = some (32, 1, 31, 7) := by
  decide +kernel
theorem test_callr_reads_first : ask (exec (.callr 0 1 1) (two 0x40 0)) (fun t => (t.core.pc, rdS t.core 1)) = some (0x40, 16) := by decide +kernel
theorem test_idle_counts : ask (exec (.add 5 3 1 2) (two 1 2)) (fun t => (t.core.ticks, t.core.cycle)) = some (6, 6) := by decide +kernel

-- Traps and system registers (R57, R62, R63, R74, R76).
/-- The trap record area of the running context lies on the page that the TLB holds. -/
def trapping : State := modCtx (withCore live { live.core with tvec := 0x500, evec := 0x700 }) 0 fun c => { c with trbase := 0x4000 }
theorem test_jr_misaligned : ask (exec (.jr 0 1) (withS [(1, 0x48)] trapping)) (fun t => (t.core.pc, t.core.tval, t.core.tcause, t.core.tstat)) =
    some (0x500, 0x48, 0x101, 1) := by decide +kernel
theorem test_trap_returns_to_next : ask (exec (.trap 0 5) trapping) (fun t => (t.core.epc, t.core.tcause, t.core.pc)) = some (16, 0x50110, 0x500) := by
  decide +kernel
theorem test_trap_record_epc : ask (exec (.trap 0 5) trapping) (fun t => memNum t 0x4000 8) = some 16 := by decide +kernel
theorem test_double_trap : ask (exec (.trap 0 5) (withCore trapping { trapping.core with tstat := 1 })) (fun t => (t.core.checkstop, t.core.pc)) =
    some (true, 0) := by decide +kernel
theorem test_rft_outside : ask (exec (.rft 0) trapping) (fun t => t.core.tcause) = some 0x101 := by decide +kernel
theorem test_rft_returns : ask (exec (.rft 0) (withCore trapping { trapping.core with tstat := 3, epc := 0x48, lbcnt := 0 }))
    (fun t => (t.core.pc, t.core.tstat)) = some (0x40, 0) := by decide +kernel
theorem test_mts_read_only : ask (exec (.mts 0 1 0x041) trapping) (fun t => t.core.tcause) = some 0x101 := by decide +kernel
theorem test_mts_vflags_reserved : ask (exec (.mts 0 1 0x018) (two 0xFFFFFFFFFFFFFFFF 0)) (fun t => t.core.vflags) = some 0x1F := by decide +kernel
theorem test_mfs_feat1 : reg (.mfs 0 3 0x002) live 3 = some 0x0810180020500806 := by decide +kernel
theorem test_halt : ask (exec (.halt 0) live) (fun t => (t.core.halted, t.core.pc)) = some (true, 16) := by decide +kernel
theorem test_setphase_illegal : ask (exec (.setphase 0 1 12) (withS [(1, 3)] trapping)) (fun t => (t.core.tcause, t.core.tval)) = some (0x101, 3) := by
  decide +kernel

-- Loads and stores (R71, R303, R304): the page at 0 is the package's first memory.
theorem test_store_is_buffered : ask (exec (.std 0 2 1 8) (two 0x103 0x1122334455667788)) (fun t => (t.core.sb.length, memNum t 0x108 8)) = some (1, 0) := by
  decide +kernel
theorem test_store_drains : ask (exec (.storeBufferDrain 0) ((ask (exec (.sth 0 2 1 8) (two 0x103 0x1122334455667788)) id).getD live)) (fun t =>
    (t.core.sb.length, memNum t 0x10A 2, memNum t 0x10C 2)) = some (0, 0x7788, 0) := by decide +kernel
theorem test_load_sign : reg (.ldb 0 3 1 0) ({ two 0x200 0 with mem := Memory.write live.mem 0x200 0x80 }) 3 = some 0xFFFFFFFFFFFFFF80 := by decide +kernel
theorem test_load_forwards : reg (.ldd 0 3 1 8) ((ask (exec (.std 0 2 1 8) (two 0x100 0x1122334455667788)) id).getD live) 3 = some 0x1122334455667788 := by
  decide +kernel
theorem test_load_no_bank : ask (exec (.ldd 0 3 1 0) (withS [(1, 0x30000)] trapping)) (fun t => (t.core.tcause, t.core.tval)) = some (0x109, 0x30000) := by
  decide +kernel
theorem test_load_not_canonical : ask (exec (.ldd 0 3 1 0) (withS [(1, 0x0200000000000000)] trapping)) (fun t => t.core.tcause) = some 0x104 := by
  decide +kernel
theorem test_atom_min_signed : (let r := exec (.atom 0 3 1 2 6 0) { two 0x100 0xFFFFFFFF with mem := Memory.write live.mem 0x100 5 }
    (ask r fun t => (rdS t.core 3, memNum t 0x100 4))) = some (5, 0xFFFFFFFF) := by decide +kernel
theorem test_cas_fails : (let r := exec (.atom 0 3 1 2 5 1) (withS [(1, 0x100), (2, 9), (3, 4)] { live with mem := Memory.write live.mem 0x100 5 })
    (ask r fun t => (rdS t.core 3, memNum t 0x100 8))) = some (5, 5) := by decide +kernel
theorem test_control_memory : reg (.ldhu 0 3 1 0) ((ask (exec (.stb 0 2 1 1) (two 0xFF00000000000010 0xAB)) id).getD live) 3 = some 0xAB00 := by decide +kernel

-- V instructions: the result in flight, by hand from R93 to R112 and R148.
/-- The value that the first result in flight will land. -/
def flown (i : Instr) (s : State) : Option Nat := ask (exec i s) fun t => match t.core.inflight with | f :: _ => f.val.bits.toNat | [] => 0
/-- V1 and V2 hold two numbers in their low bits. -/
def twoV (a b : Row) : State := withV 1 a (withV 2 b live)
theorem test_vadd_lanes : (flown (.vadd 0 0 3 1 2) (twoV 0x01FF 0x0101)).map (· % 65536) = some 0x0200 := by decide +kernel
theorem test_vadds_signed : (flown (.vadds 0 0 3 1 2) (twoV 0x7F 0x01)).map (· % 256) = some 0x7F := by decide +kernel
theorem test_vmulh_unsigned : (flown (.vmulh 1 0 3 1 2) (twoV 0xFF 0xFF)).map (· % 256) = some 0xFE := by decide +kernel
theorem test_vnarrow_saturates : (flown (.vnarrow 0 0 4 0x42) (withV 2 0x0080 live)).map (· % 256) = some 0x7F := by decide +kernel
theorem test_vsra : (flown (.vsra 0 0 3 1 2) (twoV 0x80 3)).map (· % 256) = some 0xF0 := by decide +kernel
theorem test_vfadd_fp32 : (flown (.vadd 12 0 3 1 2) (twoV 0x3F800000 0x40000000)).map (· % 2 ^ 32) = some 0x40400000 := by decide +kernel
theorem test_vfma_single_rounding : (flown (.vfma 12 0 4 1 2 3) (withV 3 0xBF800000 (twoV 0x3F800001 0x3F7FFFFF))).map (· % 2 ^ 32) = some 0x337FFFFE := by
  decide +kernel
theorem test_vcvt_down : (flown (.vcvt 12 0 3 0x41 11) (withV 1 0x3F808000 live)).isSome = true := by decide +kernel
theorem test_land_tick : ask (exec (.vadd 0 0 3 1 2) (twoV 1 1)) (fun t => t.core.inflight.map fun f => (f.land, f.preg)) = some [(2, 3)] := by
  decide +kernel
theorem test_vperm : (flown (.vperm 4 0 3 1 2) (twoV 0xBBBBBBBBAAAAAAAA 1)).map (· % 2 ^ 32) = some 0xBBBBBBBB := by decide +kernel

-- M instructions: rows, slots, timelines, tags, rings (R38, R166, R183, R309, R313).
theorem test_claim : ask (exec (.claim 17 1) live) (fun t => ((getSlot t.core 17).st, (getSlot t.core 17).auto)) = some (.claimed, true) := by
  decide +kernel
theorem test_claim_twice : ask (exec (.claim 17 0) (withCore trapping { trapping.core with slots := [(17, { Slot.empty with st := .full })] }))
    (fun t => (t.core.tcause, t.core.tval)) = some (0x30A, 17) := by decide +kernel
theorem test_tladv_count : ask (exec (.tladv 5 3) live) (fun t => getTl t.core 5) = some 4 := by decide +kernel
theorem test_tlwait_stalls : ask (exec (.tlwait 5 1 0 0 2) (two 3 0)) (fun t => (t.core.pc, t.core.ticks, t.core.cycle)) = some (0, 0, 1) := by decide +kernel
theorem test_tagff_empty : reg (.tagff 1 3) (two 0xFF 0) 3 = some 64 := by decide +kernel
theorem test_enq_places : ask (exec (.enq 2 1 0 0 0 0) (withV 1 0x41 live)) (fun t => ((getRing t.core 2).wp, (getRing t.core 2).occ,
    readScratch t.core (entryOffset 2 0) 8)) = some (1, 1, 0x41) := by decide +kernel
theorem test_bufw : ask (exec (.bufw 7 3) live) (fun t => rdS t.core 3) = some 1 := by decide +kernel
theorem test_livemark_limit : ask (exec (.livemark 0 0 1) (withS [(1, 6145)] trapping)) (fun t => (t.core.tcause, t.core.tval)) = some (0x301, 6145) := by
  decide +kernel
theorem test_rmg : (flown (.vrmg 4 2 1 1 1 0) (withV 2 0x030201 (withCore live { live.core with pregs := [(1, 1)] }))).map (· % 256) = some 2 := by decide +kernel

-- Ring entries (R33, R35, R37).
/-- A CP ring that holds one CNOP with TAG 9 and RTL 1, and no wait. -/
def cnopCmd : Cmd := { wtl := 8, rtl := 1, tag := 9, arg := 0, waitv := 0, p0 := 0, p1 := 0, p2 := 0, p3 := 0 }
def ringed : State := withCore live { live.core with rings := [(2, { Ring.empty with wp := 1, occ := 1 })] }
theorem test_cnop_completes : ask (exec (.engineEntryCompletion 2 0) ((ask (exec (.cnop 2 cnopCmd) ringed) id).getD live))
    (fun t => (t.core.tags, getTl t.core 3, getTl t.core 5, (getRing t.core 2).occ, readScratch t.core (entryOffset 2 0 + 48) 8)) =
    some (0x200, 1, 1, 0, 2 ^ 63) := by decide +kernel
theorem test_cnop_arg_stops : ask (exec (.ringStop 2 0) ((ask (exec (.cnop 2 { cnopCmd with arg := 1 }) ringed) id).getD live))
    (fun t => ((getRing t.core 2).stopped, readScratch t.core (entryOffset 2 0 + 48) 8, t.core.tags)) = some (true, 2 ^ 62 + 2 ^ 48, 0) := by decide +kernel

-- The step runs what was loaded, from the state after reset.
theorem test_step_runs_loaded : (ask (step (State.reset.withFetchWord 32 0x0690A3C8)) fun t => t.core.pc) = some 16 := by decide +kernel
theorem test_reset_stays : (ask (step State.reset) fun t => (t.core.halted, t.core.cycle)) = some (true, 1) := by decide +kernel

-- States and operands that meet the hypotheses of the statements, clause by clause.
/-- A change of the running core. -/
def with_ (f : Core → Core) : State := withCore live (f live.core)
/-- The page that `live` maps at address 0. -/
def page : Leaf := loadedLeaf live
/-- A ring whose entry at the head has not begun, and the rings of `live` beside it. -/
def entered (q : Nat) : State := with_ fun c => { c with rings := [(q, { Ring.empty with wp := 1, occ := 1 })] }
/-- A command of fields. -/
def cmd (arg : BitVec 40) (p0 p1 p2 p3 : Word) : Cmd := { wtl := 8, rtl := 1, tag := 0, arg := arg, waitv := 0, p0 := p0, p1 := p1, p2 := p2, p3 := p3 }

theorem wit_free : Free (two 5 6) [3, 1, 2] ∧ Free live [] ∧ running live = true := by
  refine ⟨⟨?_, ?_⟩, ⟨?_, ?_⟩, ?_⟩ <;> decide +kernel
theorem wit_division : rdS (two 5 0).core 2 = 0 ∧ (rdS (two (2 ^ 63) (-1)).core 1).toInt = -2 ^ 63 ∧ (rdS (two (2 ^ 63) (-1)).core 2).toInt = -1 ∧
    rdS (two 7 (-1)).core 2 ≠ 0 ∧ (rdS (two 7 (-1)).core 1).toInt ≠ -2 ^ 63 ∧ Free (two (2 ^ 63) (-1)) [3, 1, 2] := by
  refine ⟨?_, ?_, ?_, ?_, ?_, ⟨?_, ?_⟩⟩ <;> decide +kernel
theorem ok_of {ε α : Type} {e : Except ε α} (h : e.toOption.isSome = true) : ∃ x, e = .ok x := by cases e <;> first | exact ⟨_, rfl⟩ | cases h
theorem wit_bit_counts : rdS (two 0 1).core 1 = 0 ∧ rdS (two 0 1).core 2 ≠ 0 ∧ Free (two 0 1) [3, 1] := by refine ⟨?_, ?_, ⟨?_, ?_⟩⟩ <;> decide +kernel
theorem wit_fields : (0 : BitVec 6).toNat + (63 : BitVec 6).toNat ≤ 63 ∧ (63 : BitVec 6).toNat + (0 : BitVec 6).toNat ≤ 63 := by decide
theorem wit_jumps : (rdS (two 0x40 0x48).core 1).toNat % 16 = 0 ∧ (rdS (two 0x40 0x48).core 2).toNat % 16 ≠ 0 ∧ Free (two 0x40 0x48) [31, 1] := by
  refine ⟨?_, ?_, ⟨?_, ?_⟩⟩ <;> decide +kernel
theorem wit_loop : rdS (two 1 2).core 1 - 1 = 0 ∧ rdS (two 1 2).core 2 - 1 ≠ 0 ∧ Free (two 1 2) [1] ∧ Free (two 1 2) [2] := by
  refine ⟨?_, ?_, ⟨?_, ?_⟩, ⟨?_, ?_⟩⟩ <;> decide +kernel

-- Accesses: the last bytes of the page, absent pages, the core-local window.
theorem wit_loads : LoadsAt false (atIssue live) 0xFFFF 1 0 page ∧ LoadsAt false (atIssue live) 0xFFFE 2 0 page ∧ LoadsAt false (atIssue live) 0xFFFC 4 0 page ∧
    LoadsAt false (atIssue live) 0xFFF8 8 0 page := by
  refine ⟨⟨⟨?_, ?_, ?_⟩, ?_, ?_⟩, ⟨⟨?_, ?_, ?_⟩, ?_, ?_⟩, ⟨⟨?_, ?_, ?_⟩, ?_, ?_⟩, ⟨⟨?_, ?_, ?_⟩, ?_, ?_⟩⟩ <;> first | rfl | decide +kernel
theorem wit_constant_path : Reaches (atIssue (with_ fun c => { c with cpath := [(8, some 7)] })) 8 .read 0 page ∧
    Sparse.get none (with_ fun c => { c with cpath := [(8, some 7)] }).core.cpath 8 = some 7 ∧ Sparse.get none live.core.cpath 8 = none := by
  refine ⟨⟨?_, ?_, ?_⟩, ?_, ?_⟩ <;> first | rfl | decide +kernel
theorem wit_control_memory : ∀ o ∈ [0, 0x1FFF8], bits (alignDown (rdS (two (.ofNat 64 (255 * 2 ^ 56 + o)) 0).core 1 + 0) 8).toNat 63 56 = 255 ∧
    bits (alignDown (rdS (two (.ofNat 64 (255 * 2 ^ 56 + o)) 0).core 1 + 0) 8).toNat 55 0 < 0x20000 := by decide +kernel
theorem wit_stores : Reaches (atIssue live) 0xFFF8 .write 0 page ∧ live.core.sb.length < 16 := by
  refine ⟨⟨?_, ?_, ?_⟩, ?_⟩ <;> first | rfl | decide +kernel
/-- One store in the buffer. -/
def storing : State := with_ fun c => { c with sb := [storeOf 0x100 8 page 7] }
theorem wit_drain : storing.core.sb[(0 : BitVec 4).toNat]? = some (storeOf 0x100 8 page 7) ∧ curSlot storing = some 0 ∧
    canDrain storing.core.sb (0 : BitVec 4).toNat = true ∧ (storeOf 0x100 8 page 7).tol = 0 := by decide +kernel
/-- A context whose table maps address 2^30 of its space on a bank that another context owns. -/
def walked (r : BitVec 32) : State :=
  { modCtx live 0 (fun c => { c with ptroot := 0x4000 }) with
    mem := Memory.writeL (Memory.writeL live.mem 0x4000 (toBytes 8 (2 ^ 63 + 0x80))) 0x8008 (toBytes 8 (2 ^ 63 + 2 ^ 39)),
    banks := [(0, r)] }
theorem wit_denied : Denies (atIssue (walked 0)) 0x10000 .read 3 ∧ Denies (atIssue (walked 0)) 0x10000 .write 3 ∧ Denies (atIssue (walked 0)) 0x10000 .atomic 3 ∧
    Denies (atIssue live) 0x0200000000000000 .read 4 := by
  refine ⟨⟨?_, 0, ?_, ?_⟩, ⟨?_, 0, ?_, ?_⟩, ⟨?_, 0, ?_, ?_⟩, ⟨?_, 0, ?_, ?_⟩⟩ <;> first | rfl | decide +kernel
theorem wit_bank_faults : Denies (atIssue (walked (BitVec.ofNat 32 (2 ^ 31)))) 0x40000000 .read 8 ∧ Denies (atIssue (walked 0x3C000000)) 0x40000000 .read 9 := by
  refine ⟨⟨?_, 0, ?_, ?_⟩, ⟨?_, 0, ?_, ?_⟩⟩ <;> first | rfl | decide +kernel
theorem wit_window_refused : bits (alignDown (rdS (two (.ofNat 64 (255 * 2 ^ 56)) 0).core 1 + 0) 8).toNat 63 56 = 255 := by decide +kernel
theorem wit_atomic : Reaches (atIssue live) 0xFFF8 .atomic 0 page ∧ sectorsOk live 0xFFF8 8 = true ∧
    (atIssue live).core.sb.any (fun e => overlap (sbRange e) (0xFFF8, 0x10000) || (e.kind == 0 && page.kind == 0)) = false ∧
    atomNew 5 8 1 2 3 = none ∧ atomNew 0 8 1 2 3 = some 3 := by
  refine ⟨⟨?_, ?_, ?_⟩, ?_, ?_, ?_, ?_⟩ <;> first | rfl | decide +kernel
theorem wit_fences : live.core.sb.all (fun e => e.kind == 2) = true ∧ live.core.sb = [] ∧ storing.core.sb.all (fun e => e.kind == 2) = false ∧
    storing.core.sb ≠ [] ∧ Free storing [] := by refine ⟨?_, ?_, ?_, ?_, ⟨?_, ?_⟩⟩ <;> decide +kernel

-- The pipeline, system registers and traps.
/-- S1 has a write pending. -/
def pendingS1 : State := with_ fun c => { c with pend := [(1, 5)] }
theorem wit_stall : running pendingS1 = true ∧ [3, 1, 2].any (pending pendingS1.core) = true ∧ running State.reset = false := by decide +kernel
/-- A result for V3 that lands at a tick. -/
def flies3 (tick : Nat) : Inflight := { land := tick, kind := .vec, preg := 3, val := { bits := 9, pz := 0 } }
theorem wit_landings : sortLand (with_ fun c => { c with inflight := [flies3 0] }).core.inflight = [flies3 0] ∧ (flies3 0).land ≤ live.core.ticks ∧
    live.core.ticks < (flies3 4).land ∧ pendingS1.core.pend ≠ [] ∧ (flies3 0).kind = .vec ∧ (flies3 0).preg < 32 := by decide +kernel
theorem wit_handler : trapping.core.tstat.getLsbD 0 = false ∧ (with_ fun c => { c with tstat := 1 }).core.tstat.getLsbD 0 = true ∧
    (curCtx trapping).isSome = true ∧ Free trapping [1] := by refine ⟨?_, ?_, ?_, ⟨?_, ?_⟩⟩ <;> decide +kernel
theorem wit_trap_recorded : ∃ u, Recorded (mkTrap 1 1 0) 0 0 (atIssue trapping) u :=
  ok_of (by decide +kernel)
theorem wit_trap_record : ∃ c, curSlot trapping = some 0 ∧ curCtx trapping = some c ∧ trapRecAddr trapping c % 128 = 0 ∧ trapRecAddr trapping c + 128 < 2 ^ 57 ∧
    tlbHit trapping 0 (trapRecAddr trapping c) = some page ∧ tlbHit trapping 0 (trapRecAddr trapping c + 64) = some page ∧ 7 ≤ page.lg ∧ page.w = true ∧
    page.tol = 0 ∧ page.kh = 0 := ⟨{ loadedCtx State.reset with trbase := 0x4000 }, by decide +kernel⟩
theorem wit_no_record : (writeTrapRec (capture 0 (atIssue (modCtx live 0 fun c => { c with trbase := 2 ^ 40 }))) 0 0x101 0).toOption.isNone = true := by
  decide +kernel
theorem wit_trap_bundle : running trapping = true ∧ ∃ b, fetchBundle trapping = .ok b := ⟨by decide +kernel, 0, by rfl⟩
theorem wit_async : (with_ fun c => { c with abortPend := [5] }).core.abortPend = 5 :: [] ∧ running (with_ fun c => { c with abortPend := [5] }) = true ∧
    (let s := with_ fun c => { c with rings := [(1, { Ring.empty with stopped := true, reported := true }), (4, { Ring.empty with stopped := true })] }
     running s = true ∧ s.core.abortPend = [] ∧ (getRing s.core 4).stopped = true ∧ (getRing s.core 4).reported = false ∧ (getRing s.core 1).stopped = true ∧
     ∀ j, j < 1 → (getRing s.core j).stopped = false) := by decide +kernel
theorem wit_rft : (let s := with_ fun c => { c with tstat := 1, inflight := [flies3 9] }
    running s = true ∧ s.core.tstat.getLsbD 0 = true ∧ (atIssue s).core.inflight ≠ []) ∧
    (atIssue (with_ fun c => { c with tstat := 1 })).core.inflight = [] := by decide +kernel
theorem wit_mclog : live.mclog.length < 64 ∧ 64 ≤ ({ live with mclog := List.replicate 64 0 } : State).mclog.length := by decide +kernel
/-- A host window of 64 bytes. -/
def windowed : State := modCtx live 0 fun c => { c with wins := [(2, { base := 0x1000, len := 64, vaddr := 0x2000, ver := 1, image := [] })] }
theorem wit_publish : ∃ c v, Free windowed [1] ∧ curSlot windowed = some 0 ∧ getCtx windowed 0 = some c ∧ Sparse.find c.wins 3 = none ∧ Sparse.find c.wins 2 = some v ∧
    windowed.core.sb = [] ∧ engLoad (atIssue windowed) 0 0 v.base 1 = .ok 0 :=
  ⟨{ loadedCtx State.reset with wins := [(2, { base := 0x1000, len := 64, vaddr := 0x2000, ver := 1, image := [] })] },
    { base := 0x1000, len := 64, vaddr := 0x2000, ver := 1, image := [] }, ⟨by decide +kernel, by decide +kernel⟩, by decide +kernel, by decide +kernel,
    by decide +kernel, by decide +kernel, by decide +kernel, by rfl⟩
theorem wit_setphase : ((rdS (two 0xAAAAAAAA 3).core 1).toNat < 2 ^ 32 ∧ ∀ n, n < 16 → (rdS (two 0xAAAAAAAA 3).core 1).toNat / 4 ^ n % 4 ≠ 3) ∧
    ¬(∀ n, n < 16 → (rdS (two 0xAAAAAAAA 3).core 2).toNat / 4 ^ n % 4 ≠ 3) := by decide +kernel
theorem wit_trap_instruction : running trapping = true ∧ (∃ u, Recorded { cause := 0x10, slot := 1, code := 8191, tval := 0, bundle := 0, emu := false } (trapping.core.pc + 16) 1 (atIssue trapping) u) ∧
    decodeS 0x19001FFF = .ok (.trap 0 8191) :=
  ⟨by decide +kernel, ok_of (by decide +kernel), by rfl⟩

-- V and M instructions. Group fields: 3 is V3, 0x42 the pair V2 and V3, 0x84 the four from V4.
theorem wit_ready : Ready live [1, 2, 3] [3, 1, 2] [0, 1] ∧ isInt 0 = true ∧ isInt 5 = true ∧ grpW 3 = grpW 1 ∧ grpW 0x84 = grpW 0x88 := by
  refine ⟨⟨⟨?_, ?_⟩, ?_⟩, ?_⟩ <;> first | decide +kernel | (unfold Sound; decide +kernel)
theorem wit_widening : isNint 0 = true ∧ grpW 0x42 = 2 * grpW 1 ∧ grpW 1 = grpW 4 ∧ Ready live [] [1, 4, 0x42] [0] := by
  refine ⟨?_, ?_, ?_, ⟨⟨?_, ?_⟩, ?_⟩⟩ <;> first | decide +kernel | (unfold Sound; decide +kernel)
theorem wit_immediates : (7 : BitVec 8).toNat < tyBits 0 ∧ (31 : BitVec 8).toNat < tyBits 4 ∧ isSint 0 = true ∧ isSint 4 = true := by decide
/-- V1 holds one element, poisoned in its second 32-bit element. -/
def poisoned : State := withCore live { live.core with vregs := [(1, { bits := 5, pz := 0xFF00 })] }
theorem wit_vext : grpW 1 = 1 ∧ tyN 4 ≤ (rdS (two 0 128).core 2).toNat ∧ (rdS (two 0 127).core 2).toNat < tyN 4 ∧ (el poisoned 4 1 0 0).z = false ∧
    (el poisoned 4 1 0 1).z = true := by decide +kernel
theorem wit_compares : isInt 4 = true ∧ (5 : BitVec 8).toNat < 6 ∧ isFpa 12 = true ∧ (7 : BitVec 8).toNat < 8 := by decide
theorem wit_floats : isFpa 12 = true ∧ isApx 12 = true ∧ grpW 3 = grpW 1 ∧ Ready live [] [1, 2, 4, 3] [0] := by
  refine ⟨?_, ?_, ?_, ⟨⟨?_, ?_⟩, ?_⟩⟩ <;> first | decide +kernel | (unfold Sound; decide +kernel)
theorem wit_float_values : (fdec (fmtOf 12) 0x7FC00000).isNan = true ∧ (fdec (fmtOf 12) 0x3F800000).isNan = false ∧ (fdec (fmtOf 12) 0x7F800000).isInf = true ∧
    (fdec (fmtOf 12) 0xFF800000).isInf = true ∧ (fdec (fmtOf 12) 0x7F800000).neg ≠ (fdec (fmtOf 12) 0xFF800000).neg ∧ (fdec (fmtOf 12) 0).isZero = true ∧
    (fdec (fmtOf 12) 0x3F800000).isZero = false := by decide +kernel
theorem wit_float_finite : fdec (fmtOf 12) 0x3F800000 = .fin false (2 ^ 23) (-23) := by decide +kernel
theorem wit_rounding : (0 < 1 ∧ 1 < 2 ^ ((fmtOf 12).m + 1) ∧ 1 - ((fmtOf 12).bias : Int) - (fmtOf 12).m ≤ -149 ∧ (-149 : Int) ≤ ((fmtOf 12).bias : Int) - (fmtOf 12).m) ∧
    ((fmtOf 12).bias : Int) < 128 := by decide +kernel
theorem wit_reductions : grpW 3 = 1 ∧ Ready live [] [1, 2, 3] [0, 1] ∧ grpW 3 * tyN 0 ≤ 1024 ∧ topkK 63 ≤ tyN 4 := by
  refine ⟨?_, ⟨⟨?_, ?_⟩, ?_⟩, ?_⟩ <;> first | decide +kernel | (unfold Sound; decide +kernel)
theorem wit_permutations : tyN 0 ≤ 256 * grpW 0x42 ∧ (127 : BitVec 8).toNat < tyN 4 ∧ grpW 0x42 = 2 * grpW 1 ∧ grpW 3 * tyN 0 ≤ 2048 := by decide
theorem wit_dot : grpW 3 = grpW 1 ∧ (isFpn 8 || (8 : BitVec 4) == 10 || (8 : BitVec 4) == 11) = true ∧ Ready live [] [1, 2, 4, 3] [0] := by
  refine ⟨?_, ?_, ⟨⟨?_, ?_⟩, ?_⟩⟩ <;> first | decide +kernel | (unfold Sound; decide +kernel)
theorem wit_convert : (∃ ty d a imm, Instr.wf (.vcvt ty 0 d a imm) = true ∧ cvtBits (cvtDst imm) = cvtBits (cvtSrc ty imm)) ∧
    (∃ ty d a imm, Instr.wf (.vcvt ty 0 d a imm) = true ∧ cvtBits (cvtDst imm) = 2 * cvtBits (cvtSrc ty imm)) ∧
    (∃ ty d a imm, Instr.wf (.vcvt ty 0 d a imm) = true ∧ cvtBits (cvtSrc ty imm) = 2 * cvtBits (cvtDst imm)) := by
  refine ⟨⟨12, 3, 1, 5, ?_⟩, ⟨11, 0x42, 4, 12, ?_⟩, ⟨12, 3, 0x44, 11, ?_⟩⟩ <;> decide +kernel
theorem wit_scacc : Instr.wf (.scacc 12 0 3 1 79 15) = true ∧ live.core.badTiles = [] := by decide +kernel
theorem wit_rows : Sound live ((List.range (2 ^ (1 : BitVec 2).toNat)).map (· + (2 : BitVec 6).toNat)) [(0 : BitVec 4).toNat] ∧
    ((rdS (two 0x2FFC00 0x300000).core 1 + 512 * (0 : Word)).toNat < 0x300000 ∧ (rdS (two 0x2FFC00 0x300000).core 1).toNat / 512 + 2 ≤ 6144) ∧
    ¬((rdS (two 0x2FFC00 0x300000).core 2 + 512 * (0 : Word)).toNat < 0x300000) ∧ live.core.badRows = [] := by refine ⟨?_, ?_⟩ <;> first | decide +kernel | (unfold Sound; decide +kernel)
theorem wit_row_poison : pzBit (rdV (atIssue poisoned).core 1) (2 * 4 * 1) = true ∧ active poisoned 0 1 = true := by decide +kernel
theorem wit_gathers : Sound live [3, 1, 2, 3] [0] ∧ (∀ l, l < 32 → laneOff live 0 1 l < 0x300000) ∧ laneZ poisoned 1 0 = false ∧ laneZ poisoned 1 1 = false ∧
    laneZ (withCore live { live.core with vregs := [(1, { bits := 5, pz := 1 })] }) 1 0 = true ∧ 0x300000 ≤ laneOff (two 0x300000 0) 1 3 0 := by
  refine ⟨?_, ?_⟩ <;> first | decide +kernel | (unfold Sound; decide +kernel)
/-- Slots 1, 2 and 3 in their states: claimed by the program, filling, and full with AUTO. -/
def slotted : State := with_ fun c => { c with slots := [(1, { Slot.empty with st := .claimed }), (2, { Slot.empty with st := .claimed, fill := true }), (3, { Slot.empty with st := .full, auto := true })],
                                               shadows := [(0, { image := 0, loaded := true })] }
theorem wit_slots : running slotted = true ∧ Sound slotted [1] [] ∧ (getSlot slotted.core 0).st = .free ∧ (getSlot slotted.core 1).st ≠ .free ∧
    (getSlot slotted.core 1).auto = false ∧ (getSlot slotted.core 3).auto = true ∧ (getSlot slotted.core 2).fill = true ∧ (getSlot slotted.core 1).users = 0 ∧
    (Sparse.get Shadow.empty slotted.core.shadows 0).loaded = true ∧ (rdV slotted.core 1).pz.toNat % 2 ^ 320 = 0 ∧ (rdV (atIssue poisoned).core 1).pz.toNat % 2 ^ 320 ≠ 0 ∧
    slotted.core.badTiles = [] := by refine ⟨?_, ?_, ?_⟩ <;> first | decide +kernel | (unfold Sound; decide +kernel)
theorem wit_enq : Sound live [1] [] ∧ (6 : BitVec 3).toNat + (1 : BitVec 3).toNat + 1 ≤ 8 ∧ (getRing live.core 2).occ + 2 ≤ 64 ∧ (getRing live.core 2).wp < 64 ∧
    64 < (getRing (with_ fun c => { c with rings := [(2, { Ring.empty with occ := 63 })] }).core 2).occ + 2 ∧ (rdV live.core 1).pz.toNat / 2 ^ (128 * 7) % 2 ^ 96 = 0 ∧
    (rdV (atIssue poisoned).core 1).pz.toNat / 2 ^ (128 * 0) % 2 ^ 96 ≠ 0 := by refine ⟨?_, ?_⟩ <;> first | decide +kernel | (unfold Sound; decide +kernel)
theorem wit_timelines : (∃ c, Free (two 5 3) [1, 2, 3] ∧ curCtx (two 5 3) = some c ∧ inPart c 127 = true ∧ inPart c 128 = false) ∧ (getTl live.core 3).toNat < (5 : Word).toNat ∧
    (0 : Word).toNat ≤ (getTl live.core 3).toNat ∧ (let t := (with_ fun c => { c with tags := 4 }).core.tags; t &&& 4 ≠ 0 ∧ t &&& 6 ≠ 6 ∧ t &&& 3 = 0) ∧
    (6144 : Word).toNat ≤ 6144 ∧ 6144 < (6145 : Word).toNat := by
  refine ⟨⟨loadedCtx State.reset, ⟨?_, ?_⟩, ?_, ?_, ?_⟩, ?_⟩ <;> decide +kernel
/-- Core 0 is in a team of column level, whose point 2 expects two arrivals. -/
def teamed : State := modCtx (withS [(1, 2), (3, 1)] (with_ fun c => { c with team := 0xFFFFFFFFFFFF0001 })) 0 fun c => { c with rv := [(rvKey 1 0 2, { exp := 2, cnt := 1, ph := 1 })] }
theorem wit_rendezvous : Free teamed [1] ∧ curSlot teamed = some 0 ∧ bits teamed.core.team.toNat 15 0 ≠ 0xFFFF ∧ bits teamed.core.team.toNat 31 16 = 0xFFFF ∧
    (∃ c, getCtx teamed 0 = some c ∧ Sparse.get Rv.zero c.rv (rvKey teamed.core.team 0 2) = { exp := 2, cnt := 1, ph := 1 } ∧ Sparse.get Rv.zero c.rv (rvKey teamed.core.team 0 3) = Rv.zero) ∧
    0 < (rdS teamed.core 1).toNat ∧ (rdS teamed.core 1).toNat < 2 ^ 32 ∧ (1 : Nat) ≤ (rdS teamed.core 3).toNat ∧ (rdS teamed.core 0).toNat < 1 := by
  refine ⟨⟨?_, ?_⟩, ?_, ?_, ?_, ⟨{ loadedCtx State.reset with rv := [(rvKey 1 0 2, { exp := 2, cnt := 1, ph := 1 })] }, ?_⟩, ?_⟩ <;> decide +kernel
/-- Buffer 7 is at version 1, which one reader holds, and this core writes version 2; buffer 8 is untouched. -/
def buffered : State := modCtx live 0 fun c => { c with bufs := [(7, { pub := 1, who := some 0, nxt := 2, cnt0 := 0, cnt1 := 1 }), (9, { pub := 1, who := none, nxt := 1, cnt0 := 65535, cnt1 := 65535 })] }
theorem wit_buffers : ∃ c, Free buffered [1, 2] ∧ curSlot buffered = some 0 ∧ getCtx buffered 0 = some c ∧ (Sparse.get Buf.zero c.bufs 7).who = some buffered.coreNo ∧
    (Sparse.get Buf.zero c.bufs 8).who = none ∧ (Sparse.get Buf.zero c.bufs 7).cnt1 ≠ 0 ∧ (Sparse.get Buf.zero c.bufs 8).cnt1 = 0 ∧ 65535 ≤ (Sparse.get Buf.zero c.bufs 9).cnt1 :=
  ⟨{ loadedCtx State.reset with bufs := [(7, { pub := 1, who := some 0, nxt := 2, cnt0 := 0, cnt1 := 1 }), (9, { pub := 1, who := none, nxt := 1, cnt0 := 65535, cnt1 := 65535 })] },
   ⟨by decide +kernel, by decide +kernel⟩, by decide +kernel⟩
theorem wit_frames : inV (.vadd 0 0 3 1 2) = true ∧ (ask (exec (.vadd 0 0 3 1 2) live) fun t => t.core.parityBad) = some [] ∧
    registerDest (.add 0 3 1 2) = some ([3], false) ∧ (ask (exec (.add 0 3 1 2) live) fun _ => true) = some true := by decide +kernel
theorem wit_parity : running (with_ fun c => { c with parityBad := [(0, 1, 5)] }) = true ∧
    parityHit (with_ fun c => { c with parityBad := [(0, 1, 5)] }).core { uses := [], vreads := grpRegs 1 ++ grpRegs 2 ++ grpRegs 3, preads := [0], eff := fun _ t => .done t none } = some (1 * 256 + 5) ∧
    0 < (with_ fun c => { c with swapLeft := 64 }).core.swapLeft := by decide +kernel

-- Rings, nests, copies, translation and keys.
theorem wit_can_run : (∀ q, q < 6 → curSlot (entered q) = some 0 ∧ canBegin q (entered q).core = true ∧ waitMet (entered q).core (cmd 0 0 0 0 0) = true) ∧
    canBegin 2 live.core = false ∧ waitMet live.core { cmd 0 0 0 0 0 with wtl := 7, waitv := 1 } = false ∧ curSlot State.reset = none ∧
    cmdParts (.cnop 2 cnopCmd) = some (2, 0, cnopCmd) := by decide +kernel
/-- What a CP entry that filled slot 4 has left. -/
def outcome : Result := { code := 0, detail := 2 ^ 40, statx := 7, tag := 63, rtl := 3, fills := [4], busy := false, posted := false }
/-- A CP ring whose head entry has ended, well or badly. -/
def ended (code : Nat) : State := with_ fun c => { c with rings := [(2, { Ring.empty with wp := 1, occ := 1, results := [{ outcome with code := code }] })],
                                                          slots := [(4, { Slot.empty with st := .claimed, fill := true })] }
theorem wit_entries : (engSlot (ended 0)).isSome = true ∧ (getRing (ended 0).core 2).results = outcome :: [] ∧ (getRing (ended 0).core 2).rp < 64 ∧
    (getRing (ended 0).core 2).stopped = false ∧ outcome.busy = false ∧ outcome.posted = false ∧ outcome.rtl < 4 ∧ outcome.tag < 64 ∧
    (getRing (ended 3).core 2).results = { outcome with code := 3 } :: [] ∧ (getSlot (ended 0).core 4).fill = true ∧ outcome ∈ (getRing (ended 0).core 2).results ∧
    4 ∈ outcome.fills ∧ (getRing (with_ fun c => { c with rings := [(2, { Ring.empty with stopped := true })] }).core 2).stopped = true := by decide +kernel
/-- An OPLD of one row of one sector into slot 1. -/
def opldCmd : Cmd := cmd (.ofNat 40 (1 * 2 ^ 35)) 0x1000 0 0x2000 (.ofNat 64 (4 * 2 ^ 10))
/-- The MX ring has an entry, and slot 1 is claimed. -/
def filling : State := withCore (entered 0) { (entered 0).core with slots := [(1, { Slot.empty with st := .claimed })] }
theorem wit_held : Held live 0 0x1000 64 true 0x1000 ∧ Held live 0 0xFFC0 64 false 0xFFC0 ∧ Held live 0 0x2000 4 false 0x2000 := by
  refine ⟨⟨page, ?_⟩, ⟨page, ?_⟩, ⟨page, ?_⟩⟩ <;> decide +kernel
theorem wit_operand_load : CanRun filling 0 opldCmd 0 ∧ (let a := opldCmd.arg.toNat
    bits a 39 35 = 1 ∧ bits a 12 12 = 0 ∧ bits a 1 0 = 0 ∧ opldCmd.p0.toNat % 64 = 0 ∧ bits opldCmd.p3.toNat 63 21 = 0 ∧ bits opldCmd.p3.toNat 20 10 = 4 ∧ bits a 11 2 = 0) ∧
    canFill filling.core 1 = true ∧ canFill filling.core 0 = false ∧ (bits (1 : BitVec 40).toNat 1 0 = 1) := by
  refine ⟨⟨⟨?_, ?_, ?_⟩, ?_⟩, ?_⟩ <;> decide +kernel
theorem wit_tiles : CanRun (entered 0) 0 (cmd (.ofNat 40 (79 * 2 ^ 33)) 0x1000 0 0 0) 0 ∧ bits (79 * 2 ^ 33) 39 33 + (bits (79 * 2 ^ 33) 32 26 + 1) ≤ 80 ∧
    bits (79 * 2 ^ 33) 25 0 = 0 ∧ ¬(bits (79 * 2 ^ 33 + 2 ^ 26) 39 33 + (bits (79 * 2 ^ 33 + 2 ^ 26) 32 26 + 1) ≤ 80) ∧ (entered 0).core.badTiles = [] := by
  refine ⟨⟨⟨?_, ?_, ?_⟩, ?_⟩, ?_⟩ <;> decide +kernel
theorem wit_metadata : CanRun (entered 0) 0 (cmd 0 0x1000 0 0 0) 0 ∧ (getRing (entered 0).core 0).appended = 0 ∧ entryDetail (entered 0).core 0 (nextEntry (entered 0).core 0) = 0 ∧
    (entered 0).core.mdq.length + 1 ≤ 256 ∧ CanRun (entered 1) 1 (cmd 0 0x1000 0 0 0) 0 := by refine ⟨⟨⟨?_, ?_, ?_⟩, ?_⟩, ?_, ?_, ?_, ⟨⟨?_, ?_, ?_⟩, ?_⟩⟩ <;> decide +kernel
/-- The image of a nest of one level with one step: A at unit 64, B at unit 128, target tile 5. -/
def oneStep : BitVec 1280 := .ofNat 1280 (64 + 128 * 2 ^ 16 + 5 * 2 ^ 32 + 2 ^ 40 + (1 + 2 ^ 56) * 2 ^ 512)
/-- An INT8 by INT8 MMGO on shadow set 0. -/
def goCmd : Cmd := cmd (.ofNat 40 (3 * 2 ^ 35 + 3 * 2 ^ 30)) 0 0 0 0
/-- The MX ring has an MMGO entry, with its set loaded. -/
def going : State := withCore (entered 0) { (entered 0).core with shadows := [(0, { image := oneStep, loaded := true })] }
theorem wit_nest_start : CanRun going 0 goCmd 0 ∧ (Sparse.get Shadow.empty going.core.shadows 0).loaded = true ∧ goLegal (goOf false goCmd) goCmd oneStep = true ∧
    goLegal (goOf false (cmd 1 0 0 0 0)) (cmd 1 0 0 0 0) oneStep = false ∧ modeClash (goOf false goCmd) oneStep (imgLevels oneStep) going.core = false ∧
    (Sparse.get Shadow.empty (entered 0).core.shadows 0).loaded = false ∧
    modeClash (goOf true (cmd (.ofNat 40 (17 * 2 ^ 35 + 17 * 2 ^ 30)) 0 0 0 0)) 0 [] live.core = false := by refine ⟨⟨⟨?_, ?_, ?_⟩, ?_⟩, ?_⟩ <;> decide +kernel
/-- That nest has started, and its slots are full. -/
def nested (sl : Bool) (arg : Nat) : State := with_ fun c => { c with
  nestMX := some { image := oneStep, cmd := cmd (.ofNat 40 arg) 0 0 0 0, sliced := sl, pal := 0, idx := [0], pair := 0, held := none, popped := none, detail := 0 },
  slots := [(1, { Slot.empty with st := .full, users := 1 }), (2, { Slot.empty with st := .full, users := 1 })] }
theorem wit_nest_step : (let s := nested false (3 * 2 ^ 35 + 3 * 2 ^ 30)
    nestMay false s = true ∧ (getSlot s.core (64 / 64)).st = .full ∧ (getSlot s.core (128 / 64)).st = .full ∧ (goOf false goCmd).sp = false ∧ s.core.grantMX = false ∧
    (getCol s (colOf s.coreNo)).tokq = [] ∧ goWeight (goOf false goCmd) ≤ (getCol s (colOf s.coreNo)).pool ∧ s.core.badSlots = [] ∧ s.core.badTiles = [] ∧
    (getNest false s.core).isSome = true) := by decide +kernel
theorem wit_pair_step : (let a := 20 * 2 ^ 35 + 20 * 2 ^ 30 + 2 * 2 ^ 25
    let s := nested true a
    nestMay false s = true ∧ (goSliced (cmd (.ofNat 40 a) 0 0 0 0)).sl = 2 ∧ 0 + 1 < (goSliced (cmd (.ofNat 40 a) 0 0 0 0)).sl * 3 / 2 ∧
    goWeight (goSliced (cmd (.ofNat 40 a) 0 0 0 0)) ≤ (getCol s (colOf s.coreNo)).pool) := by decide +kernel
theorem wit_chunk : (List.replicate 2048 (1 : Int)).length = 2048 ∧ (tileMan Tile.zero 15 127 + 1).natAbs < 2 ^ 46 := ⟨List.length_replicate, by decide +kernel⟩
/-- An SKSCORE of one key column of 64 dimensions in the two-bound form, on slot 1. -/
def scoreCmd : Cmd := cmd (.ofNat 40 (79 * 2 ^ 33 + 2 ^ 32 + 1 * 2 ^ 18)) 6143 0 0 0
theorem wit_scores : (let s := withCore (entered 1) { (entered 1).core with slots := [(1, { Slot.empty with st := .full })] }
    let a := scoreCmd.arg.toNat
    (curSlot s = some 0 ∧ canBegin 1 s.core = true ∧ waitMet s.core scoreCmd = true) ∧ bits a 39 33 ≤ 79 ∧ bits a 31 30 ≠ 3 ∧ bits a 11 0 = 0 ∧ bits scoreCmd.p0.toNat 63 13 = 0 ∧
    256 * bits a 17 12 + 16 * 64 ≤ 16384 ∧ 512 * 6143 + 1 * 128 ≤ 512 * 6144 ∧ (getSlot s.core 1).st = .full ∧ (getSlot s.core 2).st ≠ .full ∧ s.core.grantSK = false ∧
    8 * 64 / 64 ≤ (getCol s (colOf s.coreNo)).pool ∧ s.core.badRows = []) := by decide +kernel
/-- Copies of one sector: from memory to row 0, from row 6095 to memory, a fill. -/
def copyIn : Cmd := cmd (.ofNat 40 (2 ^ 38)) 0x1000 0 0 0
theorem wit_copy : CanRun (entered 2) 2 copyIn 0 ∧ Side (entered 2) 0 false 0 0x1000 64 false 0x1000 ∧ Side (entered 2) 0 true 0 0 64 true 0 ∧
    (bits copyIn.arg.toNat 9 0 = 0 ∧ (0 : Word).toNat < 8192 ∧ 512 * (0 : Word).toNat + 64 ≤ 3121152 ∧ copyIn.p0.toNat % 64 = 0) ∧
    (bits (1 : BitVec 40).toNat 9 0 ≠ 0) := by
  refine ⟨⟨⟨?_, ?_, ?_⟩, ?_⟩, ⟨rfl, page, ?_⟩, ⟨rfl, ?_, ?_⟩, ?_⟩ <;> decide +kernel
theorem wit_copy_edge : Side (entered 2) 0 true 0 (512 * 6095) 512 false (512 * 6095) := ⟨rfl, by decide +kernel, by decide +kernel⟩
theorem wit_copy_pitch : pitchOk false 0x1000 0x200 1 4 = true ∧ pitchOk true 0 64 1 2 = true ∧ pitchOk false 1 0 1 1 = false := by decide +kernel
theorem wit_slot_copy : canFill (withCore (entered 2) { (entered 2).core with slots := [(1, { Slot.empty with st := .claimed })] }).core 1 = true ∧ appendedOf (entered 2).core 2 = 0 ∧
    (entered 2).core.mdq.length + 1 ≤ 256 ∧ (bits (15 * 2 ^ 15) 26 15 + 1) % 16 = 0 := by decide +kernel
theorem wit_translation : bits (2 ^ 57) 63 57 ≠ 0 ∧ bits 0xFFFF 63 57 = 0 ∧ tlbHit live 0 0xFFFF = some page ∧ live.badMem = [] ∧ tlbHit live 0 0x10000 = none := by decide +kernel
theorem wit_walk : ∃ c lf, getCtx (walked 0) 0 = some c ∧ (walked 0).badMem = [] ∧ bits (memNum (walked 0) (c.ptroot + 8 * bits 0x40000000 56 39) 8) 63 63 = 1 ∧
    bits (memNum (walked 0) (c.ptroot + 8 * bits 0x40000000 56 39) 8) 37 0 * 256 = 0x8000 ∧ bits (memNum (walked 0) (0x8000 + 8 * bits 0x40000000 38 30) 8) 39 39 = 1 ∧
    leafOf 2 (memNum (walked 0) (0x8000 + 8 * bits 0x40000000 38 30) 8) = some lf ∧ bits (memNum (walked 0) (0x8000 + 8 * bits 0x80000000 38 30) 8) 63 63 = 0 :=
  ⟨{ loadedCtx State.reset with ptroot := 0x4000 }, { base := 0, lg := 30, w := false, x := false, kind := 0, cls := 0, tol := 0, kh := 0, bset := 0 }, by decide +kernel⟩
theorem wit_leaves : leafOf 3 0 = none ∧ (leafOf 0 (2 ^ 63 + 2 ^ 39)).isSome = true ∧ bits (2 ^ 54) 56 54 < 5 := by decide +kernel
theorem wit_banks : bfield (bankRec (walked (BitVec.ofNat 32 (2 ^ 31))) 0) 31 1 = 1 ∧ bfield (bankRec (walked 0x3C000000) 0) 26 4 ≠ 0 ∧ bfield (bankRec (walked 0) 0) 31 1 = 0 ∧
    bfield (bankRec (walked 0) 0) 26 4 = 0 ∧ bfield (bankRec (walked 0) 0) 22 4 = 0 := by decide +kernel
/-- A page with key handle 5, whose key context 0 holds. -/
def keyed (holders : Nat) : State := { live with tlb := [{ home := 0, slot := 0, page := 0, leaf := { page with kh := 5 } }],
                                                 keys := [(5, some { key1 := 1, key2 := 2, lid := 3, base := 0, holders := holders })] }
theorem wit_keys : tlbHit (keyed 1) 0 0xFFC0 = some { page with kh := 5 } ∧ (4 : Nat) ≠ 5 ∧ Sparse.get none live.keys (paPkg page.base * 1024 + 5) = none ∧
    Sparse.get none (keyed 1).keys (paPkg page.base * 1024 + 5) = some { key1 := 1, key2 := 2, lid := 3, base := 0, holders := 1 } ∧ paPkg page.base = (keyed 1).pkgNo.toNat ∧
    (1 : Nat).testBit 0 = true ∧ (2 : Nat).testBit 0 = false ∧ sectorsOk (keyed 1) (physOf { page with kh := 5 } 0xFFC0) 64 = true ∧
    Sparse.get none (keyed 1).keys ((keyed 1).pkgNo.toNat * 1024 + (5 : BitVec 10).toNat) ≠ none := by decide +kernel
theorem hits (s : State) (h : s.tlb = [{ home := 0, slot := 0, page := 0, leaf := page }]) (hc : s.coreNo = 0) (hu : s.unit = none) (va : Nat) (hv : va < 65536) :
    tlbHit s 0 va = some page := by
  simp [tlbHit, tlbNear, h, hc, hu, page, loadedLeaf, Nat.div_eq_of_lt hv]
theorem wit_tile_image : Held (entered 0) 0 0x1000 12352 true 0x1000 := ⟨page, fun i hi => hits _ (by decide +kernel) (by decide +kernel) rfl _ (by omega), by decide +kernel⟩

-- Block stores and easels.
/-- A store of two frames, one layer, two blocks and two sequences on the page of `live`. -/
def storeRec : StoreRec := { poolbase := 0x4000, nframe := 2, sumbase := 0xC000, tabbase := 0, nseq := 2, nl := 1, maxb := 2, kvh := 1, dc := 0, ksh := 0, req := true }
/-- A block record in frame 0. -/
def blockRec (ref : Nat) : BlockRec := { surv := 0xFFFFFFFFFFFFFFFF, addr := 0x4000, fmt := 0, ref := ref, gen := 0 }
/-- Sequence 0 has one full block, record 1, which sequence 1 shares where `ref` is 2. -/
def kvOf (ref : Nat) : KvStore := { KvStore.empty with
  cfg := some storeRec, used := [(0, 15)], recs := [(1, blockRec ref)], nextRec := 2, queue := [1],
  seqs := [(0, { len := 64, st := .none, tab := [(0, 1)], wet := [] })] }
/-- The EZ ring has an entry, and column 0 has a store. -/
def easy (kv : KvStore) : State := modCtx (entered 4) 0 fun c => { c with kv := [(0, kv)] }
theorem wit_ez : EzCan (easy (kvOf 1)) (cmd 0 0 0 0 0) 0 storeRec := by refine ⟨⟨⟨?_, ?_, ?_⟩, ?_⟩, ?_⟩ <;> decide +kernel
theorem wit_blocks_allocated : layersFit storeRec (cmd (.ofNat 40 (2 ^ 12)) 0 0 0 0) ∧ onlyP0 (cmd (.ofNat 40 (2 ^ 12)) 0 0 0 0) ∧
    tabRec storeRec (kvOf 1) 0 0 1 = none ∧ reserveOk storeRec [0] (kvOf 1) = none ∧ reserveOk storeRec [0, 0] (kvOf 1) = some 2 ∧
    ∃ w1, [(0, 1)].foldlM (allocBlock 0 storeRec 0 0) (work (easy (kvOf 1)) 0) = .ok w1 := by
  refine ⟨?_, ?_, ?_, ?_, ?_, ok_of ?_⟩ <;> first | decide +kernel | (unfold layersFit; decide +kernel) | (unfold onlyP0; decide +kernel)
theorem kvOf_known (ref : Nat) : Known (kvOf ref) := by
  intro q k i h
  by_cases hq : q = 0
  · subst hq
    by_cases hk : k = 0
    · subst hk
      have : i = 1 := by simpa [kvOf, getSeq, Sparse.get, Sparse.find] using h.symm
      simp [kvOf, this]
    · simp [kvOf, getSeq, Sparse.get, Sparse.find, SeqDesc.empty, hk] at h
  · simp [kvOf, getSeq, Sparse.get, Sparse.find, SeqDesc.empty, hq] at h
theorem wit_copy_on_write : (1 < (getRec (kvOf 2) 1).ref) ∧ tabRec storeRec (kvOf 2) 0 0 0 = some 1 ∧ reserveOk storeRec [0] (kvOf 2) = none ∧ Known (kvOf 2) ∧
    ∃ w1, [0].foldlM (fun w l => privatise 0 storeRec 0 l 0 w) (work (easy (kvOf 2)) 0) = .ok w1 := by
  refine ⟨?_, ?_, ?_, kvOf_known 2, ok_of ?_⟩ <;> decide +kernel
theorem wit_frees_and_shares : (getSeq (kvOf 1) 0).st = .none ∧ (0 : Nat) ≤ 64 * storeRec.maxb ∧ (getRec (kvOf 1) 1).ref + 1 ≤ 255 ∧
    (getSeq { kvOf 1 with seqs := [(0, { SeqDesc.empty with st := .live })] } 0).st ≠ .none := by decide +kernel
theorem wit_evicts : 64 * (0 + 1) ≤ (getSeq (kvOf 1) 0).len ∧ (0xFF : Word) &&& (getRec (kvOf 1) 1).surv = 0xFF ∧
    (∃ w1, [0].foldlM (evictLayer 0 storeRec 0 0 0xFF []) (work (easy (kvOf 1)) 0) = .ok w1) ∧
    ∃ w1, [(0, 0)].foldlM (sumBlock 0 storeRec 0) (work (easy (kvOf 1)) 0) = .ok w1 := by
  refine ⟨?_, ?_, ok_of ?_, ok_of ?_⟩ <;> decide +kernel
theorem wit_walks : (let c := cmd (.ofNat 40 (2 ^ 32)) 0 0 0 0
    bits c.arg.toNat 39 38 = 0 ∧ bits c.arg.toNat 34 33 ≠ 3 ∧ bits c.arg.toNat 31 0 = 0 ∧ bits c.arg.toNat 32 32 = 1 ∧ c.p0.toNat < 2 ^ 24 ∧ 0 < storeRec.nl ∧ 0 + 1 ≤ storeRec.maxb ∧
    c.p2.toNat * 512 + 32 * 1 ≤ 512 * 6096) ∧ bits (2 ^ 38) 39 38 = 1 ∧ bits (2 ^ 39) 39 38 ≥ 2 ∧ 6095 * 512 + 32 * 16 ≤ 512 * 6096 := by decide +kernel
/-- An easel of sequence 1, in a state. -/
def easel (st : EaselSt) : Easel := { st := st, seq := 1, cls := 1, rule := 0, nodes := 2, root := 5, len := 0, theta := 0, rng := 0, deficit := 0, tree := [] }
/-- The store with easel 0 in that state. -/
def eased (st : EaselSt) : KvStore := { kvOf 1 with easels := [(0, easel st)], ready := if st = .ready then [0] else [], seqs := [(1, { SeqDesc.empty with st := .live })] }
theorem wit_easels : (getEasel (kvOf 1) 511).st = .free ∧ (getSeq (kvOf 1) 1).st = .none ∧ (getEasel (eased .ready) 0).st = .ready ∧ (getEasel (eased .draft) 0).st = .draft ∧
    (getEasel (eased .check) 0).st = .check ∧ (getSeq (eased .ready) 1).st ≠ .none ∧ (∀ l, l < storeRec.nl → ∀ b, b < (64 + 63) / 64 → b < storeRec.maxb ∧ (tabRec storeRec (kvOf 1) 0 l b).isSome = true) := by
  decide +kernel
theorem wit_no_easel : ∀ k, k < 512 → (getEasel { kvOf 1 with easels := (List.range 512).map fun k => (k, easel .ready) } k).st ≠ .free := by decide +kernel
theorem wit_resume : (let z := easel .ready
    let n := pack [(16, z.seq), (8, z.cls), (8, z.rule), (8, z.nodes - 1), (24, z.root), (32, z.len), (32, z.theta), (64, z.rng.toNat), (16, z.deficit)]
    let s := { easy { kvOf 1 with seqs := [(1, { SeqDesc.empty with st := .parked })] } with mem := Memory.writeL [] 0x1000 (toBytes 128 n) }
    memNum s 0x1000 128 = n ∧ z.tree = [] ∧ z.cls < 4 ∧ z.rule < 3 ∧ 0 < z.nodes ∧ z.seq < storeRec.nseq ∧ (getSeq (store s 0) z.seq).st = .parked ∧ (getSeq (store s 0) z.seq).len = z.len) := by
  decide +kernel
theorem wit_batches : (eased .ready).ready.Nodup ∧ (∀ e ∈ (eased .ready).ready, e < 512 ∧ (getEasel (eased .ready) e).st = .ready) ∧
    64 * storeRec.nl ≤ ({ storeRec with nframe := 65 } : StoreRec).nframe - (eased .ready).used.length ∧ bits (6093 * 2 ^ 21) 33 21 + 3 ≤ 6096 := by decide +kernel
/-- Easel 0 stands in a state, and row 0 names it; row 1 is the tree of one node that holds its root. -/
def treed (st : EaselSt) : State := let s := easy (eased st)
  withCore s { s.core with rows := [(1, .ofNat 4096 (5 + 255 * 2 ^ 24))] }
theorem wit_trees : rowBytes (getRow (treed .draft).core 0) 0 2 = [0].getD 0 0 ∧ (getEasel (store (treed .draft) 0) 0).st = .draft ∧ (getEasel (store (treed .check) 0) 0).st = .check ∧
    (let row := (getRow (treed .draft).core 1).toNat
     row / 2 ^ 64 = 0 ∧ row % 2 ^ 24 = (easel .draft).root ∧ row / 2 ^ 24 % 256 = 255 ∧ 1 ≤ (easel .draft).nodes) ∧ (easel .check).len < 64 * storeRec.maxb := by decide +kernel
/-- Easel 0 in CHECK, with a tree of one node and storage for its row. -/
def checked : State := modCtx (treed .check) 0 fun c => { c with kv := [(0, { eased .check with
  easels := [(0, { easel .check with tree := [{ token := 5, parent := 255, q := 0 }] })],
  seqs := [(1, { SeqDesc.empty with st := .live, wet := [(0, 1)] })] })] }
theorem wit_checks : (getEasel (store checked 0) 0).st = .check ∧ (∃ x, commitAll 0 storeRec [(0, 0)] (work checked 0) = .ok x) ∧
    reserveOk storeRec (commitNeeds storeRec (store checked 0) (getEasel (store checked 0) 0) 1 []).1 (store checked 0) = none := by
  refine ⟨?_, ok_of ?_, ?_⟩ <;> decide +kernel
theorem wit_store_steps : (let s := modCtx (easy (kvOf 1)) 0 fun c => { c with kv := [(0, { kvOf 1 with pending := [1], draining := [1], used := [(0, 15), (1, 15)] })] }
    kvActive s 0 0 = some storeRec ∧ (getKv s 0 0).h0 = 0 ∧ (getKv s 0 0).pending ≠ [] ∧ (getKv s 0 0).draining ≠ [] ∧ (getKv s 0 0).draining.Nodup ∧
    (∀ f ∈ (getKv s 0 0).draining, Sparse.get 0 (getKv s 0 0).used f = 15)) ∧
    ((kvOf 1).draining = [] ∧ (kvOf 1).queue = [1] ∧ Sparse.find (kvOf 1).recs 1 = some (blockRec 1) ∧ (kvOf 1).enc = none ∧ reserveOk storeRec [2] (kvOf 1) = none ∧ storeRec.req = true) ∧
    reserveOk { storeRec with nframe := 1 } [2] (kvOf 1) ≠ none ∧ ({ blockRec 1 with gen := 1 } : BlockRec).gen ≠ (blockRec 1).gen := by decide +kernel
/-- The requantisation of record 1 has a quarter noted. -/
def requantising : Kw := { s := easy (kvOf 1), kv := { kvOf 1 with enc := some (0, 4) }, spill := false }



-- Lanes, packets, links.
/-- Lane 0 runs a program of the context. -/
def laned (fly : List XferFly) : State := { entered 5 with lanes := [(0, { Lane.idle with st := .running, pc := 0x100, fly := fly })] }
theorem wit_lane : LaneRuns (laned []) 0 0 (getLane (laned []) 0) (loadedCtx State.reset) ∧ (getLane (laned [{ fills := [] }]) 0).fly ≠ [] := by
  refine ⟨⟨?_, ?_, ?_, ?_, ?_⟩, ?_⟩ <;> decide +kernel
theorem wit_lane_fields : (let o := 1 * 2 ^ 41 + 5
    bits o 47 42 = 0 ∧ bits o 39 32 = 0 ∧ bits o 31 0 ≠ 0) ∧ (let o := 127 * 2 ^ 41 + 1 * 2 ^ 39; bits o 38 0 = 0 ∧ inPart (loadedCtx State.reset) (bits o 47 41) = true ∧ bits o 40 39 ≠ 0) ∧
    (let o := 127 * 2 ^ 41 + 7 * 2 ^ 38 + 2 ^ 37; bits o 34 0 = 0 ∧ bits o 37 37 = 1) := by decide +kernel
theorem wit_lane_members : memberOf (loadedCtx State.reset) 64 (127 * 2 ^ 41) = some { core := 127, slot := none, base := 0 } ∧
    memberOf (loadedCtx State.reset) 64 (2 ^ 40 + 31 * 2 ^ 22) = some { core := 0, slot := some 31, base := 0 } ∧ memberOf (loadedCtx State.reset) 64 1 = none ∧
    setRecord (loadedCtx State.reset) 64 (2 + 2 ^ 64 * 0 + 2 ^ 128 * (2 ^ 41)) = some [{ core := 0, slot := none, base := 0 }, { core := 1, slot := none, base := 0 }] ∧
    membersApart 64 [{ core := 0, slot := none, base := 0 }, { core := 1, slot := none, base := 0 }] = true ∧ setRecord (loadedCtx State.reset) 64 0 = none ∧
    Held (laned []) 0 0x1000 64 false 0x1000 := by refine ⟨?_, ?_, ?_, ?_, ?_, ?_, ⟨page, ?_⟩⟩ <;> decide +kernel
theorem wit_lane_phase : (∀ n, n < 16 → (0 : Nat) / 4 ^ n % 4 ≠ 3) ∧ ¬(∀ n, n < 16 → (3 : Nat) / 4 ^ n % 4 ≠ 3) ∧
    65536 - (getCol live (0 * 2 ^ 3 + 0)).refloss % 65536 ≥ 32768 := by decide +kernel
theorem wit_runs : CanRun (entered 5) 5 (cmd 0 0x40 0 0 0) 0 ∧ inPart (loadedCtx State.reset) (16 * 7) = true ∧ (getLane (entered 5) 0).st = .idle ∧
    ownsLane (laned []) (getLane (laned []) 0) = false ∧ (getLane { laned [] with lanes := [(0, { Lane.idle with st := .suspended })] } 0).owner = ((laned []).coreNo, (getRing (laned []).core 5).rseq) := by
  refine ⟨⟨⟨?_, ?_, ?_⟩, ?_⟩, ?_, ?_, ?_, ?_⟩ <;> decide +kernel
/-- Peers: core 1 of this package, a core of package 1, of which no link is up, and of package 1 with its link up. -/
def peer1 : Peer := { dom := 0, pkg := 0, core := 1 }
/-- The link to package 1 is up. -/
def linked : State := { entered 3 with links := [(0, { Link.fresh with st := .up })] }
theorem wit_cm : CmCan (entered 3) (cmd 0 1 0 0 0) 0 (loadedCtx State.reset) := by refine ⟨⟨⟨?_, ?_, ?_⟩, ?_, ?_⟩, ?_⟩ <;> decide +kernel
theorem wit_peers : peerOf 1 = some peer1 ∧ peerHere (entered 3) peer1 = true ∧ inPart (loadedCtx State.reset) 1 = true ∧ peerOf 0x80 = none ∧
    peerOf 0x100 = some { dom := 0, pkg := 1, core := 0 } ∧ peerHere (entered 3) { dom := 0, pkg := 1, core := 0 } = false ∧ peerReach (entered 3) { dom := 0, pkg := 1, core := 0 } = false ∧
    peerReach linked { dom := 0, pkg := 1, core := 0 } = true := by decide +kernel
theorem wit_puts : (let a := (6143 * 2 ^ 27 : BitVec 40).toNat; bits a 18 0 = 0 ∧ bits a 39 27 + (bits a 26 20 + 1) ≤ 6144 ∧ (6095 : Nat) + 1 ≤ 6096) ∧
    PeerSide (entered 3) 0 1 true 0x1000 512 true 0x1000 ∧ PeerSide (entered 3) 0 1 false 6095 512 false (512 * 6095) := by
  refine ⟨?_, ⟨page, ?_⟩, ?_, ?_⟩ <;> decide +kernel
theorem wit_signals : (let a := (3 * 2 ^ 38 + 255 * 2 ^ 30 : BitVec 40).toNat; bits a 29 0 = 0 ∧ bits a 39 38 ≠ 0) ∧ (getRing (entered 3).core 3).results = [] ∧
    (let r := (getRing (with_ fun c => { c with rings := [(3, { Ring.empty with occ := 2, results := [{ outcome with puts := true }] })] }).core 3).results
     ¬(∀ x ∈ r, x.puts = true → x.posted = true)) ∧ (let a := (9 * 2 ^ 36 + 2 ^ 35 : BitVec 40).toNat; bits a 34 0 = 0 ∧ bits a 39 36 < 10 ∧ (0xFFF8 : Nat) % 8 = 0) ∧
    Held (entered 3) 0 0xFFF8 8 true 0xFFF8 := by refine ⟨?_, ?_, ?_, ?_, ⟨page, ?_⟩⟩ <;> decide +kernel
theorem wit_atomic_denied : translate (entered 3) 0 0x10000 .atomic = .error 9 := by rfl
/-- A record of R364: group 1, one level of one iteration, a row to a member's row. -/
def collRow (kind : Nat) : Row := .ofNat 4096 (1 + kind * 2 ^ 16 + 2 ^ 40 + 512 * 2 ^ 64 + 2 ^ 96 + (if kind = 3 then 4 * 2 ^ 24 else 0) + 0x2000 * 2 ^ 384 + 2 ^ 512)
theorem wit_collectives : collOk (collRow 0) (collOf (collRow 0)) = true ∧ (collOf (collRow 0)).kind = 0 ∧ collOk 0 (collOf 0) = false ∧ collOk (collRow 3) (collOf (collRow 3)) = true ∧
    (collOf (collRow 3)).kind = 3 ∧ (getGroup live.core 1).aborted = none ∧ (getGroup (with_ fun c => { c with groups := [(1, { Group.fresh with aborted := some 4 })] }).core 1).aborted = some 4 ∧
    4 ≤ (5 : BitVec 3).toNat := by decide +kernel
/-- A walker at its only iteration, whose member table names core 1. -/
def walking : State := { with_ (fun c => { c with walkers := [{ seq := 0, record := collRow 0, next := 1, waiting := [], refused := none }] }) with mem := Memory.write live.mem 0x2000 1 }
theorem wit_walker : engSlot walking = some 0 ∧ (let g := collOf (collRow 0)
    (getGroup walking.core g.group).frozen = false ∧ g.stl = 0 ∧ 1 ≤ collTotal g ∧ g.len % 512 = 0 ∧ g.sk ≤ 1 ∧ g.dk ≤ 1 ∧
    (g.mtab + 4 * (collStep g 1).1) % 2 ^ 64 = 0x2000 ∧ peerOf (memNum walking 0x2000 4) = some peer1 ∧ (collStep g 1).2.1 = 0 ∧ (collStep g 1).2.2 = 0) ∧ Held walking 0 0x2000 4 false 0x2000 ∧
    PeerSide walking 0 1 false 0 512 true 0 := by refine ⟨?_, ?_, ⟨page, ?_⟩, ?_, ?_⟩ <;> decide +kernel
/-- A header of R368 in row 0 and one mask in row 1: one token of one row for one expert, core 1, row 9, capacity 1. -/
def expertRows : State := let s := entered 3
  { withCore s { s.core with rows := [(0, .ofNat 4096 (1 + 2 ^ 16 + 2 ^ 24 + 0x2000 * 2 ^ 64)), (1, 1)] } with
    mem := Memory.writeL live.mem 0x2000 (toBytes 16 (1 + 9 * 2 ^ 32 + 2 ^ 48)) }
theorem wit_experts : experts 0 1 expertRows 1 0x2000 = .ok [{ peer := peer1, drow := 9, cap := 1, mg := 0, stl := 0 }] := by rfl
theorem wit_expert_header : (let h := getRow expertRows.core 0
    rowBytes h 0 2 = 1 ∧ rowBytes h 2 1 = 1 ∧ rowBytes h 3 1 = 1 ∧ rowBytes h 6 2 = 0 ∧ rowBytes h 8 8 % 64 = 0 ∧ rowBytes h 16 496 = 0 ∧ rowBytes (getRow expertRows.core 1) 0 8 < 2 ^ 1 ∧
    expertRows.coreNo ∉ [peer1.core]) := by decide +kernel
theorem wit_abort : slotOfJob (entered 3) ((loadedCtx State.reset).job % 2 ^ 32) = some 0 ∧ (entered 3).aborts = [] ∧ (entered 3).stopsDue = [] ∧ bits (65535 * 2 ^ 24) 39 24 ≠ 0 ∧
    (getCore (entered 3) 1).walkers = [] ∧ (getGroup (getCore (entered 3) 1) 5).aborted = none := by decide +kernel
theorem wit_abort_peers : tablePeers 0 0x2000 walking 1 0 = .ok [peer1] := by rfl
/-- A request to core 1 of this package for the context with JOB 0. -/
def request (op : BitVec 8) (addr : Word) (payload : List Byte) : Packet :=
  { op := op, flg := 0, group := 1, job := 0, src := 0x100, dst := 1, addr := addr, step := 1, len := 0, payload := payload }
/-- A request's payload: the form of its target, a header, and its data. -/
def formed (form : Byte) (l : List Byte) : List Byte := form :: List.replicate 23 0 ++ l
theorem wit_at_home : AtHome live (request 1 3 (formed 2 (toBytes 2 512))) 0 (loadedCtx State.reset) ∧ packetDst (request 1 0 []) = (live.domNo.toNat, live.pkgNo.toNat) ∧
    slotOfJob live (5 : BitVec 32).toNat = none ∧ packetDst { request 1 0 [] with dst := 0x100 } ≠ (live.domNo.toNat, live.pkgNo.toNat) ∧
    (let k := request 1 6095 (formed 2 (toBytes 2 512)); pktForm k = 2 ∧ ofBytes (pktData k) % 512 = 0 ∧ bits k.addr.toNat 12 0 + ofBytes (pktData k) / 512 ≤ 6096 ∧ k.flg.getLsbD 1 = false) ∧
    (let k := request 3 0xFFF8 (formed 1 (toBytes 18 (2 ^ 8 * 8))); pktForm k = 1 ∧ (pktData k).length = 18 ∧ rowBytes (.ofNat 4096 (ofBytes (pktData k))) 1 1 = 8 ∧ k.addr.toNat % 8 = 0) ∧
    (let k := request 1 0xFC0 (formed 0 (toBytes 1 64))
     pktForm k = 0 ∧ (attrOf k).tol = 0 ∧ (attrOf k).eng = false ∧ bits k.addr.toNat 45 0 % 64 = (attrOf k).va % 64 ∧ 0 < ofBytes (pktData k) ∧ ofBytes (pktData k) ≤ 64) ∧
    inPart (loadedCtx State.reset) (bits (request 1 0 []).dst.toNat 6 0) = true ∧ inPart { loadedCtx State.reset with width := 0, part := 1 } 1 = false ∧
    bits (3 + 4 * 511 : Word).toNat 1 0 ≠ 0 := by refine ⟨⟨?_, ?_, ?_, ?_⟩, ?_⟩ <;> decide +kernel
theorem wit_physical : (let k := request 1 0xFC0 (formed 0 (toBytes 1 64))
    physOk { live with banks := [(0, 0)] } 0 0xFC0 64 (attrOf k) = .ok () ∧ physOk live 0 0xFC0 64 (attrOf k) = .error 9 ∧ sectorsOk live 0xFC0 64 = true ∧ doorFrames live = []) :=
  ⟨by rfl, by rfl, by decide +kernel, by decide +kernel⟩
theorem wit_groups : (getGroup (getCore live 1) 1).frozen = false ∧ (let k := request 5 0 (toBytes 8 (2 * 2 ^ 24)); pktForm k = 2 ∧ pktKind k = 0 ∧ (k.payload.drop 8).length % 512 = 0) ∧
    3 ≤ pktKind (request 5 0 [4]) ∧ live.aborts = [] ∧ live.stopsDue = [] ∧ ((getCore live 1).walkers.map (dropMarks 1)).all (fun w => rowBytes w.record 0 2 != 1 || w.waiting.isEmpty) = true ∧
    (peerOf (request 5 0 []).src.toNat).any (fun p => !peerHere live p) = true ∧
    (let s := setCore live 1 { getCore live 1 with groups := [(1, { Group.fresh with frozen := true, aborted := some 3 })] }
     (getGroup (getCore s 1) 1).frozen = true ∧ (getGroup (getCore s 1) 1).aborted ≠ none) ∧
    (let s := setCore live 1 { getCore live 1 with walkers := [{ seq := 0, record := .ofNat 4096 1, next := 2, waiting := [(1, request 2 0 [])], refused := none }] }
     ((getCore s 1).walkers.map (dropMarks 1)).all (fun w => rowBytes w.record 0 2 != 1 || w.waiting.isEmpty) = false) := by decide +kernel
/-- The head entry of CM waits for the answer to one request. -/
def awaiting : State := with_ fun c => { c with
  rings := [(3, { Ring.empty with wp := 1, occ := 1, results := [{ outcome with busy := true }] })],
  cmwait := [{ seq := 0, sent := [], waiting := [(4, { request 2 0 [] with src := 0, dst := 0x100 })], todo := [], after := [], detail := 512, raised := false, repeatable := true }] }
theorem wit_answers : engSlot awaiting = some 0 ∧ curSlot awaiting = some 0 ∧ getCtx awaiting 0 = some (loadedCtx State.reset) ∧ liveCtx awaiting 0 (loadedCtx State.reset) = true ∧
    answers { request 9 0 [0] with src := 0x100, dst := 0 } { request 2 0 [] with src := 0, dst := 0x100 } = true ∧
    bits (0 : BitVec 32).toNat 6 0 = awaiting.coreNo ∧ awaiting.core.cmwait.length = 1 ∧ awaiting.core.walkers = [] ∧ awaiting.aborts = [] ∧ awaiting.stopsDue = [] ∧ (getRing awaiting.core 3).rseq = 0 ∧
    ofBytes ([4] : List Byte) = 4 ∧ (∀ code, code ∈ [0, 1, 3, 4, 8, 9, 0x0C] → ofBytes ((toBytes 13 code).take 1) = code) ∧
    (let q := { request 2 0 (formed 1 []) with src := 0, dst := 0x100 }
     routeUp awaiting q = false ∧ routeUp { awaiting with links := [(0, { Link.fresh with st := .up })] } q = true ∧ bits q.src.toNat 6 0 = awaiting.coreNo ∧ q.op ≠ 6) := by decide +kernel
/-- A flit of a kind with a sequence number, a payload and the right CRC. -/
def flit (kind seq : Nat) (load : Nat := 0) : BitVec 2048 := let f := kind * 2 ^ 60 + seq * 2 ^ 48 + 2 ^ 64 * load; .ofNat 2048 (f + 2 ^ 1984 * crc64 ((toBytes 256 f).take 248))
theorem wit_links : (getLink linked 0).st = .up ∧ (getLink linked 1).st ≠ .up ∧ (getLink linked 0).outq = [] ∧ (getLink linked 0).owed = [] ∧ (getLink linked 0).nak = false ∧ (getLink linked 0).fails < 63 ∧
    (∀ k ∈ [0, 1, 2], bits (flit k 0).toNat 63 60 = k ∧ (flit k 0).toNat / 2 ^ 1984 = crc64 ((toBytes 256 (flit k 0).toNat).take 248)) ∧
    bits (flit 1 0).toNat 59 48 = (getLink linked 0).rxSeq ∧ bits (flit 1 7).toNat 59 48 ≠ (getLink linked 0).rxSeq ∧ (takeFlit (flit 1 0 (2 ^ 1920 - 1)) (getLink linked 0)).2 = none ∧
    ¬((0 : BitVec 2048).toNat / 2 ^ 1984 = crc64 ((toBytes 256 (1 : BitVec 2048).toNat).take 248)) ∧
    63 ≤ (getLink { live with links := [(2, { Link.fresh with st := .up, fails := 63 })] } 2).fails ∧
    (getLink { live with links := [(2, { Link.fresh with st := .retraining, fails := 63, unacked := [0] })] } 2).st = .retraining ∧
    (getLink { live with links := [(2, { Link.fresh with st := .up, unacked := [0] })] } 2).unacked ≠ [] := by decide +kernel
/-- The context's datagrams are sealed under a key. -/
def sealed : State := modCtx live 0 fun c => { c with transport := 1, jobKey := 5 }
theorem wit_flows : (getFlow live 3).rxSeq = (0 : BitVec 32).toNat ∧ 9 < (10 : BitVec 8).toNat ∧ sealKey live 0 = none ∧ sealKey sealed 0 = some 5 ∧ 0 + 50000 ≤ devNs { live with clock := 90000 } ∧
    openDatagram live 3 0 0 (request 10 0 []) = some (request 10 0 []) ∧ answerCode (request 9 0 [3]) ≠ 6 ∧ answerCode (request 9 0 [3]) ≠ 7 ∧
    (let v := getFlow { live with flows := [(3, { Flow.fresh with unacked := [{ seq := 0, pkt := request 1 0 [], body := [], tag := 0, sent := 0, resends := 63 }] })] } 3
     v.unacked = [{ seq := 0, pkt := request 1 0 [], body := [], tag := 0, sent := 0, resends := 63 }] ∧ ∀ d ∈ v.unacked, 63 ≤ d.resends) := by decide +kernel
theorem wit_sealed : ∃ good bad : BitVec 128, gcmTag (aesKey (splitEls 8 32 5)) (nonceOf 3 false (0 : BitVec 32).toNat) [] = good ∧
    gcmTag (aesKey (splitEls 8 32 5)) (nonceOf 3 false (0 : BitVec 32).toNat) [] ≠ bad := by
  generalize gcmTag (aesKey (splitEls 8 32 5)) (nonceOf 3 false (0 : BitVec 32).toNat) [] = x
  exact ⟨x, x + 1, rfl, fun h => by bv_omega⟩
-- Banks, power, host registers, launches and switches.
theorem wit_bank_allocate : (freeBanks live 0 2).length = 2 ∧ getCtx live 0 ≠ none ∧ getCtx live 3 = none ∧ live.bankReqs = [] ∧
    ((freeBanks live 0 2).filter fun k => recState (ownRec live (.ofNat 15 k)) == 3 || (bankTime live (ownBank live (.ofNat 15 k))).scrub.isSome) ≠ [] ∧
    (let s := { live with banks := [(0, 0x3C100000), (1, 0x3C100000)] }
     ((freeBanks s 0 2).filter fun k => recState (ownRec s (.ofNat 15 k)) == 3 || (bankTime s (ownBank s (.ofNat 15 k))).scrub.isSome) = []) := by decide +kernel
theorem wit_bank_states : recOwner (ownRec live 0) = 15 ∧ recOwner (ownRec (walked 0) 0) ≠ 15 ∧ bankHeld (walked 0) 0 = false ∧ recState (ownRec (walked 0) 0) = 0 ∧
    (bankTime live 0).access + 1000 ≤ devNs { live with clock := 9000 } ∧ recState (ownRec (walked 0x00100000) 0) = 1 ∧ levelOf (walked 0x00100000) 0 0 = 0 ∧ ((getCtx (walked 0x00100000) 0).bind fun c => Sparse.find c.phasePend 0) = none ∧
    (∃ c p, getCtx (modCtx (walked 0x00100000) 0 fun c => { c with phasePend := [(0, { level := 2, due := 1, since := 0 })] }) 0 = some c ∧ c.running = true ∧
      Sparse.find c.phasePend 0 = some p ∧ p.level = 2 ∧ p.due ≤ gtimeOf live + 1200) ∧
    (let s := { live with bankT := [(0, { BankTime.zero with entering := some 0, waking := some 0, scrub := some 0 })], bankReqs := [{ ctx := 0, set := 1, banks := [0], left := [0] }] }
     (bankTime s 0).scrub = some 0 ∧ (bankTime s 0).entering = some 0 ∧ (bankTime s 0).waking = some 0 ∧ 0 ≤ devNs s ∧ (∃ q, s.bankReqs = [q] ∧ q.left = [(0 : BitVec 15).toNat])) ∧
    (∃ e ∈ (getCore storing 0).sb, paBank e.pa = 0) ∧ slotOf storing 0 ≠ none := by
  refine ⟨?_, ?_, ?_, ?_, ?_, ?_, ?_, ?_, ⟨_, _, rfl, ?_, rfl, ?_, ?_⟩, ⟨?_, ?_, ?_, ?_, ⟨_, rfl, ?_⟩⟩, ?_, ?_⟩ <;> decide +kernel
theorem wit_bank_deep : (let s := { walked 0x3C100000 with clock := 1800000 }
    recState (ownRec s 0) = 1 ∧ recOwner (ownRec s 0) = 15 ∧ bfield (ownRec s 0) 30 1 = 0 ∧ (bankTime s 0).freed + 1000000 ≤ devNs s) ∧
    (let s := modCtx (walked 0x00200000) 0 fun c => { c with wakeFrom := [(0, [0])] }
     recState (ownRec s 0) = 2 ∧ (bankTime s 0).waking = none ∧ bfield (ownRec s 0) 31 1 = 0 ∧
       (((getCtx s 0).elim [] fun c => letWake s c 0).filter fun x => decide ((bankTime s 0).retained ≤ x) && decide (x ≤ devNs s)) = [0]) := by decide +kernel
theorem wit_levels : (let c := { loadedCtx State.reset with phasePend := [(3, { level := 2, due := 0, since := 0 })] }
    Sparse.find c.phasePend (3 : BitVec 4).toNat = some { level := 2, due := 0, since := 0 } ∧ 0 ≤ gtimeOf live ∧ c.running = true ∧ (2 : Nat) < 4) ∧
    (getStack { live with dramStacks := [(1, { Stack.fresh with committing := true })] } 1).committing = true ∧ repairClash [] = false ∧ (getStack live 1).committing = false := by decide +kernel
theorem wit_power : (getCol { live with clock := 1800 } 0).refilled < devNs { live with clock := 1800 } / 1000 ∧ (getCol live 0).tokq = [] ∧ (getCol live 0).throttled = false ∧ (getCol live 0).stretched = false ∧
    (let c := getCol { live with cols := [(0, { Column.fresh with tokq := [{ core := 3, sk := true, tokens := 4, since := 0 }] })] } 0
     c.tokq ≠ [] ∧ 4 ≤ c.pool) := by decide +kernel
/-- A board whose owner host is at endpoint 0, over a link that needs no IDE. -/
def board : BoardRecord := { domain := 0, pkg := 0, ident := 0, lanemaps := [(5, 0x107)], stacksRead := 0xFF, repairs := [(3, 0x10000)], split := 0, ideNeeds := 2, owner := 0 }
theorem wit_host : (let s : State := { live with board := some board, tlbinv := 2 ^ 63 }
    (s.board.any fun b => linkOpen s b.owner.toNat) = true ∧ ((none : Option BoardRecord).any fun b => linkOpen live b.owner.toNat) = false ∧ mgmtAt 0x20 = none ∧ mgmtAt 0x1018 ≠ none ∧
    s.tlbinv.getLsbD 63 = true ∧ invHeld s.tlbinv.toNat s = false ∧ live.tlbinv.getLsbD 63 = false) ∧ (getPart live (partOf live 5)).phase = .running ∧
    (live.ctxs.filter fun e => match e.2 with | some c => inPart c 5 && c.launched | none => false) = [(0, some (loadedCtx State.reset))] ∧ liveCtx live 0 (loadedCtx State.reset) = true ∧
    (State.reset.ctxs.filter fun e => match e.2 with | some c => inPart c 5 && c.launched | none => false) = [] ∧ laneEn live.core.lanemap = false ∧
    (engSlotOf storing 0 = some (bits (2 ^ 63 : Word).toNat 61 59) ∧ ∃ e ∈ (getCore storing 0).sb, rangeNamed (2 ^ 63 : Word).toNat (e.va / 65536) 16 = true) ∧
    (let s := { live with ctxs := [(0, some { loadedCtx State.reset with launched := true, running := false })], parts := [] }
     liveCtx s 0 { loadedCtx State.reset with launched := true, running := false } = false) := by decide +kernel
/-- Partition 0 is being stopped, or saved, or its time is up. -/
def parting (ph : PartPhase) : State := { live with
  parts := [(0, { Part.idle with slot := some 0, phase := ph, quantum := some 0 })], recency := [3],
  ctxs := [(0, some { loadedCtx State.reset with cls := 1 }), (3, some { loadedCtx State.reset with running := false, launch := some 0 })] }
theorem wit_switch : (getPart (parting .running) 0).phase = .running ∧ (getPart (parting .running) 0).quantum = some 0 ∧ ctxClass (parting .running) 0 ≠ 0 ∧ ready (parting .running) 3 = true ∧
    widthOk (parting .running) 3 = true ∧ ctxClass (parting .running) 3 ≤ ctxClass (parting .running) 0 ∧ givesWay (parting .running) 0 = true ∧
    (partCores (parting .stopping) 0).all (fun k => coreStopped false false (focus k (parting .stopping))) = true ∧ (getPart (parting .saving) 0).phase = .saving := by decide +kernel
theorem wit_gang : ({ live with gswctl := 2 ^ 63 } : State).gswctl.getLsbD 63 = true ∧ ({ live with gswctl := 2 ^ 63 } : State).gsw.toNat ≤ gtimeOf live ∧ live.gswctl.getLsbD 63 = false := by decide +kernel
theorem wit_resets : ({ live with wrst := 1 } : State).wrst.getLsbD 0 = true ∧ live.wrst.getLsbD 0 = false ∧ boardStack (some board) 0 = [(3, 0x10000)] ∧ board.lanemaps = [(5, 0x107)] ∧
    { board with lanemaps := [] }.lanemaps = [] := by decide +kernel
theorem wit_fetch : Sparse.get none live.core.icache live.core.pc.toNat = none ∧ sectorsOk live 0 16 = true ∧
    Sparse.get none (with_ fun c => { c with icache := [(0, some 0)] }).core.icache 0 ≠ none := by decide +kernel
theorem wit_fetch_page : translate live 0 0 .fetch = .ok page ∧ translate (with_ fun c => { c with pc := 0x10000 }) 0 0x10000 .fetch = .error 9 := ⟨by rfl, by rfl⟩

-- The whole machine.
theorem wit_fetches : Fetches live 0 { s := .nop 0, v := .vnop, m := .mnop } := ⟨by decide +kernel, by decide +kernel, by decide +kernel, by rfl, by rfl⟩
theorem wit_bad_bundle : fetchBundle (loadBundle State.reset 128 0x1C000000) = .ok 0x1C000000 ∧ decodeBundle 0x1C000000 = .error (1, .extension) := ⟨by rfl, by rfl⟩
theorem wit_reserved : 0x38 ≤ 0x1C000000 / 2 ^ 23 % 64 ∧ 0xE0 ≤ 0xE00000000000 / 2 ^ 40 % 256 ∧ 0x72 ≤ 0x7F0000000000 / 2 ^ 40 % 256 ∧ 0x29 ≤ 0x29 * 2 ^ 42 / 2 ^ 42 % 64 := by decide
theorem wit_round_trip : Instr.wf (.extu 7 31 31 63 0) = true ∧ Instr.wf (.vcmp 4 15 15 0x3F 1 5) = true ∧ Instr.wf (.enq 5 63 6 1 0 0) = true := by decide
theorem wit_bundle : inS (.add 0 3 1 2) = true ∧ inV (.vadd 4 0 3 1 2) = true ∧ inM (.claim 17 1) = true ∧ clash (.add 0 3 1 2) (.vadd 4 0 3 1 2) = false ∧
    alone (.trap 0 1) = true ∧ alone (.add 0 3 1 2) = false := by decide
theorem wit_memory : Memory.wf (Memory.write [] 5 7) = true ∧ MemOk State.reset ∧ MemOk live := ⟨by decide +kernel, by unfold MemOk; decide +kernel, by unfold MemOk; decide +kernel⟩
theorem wit_thread : ofThread (.add 0 3 1 2) ∧ RegistersKept live.core ∧ (ask (exec (.add 0 3 1 2) live) fun _ => true) = some true :=
  ⟨.inl (by decide), by unfold RegistersKept; decide +kernel, by decide +kernel⟩
/-- A package of eight partitions whose slot-0 banks and tables map the first GiB of its memory. -/
def mapped : State := { State.reset with
  partcfg := 3, banks := (List.range 64).map fun b => (b, 0),
  mem := Memory.writeL (Memory.writeL [] 0x200000 (toBytes 8 (2 ^ 63 + 0x3000))) 0x300000 (toBytes 8 (2 ^ 63 + 2 ^ 62 + 2 ^ 39)) }
/-- The context of a residency record: PTROOT and SAVEBASE. -/
def mappedCtx : Ctx := ctxOf (.ofNat 512 (0x200000 * 2 ^ 64 + 0x10000000 * 2 ^ 128)) [] 0
/-- The page that its tables hold. -/
def giB : Leaf := { base := 0, lg := 30, w := true, x := false, kind := 0, cls := 0, tol := 0, kh := 0, bset := 0 }
theorem mapped_walk (va : Nat) (h : va < 2 ^ 30) : walk (setCtx mapped 0 (some mappedCtx)) 0 va = .ok giB := by
  have h3 : bits va 56 39 = 0 := by simp only [bits]; omega
  have h2 : bits va 38 30 = 0 := by simp only [bits]; omega
  have hc : getCtx (setCtx mapped 0 (some mappedCtx)) 0 = some mappedCtx := by decide +kernel
  have hp : mappedCtx.ptroot = 0x200000 := by decide +kernel
  have s3 : sectorsOk (setCtx mapped 0 (some mappedCtx)) (0x200000 + 8 * 0) 8 = true := by decide +kernel
  have s2 : sectorsOk (setCtx mapped 0 (some mappedCtx)) (0x3000 * 256 + 8 * 0) 8 = true := by decide +kernel
  have m3 : memNum (setCtx mapped 0 (some mappedCtx)) (0x200000 + 8 * 0) 8 = 2 ^ 63 + 0x3000 := by decide +kernel
  have m2 : memNum (setCtx mapped 0 (some mappedCtx)) (0x3000 * 256 + 8 * 0) 8 = 2 ^ 63 + 2 ^ 62 + 2 ^ 39 := by decide +kernel
  have n3 : nodeBank (setCtx mapped 0 (some mappedCtx)) 0 (0x200000 + 8 * 0) = .ok () := by rfl
  have n2 : nodeBank (setCtx mapped 0 (some mappedCtx)) 0 (0x3000 * 256 + 8 * 0) = .ok () := by rfl
  have hl : leafOf 2 (2 ^ 63 + 2 ^ 62 + 2 ^ 39) = some giB := by decide +kernel
  have hb : bits (2 ^ 63 + 0x3000) 37 0 = 0x3000 := by decide +kernel
  have hr : rawWalk (setCtx mapped 0 (some mappedCtx)) 0 mappedCtx va = .ok giB := by
    rw [rawWalk, hp, walkFrom]
    simp only [lvlIndex, h3, n3, s3, m3]
    rw [if_neg (by decide), if_neg (by decide +kernel), if_neg (by decide +kernel), if_neg (by decide +kernel), hb, walkFrom]
    simp only [lvlIndex, h2, n2, s2, m2]
    rw [if_neg (by decide), if_neg (by decide +kernel), if_pos (by decide +kernel)]
    simp only [Nat.reduceSub, hl]
  have hd : (walk (setCtx mapped 0 (some mappedCtx)) 0 va) = .ok giB := by
    rw [walk, hc]
    have e1 : pageReach (setCtx mapped 0 (some mappedCtx)) 0 giB = .ok giB := by rfl
    simp only [hr, e1]
    rw [if_neg (by decide +kernel)]
    have e2 : destSlot (setCtx mapped 0 (some mappedCtx)) 0 (paPkg giB.base) = some 0 := by decide +kernel
    obtain ⟨u, e3⟩ : ∃ u, banksOk (setCtx mapped 0 (some mappedCtx)) 0 giB.bset (leafBanks giB) = .ok u := ok_of (by decide +kernel)
    simp only [e2, Option.getD_some, e3]
  exact hd
theorem mapped_pages (n : Nat) : ∀ va, va + 65536 * n ≤ 2 ^ 30 → plainPages (setCtx mapped 0 (some mappedCtx)) 0 n va = true := by
  induction n with
  | zero => intro va _; rfl
  | succ n ih =>
    intro va h
    rw [plainPages, mapped_walk va (by omega), ih (va + 65536) (by omega)]
    have : bits va 63 57 = 0 := by simp only [bits]; omega
    simp [this, giB]
theorem mapped_plain (va : Nat) (h : va < 2 ^ 30) : walkFrom mapped (nodeStack mapped) va 4 3 mappedCtx.ptroot = .ok giB := by
  have h3 : bits va 56 39 = 0 := by simp only [bits]; omega
  have h2 : bits va 38 30 = 0 := by simp only [bits]; omega
  have hp : mappedCtx.ptroot = 0x200000 := by decide +kernel
  have s3 : sectorsOk mapped (0x200000 + 8 * 0) 8 = true := by decide +kernel
  have s2 : sectorsOk mapped (0x3000 * 256 + 8 * 0) 8 = true := by decide +kernel
  have m3 : memNum mapped (0x200000 + 8 * 0) 8 = 2 ^ 63 + 0x3000 := by decide +kernel
  have m2 : memNum mapped (0x3000 * 256 + 8 * 0) 8 = 2 ^ 63 + 2 ^ 62 + 2 ^ 39 := by decide +kernel
  have n3 : nodeStack mapped (0x200000 + 8 * 0) = .ok () := by rfl
  have n2 : nodeStack mapped (0x3000 * 256 + 8 * 0) = .ok () := by rfl
  have hl : leafOf 2 (2 ^ 63 + 2 ^ 62 + 2 ^ 39) = some giB := by decide +kernel
  have hb : bits (2 ^ 63 + 0x3000) 37 0 = 0x3000 := by decide +kernel
  rw [hp, walkFrom]
  simp only [lvlIndex, h3, n3, s3, m3]
  rw [if_neg (by decide), if_neg (by decide +kernel), if_neg (by decide +kernel), if_neg (by decide +kernel), hb, walkFrom]
  simp only [lvlIndex, h2, n2, s2, m2]
  rw [if_neg (by decide), if_neg (by decide +kernel), if_pos (by decide +kernel)]
  simp only [Nat.reduceSub, hl]
theorem wit_resident : (getCtx mapped 0 = none ∧ (∀ e ∈ mapped.ctxs, ∀ x, e.2 = some x → x.job ≠ mappedCtx.job) ∧ 2 ^ mappedCtx.width = partWidth mapped ∧ mappedCtx.ptroot % 2 ^ 21 = 0 ∧
      mappedCtx.savebase % 65536 = 0 ∧ mappedCtx.dbell % 65536 = 0 ∧ mappedCtx.trbase % 16384 = 0) ∧
    (∀ i, i < 2048 * 2 ^ mappedCtx.width → ∃ lf, walkFrom mapped (nodeStack mapped) (mappedCtx.savebase + 65536 * i) 4 3 mappedCtx.ptroot = .ok lf ∧ lf.w = true ∧ lf.kh = 0 ∧ lf.tol = 0 ∧ bits (mappedCtx.savebase + 65536 * i) 63 57 = 0) ∧
    (∀ o, o < 2048 * 2 ^ mappedCtx.width → ∃ lf, walkFrom mapped (nodeStack mapped) ((mappedCtx.trbase + o) / 65536 * 65536) 4 3 mappedCtx.ptroot = .ok lf ∧ lf.w = true ∧ lf.kh = 0 ∧ lf.tol = 0 ∧ bits ((mappedCtx.trbase + o) / 65536 * 65536) 63 57 = 0) ∧
    ¬(mappedCtx.dbell ≠ 0) := by
  have hb : mappedCtx.savebase = 0x10000000 := by decide +kernel
  have ht : mappedCtx.trbase = 0 := by decide +kernel
  have hw : mappedCtx.width = 0 := by decide +kernel
  refine ⟨⟨by decide +kernel, ?_, by decide +kernel, by decide +kernel, by decide +kernel, by decide +kernel, by decide +kernel⟩, ?_, ?_, by decide +kernel⟩
  · intro e he; simp [mapped, State.reset] at he
  · intro i hi
    rw [hw] at hi
    exact ⟨giB, by rw [hb]; exact mapped_plain _ (by omega), rfl, rfl, rfl, by rw [hb]; simp only [bits]; omega⟩
  · intro o ho
    rw [hw] at ho
    exact ⟨giB, by rw [ht]; exact mapped_plain _ (by omega), rfl, rfl, rfl, by rw [ht]; simp only [bits]; omega⟩
theorem wit_residency_refused : 2 ^ (ctxOf 0 [] 0).width ≠ partWidth State.reset ∧
    (let d := ctxOf (.ofNat 512 (0x400000 * 2 ^ 64)) [] 0
     getCtx mapped 0 = none ∧ 2 ^ d.width = partWidth mapped ∧ d.ptroot % 2 ^ 21 = 0 ∧ d.savebase % 65536 = 0 ∧ d.dbell % 65536 = 0 ∧ d.trbase % 16384 = 0 ∧
     (walkFrom mapped (nodeStack mapped) d.savebase 4 3 d.ptroot).toOption = none) := by decide +kernel
/-- The same package with its context resident, whose launch names a record of zeros at address 0. -/
def launching : State := { setCtx mapped 0 (some { mappedCtx with launch := some 0 }) with recency := [0] }
theorem wit_launch : (getPart launching 0).phase = .running ∧ (getPart launching 0).slot = none ∧ partOk launching 0 = true ∧ chosen launching 0 = some 0 ∧
    getCtx launching 0 = some { mappedCtx with launch := some 0 } ∧ 2 ^ 0 = partWidth launching ∧ ((launchRead launching 0 33 0).bind (startOf 16)).isSome = true ∧
    liveCtx launching 0 { mappedCtx with launch := some 0 } = false := by
  refine ⟨?_, ?_, ?_, ?_, ?_, ?_, ?_, ?_⟩ <;> decide +kernel
theorem wit_save : saveOk (setCtx mapped 0 (some mappedCtx)) 0 mappedCtx = true := by
  rw [saveOk, mapped_pages _ _ (by decide +kernel)]

-- Further states and operands that meet premises: forwarding, full buffers, walks, transfers, packets, aborts.
theorem wit_forwards : ForwardsAt false (atIssue storing) 0x100 8 0 page 7 ∧ ForwardsAt false (atIssue storing) 0x107 1 0 page 0 ∧
    (∃ old young e, storing.core.sb = old ++ e :: young ∧ e.tol = 0 ∧ e.pa ≤ 0x107 ∧ 0x107 + 1 ≤ e.pa + e.size ∧ (∀ f ∈ young, overlap (sbRange f) (0x107, 0x108) = false)) ∧
    16 ≤ (with_ fun c => { c with sb := List.replicate 16 (storeOf 0x100 8 page 7) }).core.sb.length ∧ bits (0x100 : Word).toNat 63 56 ≠ 255 ∧
    releaseSplit [(0x100, 0x108)] [{ storeOf 0x100 8 page 7 with kind := 2 }] = ([{ storeOf 0x100 8 page 7 with kind := 2 }], [], [(0x100, 0x108), (0x100, 0x108)]) := by
  refine ⟨⟨⟨?_, ?_, ?_⟩, ?_⟩, ⟨⟨?_, ?_, ?_⟩, ?_⟩, ⟨[], [], _, rfl, ?_⟩, ?_, ?_, ?_⟩ <;> first | rfl | decide +kernel
theorem wit_path_held : Sparse.get none (with_ fun c => { c with cpath := [(cpathKey page 8, some 7)] }).core.cpath (cpathKey page 8) = some 7 ∧
    Sparse.get none live.core.cpath (cpathKey page 0xFFF8) = none ∧ LoadsAt false (atIssue live) 0xFFF8 8 0 page := by
  refine ⟨?_, ?_, ⟨?_, ?_, ?_⟩, ?_, ?_⟩ <;> first | rfl | decide +kernel
theorem wit_halted_landing : (let s := with_ fun c => { c with halted := true, inflight := [flies3 4] }
    sortLand s.core.inflight = [flies3 4] ∧ s.core.ticks < (flies3 4).land ∧ s.core.halted = true ∧ running s = false) ∧ paPkg page.base = trapping.pkgNo.toNat := by decide +kernel
theorem wit_rows_part : (let ea : Word := rdS (two 0x2FFE00 0).core 1 + 512 * (0 : Word)
    ea.toNat < 0x300000 ∧ ¬(ea.toNat / 512 + 2 ≤ 6144)) ∧
    (0 < 128 ∧ active (withCore live { live.core with vregs := [(1, { bits := 0, pz := 1 })] }) 0 0 = true ∧
      pzBit (rdV (atIssue (withCore live { live.core with vregs := [(1, { bits := 0, pz := 1 })] })).core 1) (2 * 4 * 0) = true) := by decide +kernel
theorem wit_arrivals : teamed.ctxs.find? (fun e => match e.2 with | some c => c.job == 0 | none => false) =
    some (0, some { loadedCtx State.reset with rv := [(rvKey 1 0 2, { exp := 2, cnt := 1, ph := 1 })] }) := by decide +kernel
theorem wit_queued : (getRing (entered 0).core 0).pages = [] ∧ (getRing (entered 2).core 2).pages = [] ∧ aheadDone 3 (entered 3).core = true ∧
    aheadDone 3 (with_ fun c => { c with rings := [(3, { Ring.empty with wp := 2, occ := 2, results := [{ outcome with busy := true, trans := true }] })] }).core = false := by decide +kernel
/-- That image without its zeroing first visit. -/
def oneSum : BitVec 1280 := .ofNat 1280 (64 + 128 * 2 ^ 16 + 5 * 2 ^ 32 + 2 ^ 40 + 2 ^ 512)
/-- A core whose tile 5, into which that nest sums, is uncorrectable, or in scaled mode. -/
def spoiled (f : Core → Core) : State := withCore going (f { going.core with shadows := [(0, { image := oneSum, loaded := true })] })
theorem wit_nest_checks : (∃ x ∈ sumTiles (goOf false goCmd) oneSum (imgLevels oneSum), (127, x) ∈ (spoiled fun c => { c with badTiles := [(127, 5)] }).core.badTiles) ∧
    (∃ x ∈ sumTiles (goOf false goCmd) oneSum (imgLevels oneSum), tileMode (getTile (spoiled fun c => putTile c 5 (zeroTile false 0)).core x) ≠ goInt (goOf false goCmd)) ∧
    (let s := withCore (entered 1) { (entered 1).core with shadows := [(2, { image := oneStep, loaded := true })] }
     CanRun s 1 goCmd 0 ∧ (Sparse.get Shadow.empty s.core.shadows (2 * 1 + 0)).loaded = true) ∧
    (let n := goSliced (cmd (.ofNat 40 (20 * 2 ^ 35 + 20 * 2 ^ 30 + 2 * 2 ^ 25)) 0 0 0 0)
     2 + 1 = n.sl * (n.sl + 1) / 2 ∧ goLegal n (cmd (.ofNat 40 (20 * 2 ^ 35 + 20 * 2 ^ 30 + 2 * 2 ^ 25)) 0 0 0 0) oneStep = true) ∧
    nextIdx (imgLevels oneStep) [0] = none ∧ nextIdx [{ count := 2, astr := 0, bstr := 0, tstr := 0, zf := false, mp := false, rt := false }] [0] = some [1] := by
  refine ⟨⟨5, ?_, ?_⟩, ⟨5, ?_, ?_⟩, ⟨⟨⟨?_, ?_, ?_⟩, ?_⟩, ?_⟩, ?_, ?_, ?_⟩ <;> decide +kernel
theorem wit_pages_far : (let f : Leaf := { page with base := 2 ^ 40 }
    reachable live (paPkg f.base) = false ∧ reachable linked (paPkg f.base) = true ∧ destSlot linked 0 (paPkg f.base) = none ∧ doorPage linked f = false) ∧
    reachable live (paPkg page.base) = true ∧ destSlot live 0 (paPkg page.base) ≠ none ∧ tlbHit (walked 0) 0 0x40000000 = none ∧ bits 0x40000000 63 57 = 0 := by decide +kernel
theorem wit_key_uses : keyHeld live 5 = false ∧ keyHeld (with_ fun c => { c with nestMX := none }) 5 = false := by decide +kernel
/-- A transfer to slot 1 of core 0 that has yet to begin. -/
def waitingXfer : XferFly := { fills := [(0, 1)], pend := some { pc := 0x100, x0 := 0, x1 := 0, x2 := 0, x3 := 0, exec := 0, kh := 0, ns := 1, nr := 1, pitch := 0, src := 0x1000, members := [{ core := 0, slot := some 1, base := 0 }], pages := [] } }
/-- The program runs on a core whose slot 1 is claimed, or is being filled by lane 0. -/
def lanedSlot (fill : Bool) (fly : List XferFly) : State := let s := laned fly
  withCore s { s.core with slots := [(1, { Slot.empty with st := .claimed, fill := fill })] }
theorem wit_lane_issues : (let s := lanedSlot false []; LaneRuns s 0 0 (getLane s 0) (loadedCtx State.reset) ∧ canFill (getCore s 0) 1 = true) ∧
    (let s := lanedSlot true []; canFill (getCore s 0) 1 = false ∧ (getLane s 0).fly.length < 8) ∧
    (let s := laned [waitingXfer]; ((getLane s 0).fly.find? fun f => f.pend.isSome) = some waitingXfer ∧ ∃ f ∈ waitingXfer.fills, canFill (getCore s f.1) f.2 = false) ∧
    8 ≤ (getLane (laned (List.replicate 8 { fills := [] })) 0).fly.length ∧
    (let s := lanedSlot true [{ fills := [(0, 1)] }]
     (engSlot s).isSome = true ∧ (getSlot s.core 1).fill = true ∧ fillPending s 1 = false ∧ laneFill s 1 = some (0, 0) ∧ (getLane s 0).fly[0]? = some { fills := [(0, 1)] }) := by
  refine ⟨⟨⟨?_, ?_, ?_, ?_, ?_, ?_⟩, ?_⟩, ?_⟩ <;> decide +kernel
theorem wit_lane_wakes : declaredWake 9 0 [4] = some 1300 ∧ ¬((getLane (laned []) 0).st = .idle) ∧
    (let s := { entered 5 with lanes := [(0, { Lane.idle with owner := (0, 0) })] }; runEnding s (getLane s 0) = false) ∧
    (let s := { (with_ fun c => { c with rings := [(5, { Ring.empty with wp := 2, occ := 2, results := [outcome] })] }) with lanes := [(0, { Lane.idle with owner := (0, 0) })] }
     runEnding s (getLane s 0) = true) ∧
    (let s := { (with_ fun c => { c with rings := [(5, { Ring.empty with wp := 2, occ := 2, results := [{ outcome with busy := true }] })] }) with
                lanes := [(0, { Lane.idle with st := .running, owner := (0, 0), halt := true })] }
     (getLane s 0).halt = true ∧ (getLane s 0).fly = [] ∧ ownsLane s (getLane s 0) = true) := by decide +kernel
/-- The areas of the store, as far as its two frames reach, on a page of `live` that the tables give twice the length of one frame. -/
theorem hits_wide (s : State) (lf : Leaf) (h : s.tlb = [{ home := 0, slot := 0, page := 0, leaf := lf }]) (hc : s.coreNo = 0) (hu : s.unit = none) (va : Nat) (hv : va < 2 ^ lf.lg) :
    tlbHit s 0 va = some lf := by
  simp [tlbHit, tlbNear, h, hc, hu, Nat.div_eq_of_lt hv]
/-- The page at 0 as one of 2 MiB. -/
def widePage : Leaf := { page with lg := 21 }
theorem wit_areas : AreasHeld { easy (kvOf 1) with tlb := [{ home := 0, slot := 0, page := 0, leaf := widePage }] } 0 storeRec 0x4000 0xC000 := by
  refine ⟨⟨widePage, ?_, ?_⟩, ⟨widePage, ?_, ?_⟩, ?_⟩
  · intro i hi
    have : storeRec.fb * storeRec.nframe = 32768 := by decide
    exact hits_wide _ _ rfl (by decide +kernel) rfl _ (by show storeRec.poolbase + i < 2 ^ 21; have : storeRec.poolbase = 0x4000 := rfl; omega)
  · decide +kernel
  · intro i hi
    have : 4 * storeRec.sb * storeRec.nframe = 19456 := by decide
    exact hits_wide _ _ rfl (by decide +kernel) rfl _ (by show storeRec.sumbase + i < 2 ^ 21; have : storeRec.sumbase = 0xC000 := rfl; omega)
  · decide +kernel
  · decide +kernel
theorem wit_block_storage : InPool storeRec (blockRec 1) ∧ InPool storeRec { blockRec 1 with addr := 0x8000 } ∧ Apart storeRec (blockRec 1) { blockRec 1 with addr := 0x8000 } ∧
    (blockRec 1).fmt < 2 ∧ (blockRec 1).ref = 1 ∧ layers (cmd 0 0 0 0 0) = [0] ∧ (0xFF : Word).getLsbD 7 = true ∧ ([some 1] : List (Option Nat)).Nodup ∧
    (checkPath storeRec (easel .check) 0).1 = [0] ∧ (easel .check).len % 64 + [0].length ≤ 64 := by
  refine ⟨?_, ?_, ?_, ?_, ?_, ?_, ?_, ?_, ?_, ?_⟩ <;> first | decide +kernel | (unfold InPool; decide +kernel) | (unfold Apart; decide +kernel)
/-- Easel 0 in CHECK at the 10th position of block 0, whose record 1 is the sequence's own, with the row of its tree in the wet block 2. -/
def landing : KvStore := { eased .check with
  recs := [(1, blockRec 1), (2, { blockRec 1 with addr := 0x8000 })], nextRec := 3, used := [(0, 15), (1, 15)],
  easels := [(0, { easel .check with len := 10, tree := [{ token := 5, parent := 255, q := 0 }] })],
  seqs := [(1, { SeqDesc.empty with len := 10, st := .live, tab := [(0, 1)], wet := [(0, 2)] })] }
theorem wit_landing : (getSeq landing 1).st = .live ∧ tabRec storeRec landing 1 0 (10 / 64) = some 1 ∧ Sparse.find (getSeq landing 1).wet 0 = some 2 ∧ (getRec landing 1).ref = 1 ∧
    (getRec landing 1).fmt < 2 ∧ (getRec landing 2).fmt < 2 ∧ (getEasel landing 0).st = .check ∧ (getEasel landing 0).cls < 4 ∧ (getEasel landing 0).len < 64 * storeRec.maxb ∧
    (let s := modCtx (treed .check) 0 fun c => { c with kv := [(0, landing)] }
     (commitAll 0 storeRec [(0, 0)] (work s 0)).toOption.isSome = true) := by decide +kernel
theorem wit_reductions_far : (let r : Row := .ofNat 4096 ((collRow 3).toNat)
    collOk r (collOf r) = true ∧ (collOf r).kind = 3 ∧ (5 : BitVec 3).toNat ≥ 4 ∧ collOk (collRow 2) (collOf (collRow 2)) = true ∧ (collOf (collRow 2)).kind = 2) ∧
    (let r : Row := .ofNat 4096 ((collRow 1).toNat + 4 * 2 ^ 24)
     collOk r (collOf r) = true ∧ (collOf r).kind = 1 ∧ [4, 10, 11, 12, 13].contains (collOf r).ety = true) ∧
    (let s := setCore walking 1 { getCore walking 1 with groups := [(1, { Group.fresh with frozen := true })] }
     (getGroup (getCore s 1) 1).frozen = true ∧ engSlot s = some 0 ∧ s.core.walkers = walking.core.walkers ∧ s.core.chain = []) ∧
    getCtx walking 0 = some (loadedCtx State.reset) ∧ liveCtx walking 0 (loadedCtx State.reset) = true ∧ curSlot walking = some 0 := by decide +kernel
/-- An NABORT entry of core 0 waits for the answer of a member in package 1; core 1 is a member too. -/
def roundGoing : State := { with_ (fun c => { c with rings := [(3, { Ring.empty with wp := 1, occ := 1, results := [{ outcome with busy := true }] })] }) with
  aborts := [{ group := 5, core := 0, job := 0, members := [1, 0x100], awaiting := [0x100], least := 7, seq := some 0 }] }
theorem wit_timeout : roundGoing.aborts = [{ group := 5, core := 0, job := 0, members := [1, 0x100], awaiting := [0x100], least := 7, seq := some 0 }] ∧ slotOfJob roundGoing 0 = some 0 ∧
    getCtx roundGoing 0 = some (loadedCtx State.reset) ∧ liveCtx roundGoing 0 (loadedCtx State.reset) = true ∧ membersHere roundGoing [1, 0x100] = [1] ∧
    (∀ k ∈ [0, 1], (getGroup (getCore roundGoing k) 5).aborted = none) ∧ ((0 : Word) - (getRing (getCore roundGoing 0) 3).rseq).toNat = 0 ∧
    (getRing (getCore roundGoing 0) 3).results[0]? = some { outcome with busy := true } ∧ (getCore roundGoing 0).walkers = [] := by decide +kernel
theorem wit_saves : (let c := { loadedCtx State.reset with saved := [(0, { Core.blank with pc := 0x40, halted := false })] }
    c.saved.any (fun e => coreBusy e.2) = true ∧ (∀ i, i < 2 → (Sparse.get Core.blank c.saved i).badTiles = [])) ∧ (getPart (parting .saving) 0).slot = some 0 := by decide +kernel
-- Values by hand from R131, R137, R140 and R292.
theorem test_e8m0_saturates : convert 13 17 .rne 0x4C70000000000000 = (254, false, flOF + flIX) := by decide +kernel
theorem test_bf16_signalling : tolLoad 1 0x7F81 = 0x7F810000 := by decide +kernel
theorem test_tweak_row : tweakOf { key1 := 0, key2 := 0, lid := 3, base := 0x1000, holders := 1 } 0x1080 = 3 * 2 ^ 96 + 2 := by decide +kernel

-- States and operands for the clauses on windows, atomics, floats, rows, nests, lanes, banks and hosts.
/-- The premise of an access at `a` in the core-local window between two offsets. -/
def inWindow (a : Word) (k lo hi : Nat) : Bool := let e := alignDown (rdS (two a 0).core 1 + (0 : Word)) k
  decide (bits e.toNat 63 56 = 255 ∧ lo ≤ bits e.toNat 55 0 ∧ bits e.toNat 55 0 < hi)
theorem wit_sysreg_window : (∀ k ∈ [1, 2, 4, 8], inWindow 0xFF00000000020000 k 0x20000 0x30000 = true ∧ inWindow 0xFF0000000002FFFF k 0x20000 0x30000 = true) ∧
    (0x20000 - 0x20000) / 8 ∈ sysListed ∧ (0x2FFF8 - 0x20000) / 8 ∉ sysListed ∧ (0x20080 - 0x20000) / 8 ∈ sysRW ∧ (0x20250 - 0x20000) / 8 ∈ sysH ∧
    (0x20250 - 0x20000) / 8 ∉ sysRW ∧ trapping.core.tstat.getLsbD 0 = false ∧ (with_ fun c => { c with tstat := 1 }).core.tstat.getLsbD 0 = true ∧
    Free (two 0xFF00000000020000 0) [2, 1] := by refine ⟨?_, ?_, ?_, ?_, ?_, ?_, ?_, ?_, ⟨?_, ?_⟩⟩ <;> decide +kernel
theorem wit_landing_window : (∀ k ∈ [1, 2, 4, 8], inWindow 0xFF00000000040000 k 0x40000 0x80000 = true ∧ inWindow 0xFF0000000007FFFF k 0x40000 0x80000 = true) ∧
    inWindow 0xFF00000000030000 8 0x30000 0x40000 = true ∧ inWindow 0xFF0000000003FFFF 8 0x30000 0x40000 = true ∧ inWindow 0xFF00000000080000 8 0x80000 (2 ^ 56) = true ∧
    inWindow 0xFFFFFFFFFFFFFFFF 8 0x80000 (2 ^ 56) = true ∧ (0x7FFF8 - 0x40000) / 1024 = 255 ∧ (0x7FFF8 - 0x40000) % 1024 = 1016 ∧
    bits (Sparse.get LbEntry.empty (with_ fun c => { c with lb := [(255, { LbEntry.empty with desc := 2 ^ 57 })] }).core.lb 255).desc.toNat 63 56 = 2 ∧
    bits (Sparse.get LbEntry.empty live.core.lb 255).desc.toNat 63 56 ≠ 2 := by decide +kernel
theorem wit_forward_order : (let e := storeOf 0x100 8 page 7
    ([e] = [] ++ e :: []) ∧ (∃ f ∈ [{ e with kind := 0 }], f.kind = 0 ∧ overlap (sbRange f) (0x107, 0x107 + 1) = true) ∧ ¬(∃ f ∈ [{ e with kind := 1 }], f.kind = 0)) ∧
    (∀ v : Nat, v ∈ [0, 2 ^ 32 - 1] → v < 2 ^ (8 * 4)) ∧ ¬((0xFFFFFFFF : Nat) < 2 ^ (8 * 4 - 1)) := by decide +kernel
/-- A store to package 1 is buffered; its link is down, retrains, or is up while its context is not there. -/
def storingFar (st : LinkSt) : State := { with_ (fun c => { c with sb := [storeOf 0x100 8 { page with base := 2 ^ 40 } 7] }) with links := [(0, { Link.fresh with st := st })] }
theorem wit_drain_far : (let e := storeOf 0x100 8 { page with base := 2 ^ 40 } 7
    (storingFar .down).core.sb[(0 : BitVec 4).toNat]? = some e ∧ canDrain (storingFar .down).core.sb 0 = true ∧ curSlot (storingFar .down) = some 0 ∧
    storeWaits (storingFar .down) 0 e = false ∧ deadHop (storingFar .down) 6 0 (paPkg e.pa) = some (0, 0) ∧ storeWaits (storingFar .retraining) 0 e = true ∧ storeWaits (storingFar .up) 0 e = true) ∧
    storeWaits storing 0 (storeOf 0x100 8 page 7) = false ∧ deadHop storing 6 0 (paPkg (storeOf 0x100 8 page 7).pa) = none := by decide +kernel
theorem wit_record_stores : bfield (bankRec trapping (paBank page.base)) 31 1 = 0 ∧ trapping.core.sb = [] ∧
    (let s := withCore trapping { trapping.core with sb := [storeOf 0x4078 8 page 7] }
     (∀ e ∈ s.core.sb, deadHop s 6 s.pkgNo.toNat (paPkg e.pa) = none) ∧ ∃ e ∈ s.core.sb, overlap (sbRange e) (0x4000, 0x4000 + 128) = true) ∧
    (let s := modCtx (with_ fun c => { c with tvec := 0x500 }) 0 fun c => { c with trbase := 2 ^ 40 }
     (writeTrapRec (capture 0 (atIssue s)) 0 0x101 0).toOption = none) := by decide +kernel
theorem wit_record_waits : (let s := { trapping with tlb := [{ home := 0, slot := 0, page := 0, leaf := { page with base := 2 ^ 40 } }], links := [(0, { Link.fresh with st := .retraining })] }
    s.core.tstat.getLsbD 0 = false ∧ writeTrapRec (capture 0 (atIssue s)) 0 0x101 0 = .error codeRetry) := ⟨by decide +kernel, by rfl⟩
theorem wit_rft_record : (let s := withCore trapping { trapping.core with tstat := 1 }
    s.core.tstat.getLsbD 0 = true ∧ (atIssue s).core.inflight = [] ∧ (drainAll (atIssue s)).core.checkstop = false ∧ (holdBits (drainAll (atIssue s))).toOption = some (0, 0)) ∧
    (let s := { withCore trapping { trapping.core with tstat := 1 } with badMem := [0x4060 / 32, 0x4060 / 64, 0x4040 / 32] }
     (holdBits (drainAll (atIssue s))).toOption = none) := by decide +kernel
theorem wit_publish_hosts : (let s := { windowed with board := some board }
    linkOpen s 0 = true ∧ linkOpen s 1 = false) ∧ (loadedCtx State.reset).host = none ∧ ({ loadedCtx State.reset with host := some (0, 0) } : Ctx).host = some (0, 0) := by decide +kernel
-- FP8 E5M2, by R123 and R130: half of the least subnormal is a tie, and 61,440 lies half way beyond the largest finite number, 57,344.
theorem wit_ties : (let F := fmtOf 9
    let lo : Int := 1 - (F.bias : Int) - F.m
    lo = -16 ∧ (let X := 1 * 2 ^ ((-17 : Int) - (-18)).toNat
                let H := 1 * 2 ^ ((-16 : Int) - 1 - (-18)).toNat
                X < 2 ^ (F.m + 1) * (2 * H) ∧ (nearest .rne 0 X H ∧ nearest .rtz 0 X H ∧ nearest .rna 1 X H) ∧ (1 : Int) * 2 ^ ((-16 : Int) - lo).toNat ≤ numOf F (maxPat 9)) ∧
    (let X := 15 * 2 ^ ((12 : Int) - 12).toNat
     let H := 1 * 2 ^ ((13 : Int) - 1 - 12).toNat
     lo < 13 ∧ 2 ^ F.m * (2 * H) ≤ X ∧ X < 2 ^ (F.m + 1) * (2 * H) ∧ (nearest .rne 8 X H ∧ nearest .rtz 7 X H ∧ nearest .rna 8 X H) ∧
     numOf F (maxPat 9) < 8 * 2 ^ ((13 : Int) - lo).toNat ∧ (7 : Int) * 2 ^ ((13 : Int) - lo).toNat ≤ numOf F (maxPat 9))) ∧
    hasInf 9 ∧ ¬hasInf 8 ∧ hasInf 13 ∧ ¬hasInf 14 := by
  simp only [nearest, hasInf]; decide +kernel
theorem wit_extremes : (let F := fmtOf 12
    below F 0x80000000 0 ∧ ¬below F 0 0x80000000 ∧ below F 0 1 ∧ (fdec F 0x7FC00000).isNan = true ∧ (fdec F 0).isNan = false ∧ numOf F 0xFF800000 < numOf F 0xFF7FFFFF) := by
  simp only [below]; decide +kernel
/-- 1, +Inf, −Inf and a NaN of FP32. -/
theorem wit_float_lists : (let F := fmtOf 12
    let one := 0x3F800000
    let inf := 0x7F800000
    let ninf := 0xFF800000
    let nan := 0x7F800001
    ([one, nan, inf] = [one] ++ nan :: [inf] ∧ (∀ y ∈ [one], (fdec F y).isNan = false) ∧ (fdec F nan).isNan = true) ∧
    ((∀ x ∈ [inf, ninf], (fdec F x).isNan = false) ∧ fdec F inf = .inf false ∧ fdec F ninf = .inf true ∧ fdec F one ≠ .inf false ∧ fdec F one ≠ .inf true) ∧
    (∀ y ∈ [nan], ¬((fdec F y).isNan = false)) ∧ (∃ x ∈ [nan, one], (fdec F x).isNan = false)) := by
  decide +kernel
theorem wit_approximations : (let F := fmtOf 12
    (fdec F 0x40490FDB = .fin false 0xC90FDB (-22) ∧ ¬(0x40490FDB / 2 ^ F.m % 2 ^ F.e = 0) ∧ 0xC90FDB ≠ 2 ^ Nat.log2 0xC90FDB) ∧
    (let v : Int := scaled false 0xC90FDB (-22) (min (-22) 0)
     let one : Int := 2 ^ (-min (-22 : Int) 0).toNat
     3 * one ≤ v ∧ v < (3 + 1) * one ∧ v ≠ 3 * one ∧ 1 - (F.bias : Int) ≤ 3 ∧ (3 : Int) ≤ F.bias) ∧
    (fdec F 0xC2FE0000 = .fin true 0xFE0000 (-17) ∧ scaled true 0xFE0000 (-17) (-17) = -(F.bias : Int) * 2 ^ 17) ∧
    (fdec F 0x43000000 = .fin false (2 ^ 23) (-16) ∧ (F.bias : Int) * 2 ^ 16 < scaled false (2 ^ 23) (-16) (-16)) ∧
    scaled true 0x800000 (-16) (-16) < -(F.bias : Int) * 2 ^ 16 ∧ 1 / 2 ^ F.m % 2 ^ F.e = 0 ∧ fdec F 0xFF800000 = .inf true) := by decide +kernel
theorem wit_codes : (0xFFFF < 2 ^ 16 ∧ 7 < 8) ∧ cb2Val 0 0 7 = 0 ∧ (0xFFFF : Nat).testBit (1 + 6) = true := by decide +kernel
theorem wit_dots : ([0x38, 0x38] : List Nat).length = [0x38, 0xB8].length ∧ (fdec (fmtOf 8) 0x7F).isNan = true ∧ (fdec (fmtOf 9) 0x7C).isInf = true ∧ (fdec (fmtOf 9) 0).isZero = true ∧
    (∀ x ∈ [0x7C, 0] ++ [0, 0x3C], (fdec (fmtOf 9) x).isNan = false) ∧ (∀ x ∈ [0x38, 0x38] ++ [0x38, 0xB8], (fdec (fmtOf 8) x).isNan = false ∧ (fdec (fmtOf 8) x).isInf = false) ∧
    (fdec (fmtOf 12) 0x7F800001).isNan = true ∧ fdec (fmtOf 12) 0x7F800000 = .inf false := by decide +kernel
theorem wit_sources : (source 12 0x7F800001 = .nan false 1 ∧ source 13 0xFFF0000000000000 = .inf true ∧ source 17 255 = .nan false 0 ∧ source 17 0 = .fin false 1 (-127) ∧
    source 0 0x80 = .fin true 128 0) ∧ (let X := 5 * 2 ^ ((-1 : Int) - (-2)).toNat
      let H := 2 ^ ((-1 : Int) - (-2)).toNat
      nearest .rne 2 X H ∧ nearest .rtz 2 X H ∧ nearest .rna 3 X H) ∧
    val 4 (clamp 4 (2 ^ 31)) ≠ 2 ^ 31 ∧ val 4 (clamp 4 2) = 2 ∧ (2 ^ 2 ≤ 5 ∧ 5 < 2 ^ (2 + 1)) := by
  simp only [nearest]; decide +kernel
theorem wit_scaled : (fdec (fmtOf 12) 0xBF800000 = .fin true (2 ^ 23) (-23) ∧ fdec (fmtOf 12) 0 = .fin false 0 (-149)) ∧
    ((fdec (fmtOf 12) 0x7F800000).isInf = true ∧ (fdec (fmtOf 12) 0xFF800000).isInf = true ∧ (fdec (fmtOf 12) 0xFF800000).neg ≠ ((fdec (fmtOf 12) 0x7F800000).neg != decide ((1 : Int) < 0))) := by
  decide +kernel
theorem wit_exact_steps : (goOf false goCmd).sp = false ∧ 16 * 128 = 2048 ∧ blockElem live.core 3 64 0 = some (0, 0) ∧
    (let s := withCore { live with parts := [(0, { Part.idle with slot := some 0, phase := .stopping })] } (markNests { (nested false (3 * 2 ^ 35 + 3 * 2 ^ 30)).core with slots := [] })
     curSlot s = none ∧ ((getNest false s.core).any fun n => n.stop) = true) ∧
    ((getNest false (nested false (3 * 2 ^ 35 + 3 * 2 ^ 30)).core).any fun n => !n.sliced && !(goOf false n.cmd).sp && !nestWaits false n (nested false (3 * 2 ^ 35 + 3 * 2 ^ 30)).core) = true := by decide +kernel
theorem wit_complete : Ready live [] [1, 2, 4, 3] [0] ∧ isFpa 12 = true ∧ isApx 12 = true ∧ Free live [0, 1] ∧
    Sound live ([3, 1, 2, 3] ++ (List.range (2 ^ (0 : BitVec 2).toNat)).map (· + (3 : BitVec 6).toNat)) [(0 : BitVec 4).toNat] ∧
    ((rdS (two 0x2FFE00 0).core 1 + 512 * (0 : Word)).toNat < 0x300000 ∧ (rdS (two 0x2FFE00 0).core 1).toNat / 512 + 2 ^ (0 : BitVec 2).toNat ≤ 6144) ∧
    (∀ l, l < 32 → laneZ live 1 l = false ∧ laneOff live 0 1 l < 0x300000 ∧ (rdV (atIssue live).core 3).pz.toNat / 2 ^ (32 * l) % 2 ^ 32 = 0) ∧
    (∀ j, j < 512 / 2 ^ (0 : BitVec 2).toNat → pzBit (rdV (atIssue live).core 3) (2 * 2 ^ (0 : BitVec 2).toNat * j) = false) := by
  refine ⟨⟨⟨?_, ?_⟩, ?_⟩, ?_, ?_, ⟨?_, ?_⟩, ?_, ?_, ?_, ?_⟩ <;> first | decide +kernel | (unfold Sound; decide +kernel)
theorem wit_bad_words : (let s := with_ fun c => { c with badRows := [(0, 63)] }
    s.mclog.length + s.core.badRows.length ≤ 64 ∧ ∃ e ∈ s.core.badRows, e.1 = 0 ∧ e.2 = 63) := ⟨by decide +kernel, _, .head _, by decide⟩
/-- The page at 0 as lanes and engines of column 0 find it. -/
def served (lf : Leaf) (s : State) : State := { s with unit := some 0, tlb := [{ home := 128, slot := 0, page := 0, leaf := lf }] }
theorem wit_lane_reads : Held (served page (laned [])) 0 0x1000 64 false 0x1000 ∧ tlbHit (laned []) 0 0x1000 ≠ none := by refine ⟨⟨page, ?_⟩, ?_⟩ <;> decide +kernel
theorem hits_served (s : State) (lf : Leaf) (h : s.tlb = [{ home := 128, slot := 0, page := 0, leaf := lf }]) (hu : s.unit = some 0) (va : Nat) (hv : va < 2 ^ lf.lg) :
    tlbHit s 0 va = some lf := by
  simp [tlbHit, tlbNear, h, hu, Nat.div_eq_of_lt hv]
theorem wit_areas_served : AreasHeld (served widePage (easy (kvOf 1))) 0 storeRec 0x4000 0xC000 := by
  refine ⟨⟨widePage, ?_, ?_⟩, ⟨widePage, ?_, ?_⟩, ?_⟩
  · intro i hi
    have : storeRec.fb * storeRec.nframe = 32768 := by decide
    exact hits_served _ _ rfl rfl _ (by show storeRec.poolbase + i < 2 ^ 21; have : storeRec.poolbase = 0x4000 := rfl; omega)
  · decide +kernel
  · intro i hi
    have : 4 * storeRec.sb * storeRec.nframe = 19456 := by decide
    exact hits_served _ _ rfl rfl _ (by show storeRec.sumbase + i < 2 ^ 21; have : storeRec.sumbase = 0xC000 := rfl; omega)
  · decide +kernel
  · decide +kernel
theorem wit_encode : (∃ w1, encodeBlock 0 storeRec (blockRec 1) { blockRec 1 with addr := qAddr storeRec 4, fmt := 2, gen := 1 } { requantising with s := served page requantising.s } = .ok w1) ∧
    InPool storeRec (blockRec 1) ∧ InPool storeRec { blockRec 1 with addr := qAddr storeRec 4, fmt := 2 } ∧
    Apart storeRec (blockRec 1) { blockRec 1 with addr := qAddr storeRec 4, fmt := 2 } := by
  refine ⟨ok_of ?_, ?_, ?_, ?_⟩ <;> first | decide +kernel | (unfold InPool; decide +kernel) | (unfold Apart; decide +kernel)
/-- Sequence 0's only block is shared; its store lies on the 2 MiB page. -/
def cowing : State := { easy (kvOf 2) with tlb := [{ home := 0, slot := 0, page := 0, leaf := widePage }] }
theorem wit_cow_bytes : (∃ w1, [0].foldlM (fun w l => privatise 0 storeRec 0 l 0 w) (work cowing 0) = .ok w1) ∧
    (ask (exec (.btcow (cmd 0 0 0 0 0)) cowing) fun t => (tabRec storeRec (store t 0) 0 0 0, getRec (store t 0) 2)) = some (some 2, { blockRec 1 with addr := 0x8000 }) ∧
    ([0] : List Nat).Nodup ∧ ∀ m ∈ [0], ¬(m ≠ 0) := ⟨ok_of (by decide +kernel), by decide +kernel, by decide, by decide⟩
/-- Lane 0 in a state, and the XSTOP at the head of XS has found core 0's program running, or has yet to look. -/
def stopping (x : Option (Nat × Word)) (v : Lane) : State := let s := entered 5; { withCore s { s.core with xstop := x } with lanes := [(0, v)] }
theorem wit_xstop : CanRun (stopping none Lane.idle) 5 (cmd 0 0 0 0 0) 0 ∧ getCtx (stopping none Lane.idle) 0 = some (loadedCtx State.reset) ∧ (getLane (stopping none Lane.idle) 0).st = .idle ∧
    runEnding (stopping none Lane.idle) Lane.idle = false ∧ (getLane (stopping none { Lane.idle with st := .suspended }) 0).st = .suspended ∧
    (let s := stopping (some (1, 4)) { Lane.idle with st := .running, owner := (1, 4) }; (getLane s 0).st = .running ∧ (getLane s 0).owner = (1, 4) ∧ s.core.xstop = some (1, 4)) ∧
    (let s := stopping (some (1, 4)) { Lane.idle with st := .suspended, owner := (1, 4) }; runEnding s { Lane.idle with st := .suspended, owner := (1, 4) } = false ∧ (getLane s 0).st = .suspended) ∧
    (let s := stopping (some (1, 4)) { Lane.idle with st := .running, owner := (2, 0) }; runEnding s { Lane.idle with st := .running, owner := (1, 4) } = false ∧ (getLane s 0).owner ≠ (1, 4)) := by
  refine ⟨⟨⟨?_, ?_, ?_⟩, ?_⟩, ?_⟩ <;> decide +kernel
theorem wit_tlbinv_queue : (let s : State := { storing with tlbinv := 0x8000000000000000, tlbinvq := [0xC800000000000000] }
    s.tlbinv.getLsbD 63 = true ∧ invHeld 0x8000000000000000 s = false ∧ invHeld 0xC800000000000000 s = false ∧ (∃ e ∈ (getCore s 0).sb, rangeNamed 0x8000000000000000 (e.va / 2 ^ e.lg) e.lg = true) ∧ engSlotOf s 0 = some 0 ∧ engSlotOf s 1 = some 0 ∧
    (getCore s 1).sb = []) ∧ (live.tlbinvq = [] ∧ live.core.sb = []) := by decide +kernel
theorem wit_owner_hears : ownerHears { live with board := some board } ∧ ¬ownerHears { live with board := none } := by
  refine ⟨⟨board, rfl, by decide +kernel⟩, ?_⟩
  rintro ⟨x, h, -⟩
  simp at h
theorem wit_scrubs : (let s := { live with bankT := [(0, { BankTime.zero with scrub := some 700000 }), (1, { BankTime.zero with scrub := some 720000 })], bankReqs := [{ ctx := 7, set := 15, banks := [0], left := [0] }] }
    (bankTime s 0).scrub = some 700000 ∧ 700000 ≤ devNs s + 700000 ∧ ¬(720000 ≤ devNs s + 700000) ∧ bfield (ownRec s 0) 30 1 = 1 ∧ bfield (ownRec s 1) 30 1 = 0 ∧ recState (ownRec s 0) ≠ 3 ∧
    (s.bankReqs.find? fun q => q.left.contains (0 : BitVec 15).toNat) = some { ctx := 7, set := 15, banks := [0], left := [0] }) ∧ (bankTime live 0).scrub = none := by decide +kernel
theorem wit_let_wake : (let s := modCtx { walked 0x00200000 with clock := 18000 } 0 fun c => { c with phasePend := [(0, { level := 2, due := 1200, since := 0 })] }
    (((getCtx s 0).elim [] fun c => letWake s c 0).filter fun x => decide ((bankTime s 0).retained ≤ x) && decide (x ≤ devNs s)) = [0] ∧ recState (ownRec s 0) = 2) := by decide +kernel
theorem wit_refills : (let c := getCol { live with clock := 1800, cols := [(0, { Column.fresh with limited := true, lowering := true, applied := 8, refill := 64 })] } 0
    c.limited = true ∧ c.throttled = false ∧ min c.applied c.refill = 8 ∧ c.limit < 4095 ∧ c.limitOn < 4095 ∧ 0 < c.limitOn) ∧ (getCol { live with cols := [(0, { Column.fresh with throttled := true })] } 0).throttled = true := by decide +kernel
theorem wit_warm_resets : (let s : State := { live with wrst := 3, links := [(1, { Link.fresh with st := .retraining })] }
    s.wrst.getLsbD 0 = true ∧ s.wrst.getLsbD 1 = true ∧ ∃ e ∈ s.links, e.2.st = .retraining) ∧ (∀ e ∈ ({ live with wrst := 3 } : State).links, e.2.st ≠ .retraining) ∧
    (∃ e ∈ ({ live with wrst := 1, links := [(1, { Link.fresh with st := .up })] } : State).links, e.2.st = .up) ∧ ({ live with wrst := 1 } : State).wrst.getLsbD 1 = false := by decide +kernel
theorem wit_launch_reads : launchWaits launching 0 33 0 = false ∧ (launchRead { launching with mem := Memory.write launching.mem 9 255 } 0 33 0).bind (startOf 16) = none := ⟨by decide +kernel, by decide +kernel⟩
/-- The CM ring holds an entry that still translates, and the next one is an NPUT. -/
def behind : State := with_ fun c => { c with rings := [(3, { Ring.empty with wp := 2, occ := 2, results := [{ outcome with busy := true, trans := true }] })] }
theorem wit_held_back : CanStart behind 3 (cmd 0 1 0 0 0) 0 ∧ aheadDone 3 behind.core = false ∧ aheadDone 3 (entered 3).core = true ∧
    (∀ q, q < 6 → q ≠ 3 → aheadDone q behind.core = true) := by refine ⟨⟨?_, ?_, ?_⟩, ?_, ?_, ?_⟩ <;> decide +kernel
theorem wit_placed : (let r : Result := { outcome with redo := true }
    (∀ z ∈ [outcome], z.redo = false) ∧ r.redo = true ∧ r.held = false) ∧ nextIndex Ring.empty = Ring.empty.results.length := by decide +kernel
theorem wit_score_waits : (let s := withCore (entered 1) { (entered 1).core with slots := [(1, { Slot.empty with st := .claimed })], skCounted := some 1 }
    (getSlot s.core 1).st ≠ .full ∧ s.core.skCounted = some 1 ∧ CanRun s 1 scoreCmd 0) := by refine ⟨?_, ?_, ⟨⟨?_, ?_, ?_⟩, ?_⟩⟩ <;> decide +kernel
theorem wit_pages_unrepaired : (let s := { live with banks := [(0, 0x80000000)] }
    tlbHit s 0 0 = some page ∧ reachable s (paPkg page.base) = true ∧ retrains s (paPkg page.base) = false ∧ destSlot s 0 (paPkg page.base) ≠ none ∧ bfield (bankRec s (paBank page.base)) 31 1 = 1) ∧
    (let s := { live with links := [(0, { Link.fresh with st := .retraining })] }
     reachable s 1 = true ∧ retrains s 1 = true) ∧ live.unit = none := by decide +kernel
theorem wit_lost_requests : (let q := { request 2 0x7000 (formed 1 []) with src := 0, dst := 0x100 }
    pktForm q = 1 ∧ q.flg.getLsbD 1 = false ∧ pktForm { q with payload := formed 0 [] } = 0 ∧ pktForm { q with payload := formed 2 [] } = 2) ∧ (request 1 0 []).flg.getLsbD 1 = false := by decide +kernel
theorem wit_frozen_group : (getGroup (with_ fun c => { c with groups := [(1, { Group.fresh with frozen := true, step := 9 })] }).core 1).frozen = true ∧
    (getGroup live.core 1).frozen = false := by decide +kernel
theorem wit_atomic_missing : translate (entered 3) 0 (2 ^ 57) .atomic = .error 4 := by rfl
-- Witnesses of waits for links and contexts, of nests, of storage and of walks.
/-- S1 names a byte of whose eight one is buffered, or uncorrectable. -/
def halfStored : State := withS [(1, 0x100)] (with_ fun c => { c with sb := [storeOf 0x102 1 page 7] })
theorem wit_load_waits : Reaches (atIssue halfStored) 0x100 .read 0 page ∧ forward false halfStored.core page 0x100 8 = .wait ∧
    (let e := storeOf 0x102 1 page 7
     halfStored.core.sb = [] ++ e :: [] ∧ overlap (sbRange e) (0x100, 0x108) = true ∧ 0x100 < e.pa) ∧
    (let s := { withS [(1, 0x100)] live with badMem := [0x100 / 64] }
     Reaches (atIssue s) 0x100 .read 0 page ∧ forward false s.core page 0x100 8 = .memory ∧ sectorsOk s 0x100 8 = false ∧ s.mclog.length < 64) := by
  refine ⟨⟨?_, ?_, ?_⟩, ?_, ?_, ⟨?_, ?_, ?_⟩, ?_⟩ <;> first | rfl | decide +kernel
/-- The buffered store must wait for its link. -/
def storeAway : State := { withCore (storingFar .retraining) { (storingFar .retraining).core with sregs := [(1, 1), (3, 1)], team := teamed.core.team } with
  ctxs := [(0, some { loadedCtx State.reset with rv := [(rvKey 1 0 2, { exp := 2, cnt := 1, ph := 1 })], bufs := [(7, { pub := 1, who := some 0, nxt := 2, cnt0 := 0, cnt1 := 1 })] })] }
theorem wit_release_waits : releaseWaits [] storeAway = true ∧ drainWaits (atIssue storeAway) = true ∧ releaseWaits [] live = false ∧ drainWaits (atIssue live) = false ∧ Free storeAway [1] ∧
    (∃ e ∈ storeAway.core.sb, Away storeAway 0 e) ∧ ¬Away live 0 (storeOf 0x100 8 page 7) := by
  refine ⟨?_, ?_, ?_, ?_, ⟨?_, ?_⟩, ⟨_, .head _, ?_⟩, ?_⟩ <;> first | decide +kernel | (unfold Away; decide +kernel)
/-- The page of window 2 lies in package 1, to which the link retrains. -/
def windowAway : State := { windowed with links := [(0, { Link.fresh with st := .retraining })], tlb := [{ home := 0, slot := 0, page := 0, leaf := { page with base := 2 ^ 40 } }] }
theorem wit_publish_waits : lookup (atIssue windowAway) 0 (64 * 0x40) = .error codeRetry ∧ (0x1000 : Nat) / 64 ≤ 0x40 ∧ 64 * 0x40 < 0x1000 + 64 ∧
    (∀ k, lookup (atIssue windowed) 0 (64 * 0x40) ≠ .error k) := ⟨by rfl, by decide, by decide, by rintro k h; exact absurd (h.symm.trans (by rfl : lookup (atIssue windowed) 0 (64 * 0x40) = .ok page)) (by simp)⟩
/-- Words of a tile's rows, or its status word, are uncorrectable. -/
def badTile (l : List (Nat × Nat)) : State := with_ fun c => { c with badTiles := l }
theorem wit_bad_tiles : unread (badTile [(79, 0)]) 79 0 0 = true ∧ unread (badTile [(79, 0)]) 79 0 1 = true ∧ unread (badTile [(79, 0)]) 79 0 2 = false ∧ unread (badTile [(79, 95)]) 79 0 127 = true ∧
    unread (badTile [(79, 96)]) 79 0 127 = false ∧ unread (badTile [(127, 79)]) 79 15 127 = true ∧ Ready (badTile [(79, 0)]) [] [1, 3] [0] := by
  refine ⟨?_, ?_, ?_, ?_, ?_, ?_, ⟨?_, ?_⟩, ?_⟩ <;> first | decide +kernel | (unfold Sound; decide +kernel)
/-- Two sparse steps at one place, whose level pops metadata, on slots 1 and 2. -/
def sparseImg : BitVec 1280 := .ofNat 1280 (64 + 128 * 2 ^ 16 + 5 * 2 ^ 32 + 2 ^ 40 + (2 + 2 * 2 ^ 56) * 2 ^ 512)
def sparseCmd : Cmd := cmd (.ofNat 40 (3 * 2 ^ 35 + 3 * 2 ^ 30 + 2 ^ 28)) 0 0 0 0
def sparse (mdq : List (BitVec 8192)) (i : Nat) (p : Option (List Nat)) : State := with_ fun c => { c with
  nestMX := some { image := sparseImg, cmd := sparseCmd, sliced := false, pal := 0, idx := [i], pair := 0, held := none, popped := p, detail := 0 },
  slots := [(1, { Slot.empty with st := .full, users := 1, auto := true }), (2, { Slot.empty with st := .full, users := 1 })], mdq := mdq }
theorem wit_sparse : nestMay false (sparse [] 0 none) = true ∧ goLegal (goOf false sparseCmd) sparseCmd sparseImg = true ∧ (goOf false sparseCmd).sp = true ∧
    (∀ i, i < 2 → ([i] : List Nat).drop ((imgLevels sparseImg).findIdx (·.mp)) = [i] ∧ i < 2 ∧ ([i] : List Nat).length = (imgLevels sparseImg).length) ∧
    (none : Option (List Nat)) ≠ some [0] ∧ (sparse [] 0 none).core.mdq = [] ∧ (sparse [7] 1 (some [0])).core.mdq ≠ [] ∧ (some [0] : Option (List Nat)) ≠ some [1] ∧
    ¬((some [1] : Option (List Nat)) ≠ some [1]) ∧ goWeight (goOf false sparseCmd) ≤ (getCol (sparse [7] 0 none) (colOf 0)).pool := by decide +kernel
set_option exponentiation.threshold 100000 in
theorem man_zero (st : Word) (i j : Nat) : tileMan { m := 0, stat := st } i j = 0 := by simp [tileMan, signed]
theorem getD_replicate_lt {α : Type} (n k : Nat) (a b : α) (h : k < n) : (List.replicate n a).getD k b = a := by simp [List.getD, h]
theorem wit_scaled_updates : (let s : List (Int × Int) := List.replicate 2048 (2 ^ 46, 0)
    let up : Tile := { m := 0, stat := 8 + 2 ^ 62 }
    let top : Tile := { m := 0, stat := 32760 }
    s.length = 2048 ∧ (∀ k, k < 2048 → Rne (s.getD k (0, 0)) (tileExp Tile.zero) (2 ^ 46)) ∧
    ¬(∀ k, k < 2048 → (tileMan Tile.zero (k / 128) (k % 128) + 2 ^ 46 : Int).natAbs < 2 ^ 46) ∧ (∀ k, k < 2048 → (tileMan Tile.zero (k / 128) (k % 128) + 1 : Int).natAbs < 2 ^ 46) ∧
    tileExp Tile.zero + 8 ≤ 32767 ∧ (∀ k, k < 2048 → Rne (tileMan Tile.zero (k / 128) (k % 128), 0) 8 (tileMan up (k / 128) (k % 128))) ∧
    tileExp up = tileExp Tile.zero + 8 ∧ up.stat.getLsbD 62 = true ∧ up.stat.getLsbD 61 = Tile.zero.stat.getLsbD 61 ∧ bits up.stat.toNat 47 32 = bits Tile.zero.stat.toNat 47 32 ∧
    32767 < tileExp top + 8 ∧ Rne (2 ^ 46, 32760) (tileExp top) (2 ^ 46)) := by
  refine ⟨List.length_replicate, fun k h => ?_, fun h => ?_, fun k _ => ?_, ?_, fun k _ => ?_, ?_, ?_, ?_, ?_, ?_, ?_⟩
  · rw [getD_replicate_lt _ _ _ _ h]; unfold Rne; decide +kernel
  · exact absurd (h 0 (by decide)) (by rw [show Tile.zero = { m := 0, stat := 0 } from rfl, man_zero]; decide)
  · rw [show Tile.zero = { m := 0, stat := 0 } from rfl, man_zero]; decide
  · decide +kernel
  · rw [show Tile.zero = { m := 0, stat := 0 } from rfl, man_zero, man_zero]; unfold Rne; decide +kernel
  all_goals first | decide +kernel | (unfold Rne; decide +kernel)
/-- A store whose two frames are full, with a shared record of its own, and easel 0 of a class READY. -/
def full (cls : Nat) : KvStore := { kvOf 2 with
  used := [(0, 15), (1, 15)], seqs := [(0, { len := 64, st := .none, tab := [(0, 1)], wet := [] }), (1, { SeqDesc.empty with st := .live })],
  easels := [(0, { easel .ready with cls := cls, nodes := 1 })], ready := [0] }
def nextCmd : Cmd := cmd 0 64 0 0 0
theorem wit_pool_exhausted : EzCan (easy (full 0)) nextCmd 0 storeRec ∧ reserveOk storeRec [0] (full 0) = some 1 ∧ (1 < (getRec (full 0) 1).ref ∧ tabRec storeRec (full 0) 0 0 0 = some 1) ∧
    64 * (0 + 1) ≤ (getSeq (full 0) 0).len ∧ reserveOk storeRec (wetFmts storeRec (full 0) (getEasel (full 0) 0)) (full 0) = some 1 ∧
    ((full 0).ready.filter fun x => (getEasel (full 0) x).cls == 0) = [0] ∧ ((full 1).ready.filter fun x => (getEasel (full 1) x).cls == 0) = [] ∧
    bits nextCmd.arg.toNat 33 21 + 3 ≤ 6096 ∧ nextCmd.p0.toNat < 2 ^ 12 ∧ (getEasel (full 1) 0).cls = 1 ∧
    (getEasel (full 1) 0).nodes ≤ min ((getEasel (full 1) 0).deficit + (getCol live 0).q1) 65535 ∧ (getEasel (full 1) 0).nodes ≤ nextCmd.p0.toNat * (65536 - (getCol live 0).refloss % 65536) / 65536 := by
  refine ⟨⟨⟨⟨?_, ?_, ?_⟩, ?_⟩, ?_⟩, ?_⟩ <;> decide +kernel
/-- One quarter of frame 0 is used, and frame 1 stands in the reserve or is free. -/
def quarterUsed (l : List Nat) : KvStore := { kvOf 1 with used := [(0, 1)], reserve := l }
theorem wit_storage : (∀ l ∈ [[], [1]], (quarterUsed l).used.Pairwise (fun a b => a.1 < b.1) ∧ (∀ p ∈ (quarterUsed l).used, 0 < p.2 ∧ p.2 < 16) ∧ (quarterUsed l).reserve.Pairwise (· < ·) ∧
      ∀ f ∈ (quarterUsed l).reserve, f < storeRec.nframe ∧ Sparse.get 0 (quarterUsed l).used f = 0) ∧
    (Sparse.get 0 (quarterUsed []).used 0 ≠ 0 ∧ 2 + 4 / 2 ^ 1 ≤ 4 ∧ 2 % (4 / 2 ^ 1) = 0 ∧ ∀ j ∈ (List.range (4 / 2 ^ 1)).map (· + 2), (Sparse.get 0 (quarterUsed []).used 0).testBit j = false) ∧
    (Sparse.get 0 (quarterUsed []).used 0).testBit 0 = true ∧ (1 < storeRec.nframe ∧ Sparse.get 0 (quarterUsed []).used 1 = 0 ∧ 1 ∉ (quarterUsed []).reserve) ∧ 1 ∈ (quarterUsed [1]).reserve ∧
    (getRec (kvOf 2) 1).ref = 2 ∧ (let b := getRec (kvOf 1) 1; b.ref = 1 ∧ b.fmt = 0 ∧ b.addr = storeRec.poolbase + storeRec.fb / 4 * (4 * 0 + 0) ∧ 0 < storeRec.fb / 4 ∧
      ∀ j ∈ (List.range 4).map (· + 0), (Sparse.get 0 (kvOf 1).used 0).testBit j = true) := by decide +kernel
/-- Easel 0 in CHECK with a root and one child, of a rule. -/
def childed (rule : Nat) : Easel := { easel .check with rule := rule, theta := 0x3F000000, rng := 1, tree := [{ token := 5, parent := 255, q := 0 }, { token := 9, parent := 0, q := 0x3F800000 }] }
theorem wit_acceptance : (∀ q ∈ [0, 1, 2], (childed q).rule < 3 ∧ 0 < (childed q).tree.length ∧ (childed q).tree.length ≤ 64) ∧
    (∀ i t, 0 < i → (childed 0).tree[i]? = some t → t.parent < i) ∧ Accepted (childed 0) (9 * 2 ^ 32) 0 1 0 ∧ ¬Accepted (childed 0) (8 * 2 ^ 32) 0 1 0 ∧
    Accept 0x3F000000 0x3F800000 (2 ^ 22) ∧ ¬Accept 0x3F000000 0x3F800000 (2 ^ 23) ∧ ¬Accept 0 0 0 ∧ Accept 1 0 0 ∧ ¬Accept 0x7FC00000 0 0 := by
  refine ⟨by decide +kernel, ?_, ⟨_, rfl, by decide +kernel, by intro h; exact absurd h (by decide), by intro h; exact absurd h (by decide)⟩, ?_, ?_, ?_, ?_, ?_, ?_⟩
  · intro i t hi ht
    match i, ht with
    | 1, ht => obtain rfl := Option.some.inj ht; decide
    | n + 2, ht => simp [childed] at ht
  · rintro ⟨t, ht, h, -⟩
    obtain rfl := Option.some.inj ht
    exact absurd (h rfl) (by decide +kernel)
  all_goals unfold Accept; decide +kernel
/-- The package `mapped`, on whose partition 0 the context stands. -/
def homed : State := { setCtx mapped 0 (some mappedCtx) with parts := [(0, { Part.idle with slot := some 0 })] }
/-- What stands in memory after a request has written to `homed`. -/
def homedMem (m : Memory) : State := { homed with unit := some noColumn, mem := m }
theorem readN_congr (m m' : Memory) (n : Nat) : ∀ a, (∀ i, i < n → Memory.read m (a + i) = Memory.read m' (a + i)) → Memory.readN m a n = Memory.readN m' a n := by
  induction n with
  | zero => intro a _; rfl
  | succ n ih =>
    intro a h
    simp only [Memory.readN]
    rw [show Memory.read m a = Memory.read m' a from h 0 (by omega), ih (a + 1) fun i hi => by have := h (i + 1) (by omega); rwa [show a + (i + 1) = a + 1 + i by omega] at this]
theorem homed_num (m : Memory) (p : Nat) (h : ∀ i, i < 8 → Memory.read m (p + i) = Memory.read homed.mem (p + i)) : memNum (homedMem m) p 8 = memNum homed p 8 := by
  unfold memNum
  rw [show (homedMem m).mem = m from rfl, readN_congr m homed.mem 8 p h]
theorem homed_walk (m : Memory) (va : Nat) (h : va < 2 ^ 30) (hm : ∀ a, 0x200000 ≤ a → Memory.read m a = Memory.read homed.mem a) :
    lookup (homedMem m) 0 va = .ok giB := by
  have h3 : bits va 56 39 = 0 := by simp only [bits]; omega
  have h2 : bits va 38 30 = 0 := by simp only [bits]; omega
  have hp : mappedCtx.ptroot = 0x200000 := by decide +kernel
  have s3 : sectorsOk (homedMem m) (0x200000 + 8 * 0) 8 = true := by rfl
  have s2 : sectorsOk (homedMem m) (0x3000 * 256 + 8 * 0) 8 = true := by rfl
  have m3 : memNum (homedMem m) (0x200000 + 8 * 0) 8 = 2 ^ 63 + 0x3000 := (homed_num m _ fun i _ => hm _ (by omega)).trans (by decide +kernel)
  have m2 : memNum (homedMem m) (0x3000 * 256 + 8 * 0) 8 = 2 ^ 63 + 2 ^ 62 + 2 ^ 39 := (homed_num m _ fun i _ => hm _ (by omega)).trans (by decide +kernel)
  have n3 : nodeBank (homedMem m) 0 (0x200000 + 8 * 0) = .ok () := (show nodeBank homed 0 (0x200000 + 8 * 0) = .ok () from by rfl)
  have n2 : nodeBank (homedMem m) 0 (0x3000 * 256 + 8 * 0) = .ok () := (show nodeBank homed 0 (0x3000 * 256 + 8 * 0) = .ok () from by rfl)
  have hl : leafOf 2 (2 ^ 63 + 2 ^ 62 + 2 ^ 39) = some giB := by decide +kernel
  have hb : bits (2 ^ 63 + 0x3000) 37 0 = 0x3000 := by decide +kernel
  have hr : rawWalk (homedMem m) 0 mappedCtx va = .ok giB := by
    rw [rawWalk, hp, walkFrom]
    simp only [lvlIndex, h3, n3, s3, m3]
    rw [if_neg (by decide), if_neg (by decide +kernel), if_neg (by decide +kernel), if_neg (by decide +kernel), hb, walkFrom]
    simp only [lvlIndex, h2, n2, s2, m2]
    rw [if_neg (by decide), if_neg (by decide +kernel), if_pos (by decide +kernel)]
    simp only [Nat.reduceSub, hl]
  have hc : getCtx (homedMem m) 0 = some mappedCtx := by rfl
  rw [lookup, if_neg (by simp only [bits]; omega), show tlbHit (homedMem m) 0 va = none from rfl]
  simp only
  rw [walk, hc]
  have e2 : destSlot (homedMem m) 0 (paPkg giB.base) = some 0 := by rfl
  have e1 : pageReach (homedMem m) 0 giB = .ok giB := by
    have hf : firstPort (homedMem m).pkgNo.toNat (paPkg giB.base) = none := (by decide +kernel : firstPort homed.pkgNo.toNat (paPkg giB.base) = none)
    have he : reachable (homedMem m) (paPkg giB.base) = true := by rw [reachable, deadHop, hf]; rfl
    have hr2 : retrains (homedMem m) (paPkg giB.base) = false := by rw [retrains, hf]
    rw [pageReach, he, hr2, e2]
    rfl
  have e4 : doorPage (homedMem m) giB = false := by rfl
  obtain ⟨u, e3⟩ : ∃ u, banksOk (homedMem m) 0 giB.bset (leafBanks giB) = .ok u := ok_of (by show (banksOk homed 0 giB.bset (leafBanks giB)).toOption.isSome = true; decide +kernel)
  simp only [hr, e1, e2, e4, Option.getD_some, e3]
  rfl
theorem wit_walked : AtHome homed (request 1 0x1000 (formed 1 (toBytes 2 64))) 0 mappedCtx ∧ Walked homed 0 0x1000 64 true 0x1000 := by
  refine ⟨⟨?_, ?_, ?_, ?_⟩, giB, fun m i hi h => homed_walk m _ (by omega) fun a ha => ?_, ?_⟩
  · decide +kernel
  · decide +kernel
  · rfl
  · decide +kernel
  · rcases h a with ⟨-, -, h⟩ | h
    · omega
    · exact h
  · decide +kernel
/-- A request of the waiting command is not sent yet. -/
def unsent : State := withCore awaiting { awaiting.core with cmwait := awaiting.core.cmwait.map fun w => { w with todo := [(5, { request 2 0 [] with src := 0, dst := 0x100 })] } }
theorem wit_unsent : (unsent.core.cmwait.map fun w => (w.todo.length, w.waiting.length)) = [(1, 1)] ∧ (awaiting.core.cmwait.map (·.todo)) = [[]] := by decide +kernel
theorem wit_bank_stores : storeOfBank 0 (storeOf 0x100 8 page 7) = true ∧ storeOfBank 1 (storeOf 0x100 8 page 7) = false ∧ bankHeld storing 0 = false ∧
    (let s := { storing with banks := [(0, 0)] }; recOwner (ownRec s 0) ≠ 15) ∧ ready launching 0 = true ∧ ready live 3 = false := by decide +kernel

end Sys2Proof.Tests
end

section
/-! The register group (R65): what its table's functions are in arithmetic, and the bundles that compute them. -/
namespace Sys2Proof.Machine

/-! Results of the table, in arithmetic on the operands' values. -/

theorem shiftLeft_eq_ofNat_mul (x : Word) (n : Nat) : x <<< n = BitVec.ofNat 64 (x.toNat * 2 ^ n) :=
  BitVec.eq_of_toNat_eq (by simp [Nat.shiftLeft_eq])

theorem ushiftRight_eq_ofNat_div (x : Word) (n : Nat) : x >>> n = BitVec.ofNat 64 (x.toNat / 2 ^ n) := by
  rw [← Nat.shiftRight_eq_div_pow, ← BitVec.toNat_ushiftRight, BitVec.ofNat_toNat, BitVec.setWidth_eq]

theorem sshiftRight_eq_ofInt_div (x : Word) (n : Nat) : x.sshiftRight n = BitVec.ofInt 64 (x.toInt / (2 ^ n : Nat)) := by
  rw [← Int.shiftRight_eq_div_pow, ← BitVec.toInt_sshiftRight, BitVec.ofInt_toInt]

theorem ite_slt_eq_ofInt_min (x y : Word) : (if x.slt y then x else y) = BitVec.ofInt 64 (min x.toInt y.toInt) := by
  by_cases h : x.toInt < y.toInt
  · rw [if_pos (BitVec.slt_iff_toInt_lt.mpr h), Int.min_eq_left (Int.le_of_lt h), BitVec.ofInt_toInt]
  · rw [if_neg (mt BitVec.slt_iff_toInt_lt.mp h), Int.min_eq_right (Int.not_lt.mp h), BitVec.ofInt_toInt]

theorem ite_slt_eq_ofInt_max (x y : Word) : (if x.slt y then y else x) = BitVec.ofInt 64 (max x.toInt y.toInt) := by
  by_cases h : x.toInt < y.toInt
  · rw [if_pos (BitVec.slt_iff_toInt_lt.mpr h), Int.max_eq_right (Int.le_of_lt h), BitVec.ofInt_toInt]
  · rw [if_neg (mt BitVec.slt_iff_toInt_lt.mp h), Int.max_eq_left (Int.not_lt.mp h), BitVec.ofInt_toInt]

theorem ite_ult_eq_ofNat_min (x y : Word) : (if x.ult y then x else y) = BitVec.ofNat 64 (min x.toNat y.toNat) := by
  by_cases h : x.toNat < y.toNat
  · rw [if_pos (BitVec.ult_iff_lt.mpr h), Nat.min_eq_left (Nat.le_of_lt h), BitVec.ofNat_toNat, BitVec.setWidth_eq]
  · rw [if_neg (mt BitVec.ult_iff_lt.mp h), Nat.min_eq_right (Nat.not_lt.mp h), BitVec.ofNat_toNat, BitVec.setWidth_eq]

theorem ite_ult_eq_ofNat_max (x y : Word) : (if x.ult y then y else x) = BitVec.ofNat 64 (max x.toNat y.toNat) := by
  by_cases h : x.toNat < y.toNat
  · rw [if_pos (BitVec.ult_iff_lt.mpr h), Nat.max_eq_right (Nat.le_of_lt h), BitVec.ofNat_toNat, BitVec.setWidth_eq]
  · rw [if_neg (mt BitVec.ult_iff_lt.mp h), Nat.max_eq_left (Nat.not_lt.mp h), BitVec.ofNat_toNat, BitVec.setWidth_eq]

theorem mul_eq_ofNat_mul (x y : Word) : x * y = BitVec.ofNat 64 (x.toNat * y.toNat) :=
  BitVec.eq_of_toNat_eq (by simp)

theorem b2w_decide (p : Prop) [Decidable p] : b2w (decide p) = if p then 1 else 0 := by simp [b2w]

theorem b2w_beq (x y : Word) : b2w (x == y) = if x = y then 1 else 0 := by simp [b2w]

theorem b2w_bne (x y : Word) : b2w (x != y) = if x = y then 0 else 1 := by simp [b2w]

/-! Division (R65). -/

/-- DIV by a number other than zero is the library's division, which wraps −2^63 by −1 to −2^63. -/
theorem sdivW_of_ne_zero (x : Word) {y : Word} (h : y ≠ 0) : sdivW x y = x.sdiv y := by
  rw [sdivW, if_neg h]
  exact BitVec.eq_of_toInt_eq (by rw [BitVec.toInt_ofInt, BitVec.toInt_sdiv])

/-- REM is the library's remainder with the dividend's sign, also for a zero divisor. -/
theorem sremW_eq_srem (x y : Word) : sremW x y = x.srem y := by
  by_cases h : y = 0
  · rw [sremW, if_pos h, h]; exact BitVec.srem_zero.symm
  · rw [sremW, if_neg h, ← Int.tmod_def, ← BitVec.toInt_srem, BitVec.ofInt_toInt]

theorem toInt_sdivW {x y : Word} (h : y ≠ 0) (ho : ¬(x.toInt = -2 ^ 63 ∧ y.toInt = -1)) :
    (sdivW x y).toInt = x.toInt.tdiv y.toInt := by
  rw [sdivW_of_ne_zero x h]
  refine BitVec.toInt_sdiv_of_ne_or_ne x y ?_
  by_cases hx : x = BitVec.intMin 64
  · refine .inr fun hy => ho ?_
    rw [hx, hy]
    decide
  · exact .inl hx

/-- The truncated quotient and remainder: they give the dividend back, and the remainder is small, with the dividend's sign. -/
theorem tdiv_tmod_spec (x : Int) {y : Int} (h : y ≠ 0) :
    x = x.tdiv y * y + x.tmod y ∧ (x.tmod y).natAbs < y.natAbs ∧ (0 ≤ x → 0 ≤ x.tmod y) ∧ (x ≤ 0 → x.tmod y ≤ 0) := by
  refine ⟨?_, ?_, Int.tmod_nonneg y, fun hx => ?_⟩
  · rw [Int.mul_comm, Int.mul_tdiv_add_tmod]
  · rw [Int.natAbs_tmod]; exact Nat.mod_lt _ (Int.natAbs_pos.mpr h)
  · have hn := Int.tmod_nonneg y (Int.neg_nonneg.mpr hx)
    rw [Int.neg_tmod] at hn
    omega

theorem sdivW_sremW_spec {x y : Word} (h : y ≠ 0) (ho : ¬(x.toInt = -2 ^ 63 ∧ y.toInt = -1)) :
    x.toInt = (sdivW x y).toInt * y.toInt + (sremW x y).toInt ∧ (sremW x y).toInt.natAbs < y.toInt.natAbs ∧
      (0 ≤ x.toInt → 0 ≤ (sremW x y).toInt) ∧ (x.toInt ≤ 0 → (sremW x y).toInt ≤ 0) := by
  rw [toInt_sdivW h ho, sremW_eq_srem, BitVec.toInt_srem]
  exact tdiv_tmod_spec _ fun h0 => h (BitVec.toInt_inj.mp h0)

/-- −2^63 by −1: the quotient wraps and the remainder is zero. -/
theorem sdivW_sremW_overflow {x y : Word} (hx : x.toInt = -2 ^ 63) (hy : y.toInt = -1) :
    (sdivW x y).toInt = -2 ^ 63 ∧ sremW x y = 0 := by
  obtain rfl : x = BitVec.intMin 64 := BitVec.toInt_inj.mp (hx.trans (by decide))
  obtain rfl : y = -1 := BitVec.toInt_inj.mp (hy.trans (by decide))
  decide

theorem udivW_uremW_spec (x : Word) {y : Word} (h : y ≠ 0) :
    x.toNat = (udivW x y).toNat * y.toNat + (uremW x y).toNat ∧ (uremW x y).toNat < y.toNat := by
  have hy : 0 < y.toNat := Nat.pos_of_ne_zero fun h0 => h (BitVec.eq_of_toNat_eq h0)
  rw [udivW, uremW, if_neg h, if_neg h, BitVec.toNat_udiv, BitVec.toNat_umod]
  exact ⟨(Nat.div_add_mod' _ _).symm, Nat.mod_lt _ hy⟩

/-! Bit counts (R65). -/

theorem popcount_eq_length_filter (k : Nat) : ∀ n, popcount k n = ((List.range k).filter n.testBit).length := by
  induction k with
  | zero => exact fun _ => rfl
  | succ k ih =>
    intro n
    have ht : ((List.range k).map Nat.succ).filter n.testBit = ((List.range k).filter (n / 2).testBit).map Nat.succ := by
      simp [List.filter_map, Function.comp_def, Nat.testBit_succ]
    rw [popcount, ih, List.range_succ_eq_map, List.filter_cons, ht, Nat.testBit_zero]
    obtain h | h := Nat.mod_two_eq_zero_or_one n <;> simp [h, Nat.add_comm]

theorem popcW_eq_length_filter (x : Word) :
    popcW x = BitVec.ofNat 64 ((List.range 64).filter fun i => x.getLsbD i).length := by
  rw [popcW, popcount_eq_length_filter]; rfl

/-- Below the lowest one all bits are zero, and it is itself a one unless there is none. -/
theorem lowestOne_spec (k : Nat) : ∀ n, lowestOne k n ≤ k ∧ (∀ i < lowestOne k n, n.testBit i = false) ∧
    (lowestOne k n < k → n.testBit (lowestOne k n) = true) := by
  induction k with
  | zero => exact fun n => ⟨Nat.le_refl 0, fun i hi => absurd hi (Nat.not_lt_zero i), fun h => absurd h (Nat.lt_irrefl 0)⟩
  | succ k ih =>
    intro n
    obtain ⟨hle, hlow, hone⟩ := ih (n / 2)
    by_cases h : n % 2 = 1
    · rw [lowestOne, if_pos h]
      exact ⟨Nat.zero_le _, fun i hi => absurd hi (Nat.not_lt_zero i), fun _ => by rw [Nat.testBit_zero, h]; rfl⟩
    · rw [lowestOne, if_neg h]
      refine ⟨by omega, fun i hi => ?_, fun hk => ?_⟩
      · cases i with
        | zero => simpa [Nat.testBit_zero] using h
        | succ i => rw [Nat.testBit_succ]; exact hlow i (by omega)
      · rw [Nat.testBit_succ]; exact hone (by omega)

/-- A word other than zero has a lowest one. -/
theorem lowestOne_lt {x : Word} (h : x ≠ 0) : lowestOne 64 x.toNat < 64 := by
  obtain ⟨hle, hlow, -⟩ := lowestOne_spec 64 x.toNat
  refine Nat.lt_of_le_of_ne hle fun he => h ?_
  rw [he] at hlow
  exact BitVec.eq_of_getLsbD_eq fun i hi => (hlow i hi).trans BitVec.getLsbD_zero.symm

/-- The zero bits above the highest one of a word, 64 for zero. -/
def leadingZeros (x : Word) : Nat := if x = 0 then 64 else 63 - x.toNat.log2

theorem clzW_eq_leadingZeros (x : Word) : clzW x = BitVec.ofNat 64 (leadingZeros x) := by
  rw [clzW, leadingZeros]; split <;> rfl

/-- The bit below the leading zeros is a one, and those above it are zero. -/
theorem leadingZeros_spec {x : Word} (h : x ≠ 0) : leadingZeros x < 64 ∧ x.getLsbD (63 - leadingZeros x) = true ∧
    ∀ i, 63 - leadingZeros x < i → x.getLsbD i = false := by
  have h0 : x.toNat ≠ 0 := fun h0 => h (BitVec.eq_of_toNat_eq h0)
  have hl : x.toNat.log2 < 64 := (Nat.log2_lt h0).mpr x.isLt
  have he : 63 - leadingZeros x = x.toNat.log2 := by rw [leadingZeros, if_neg h]; omega
  refine ⟨by rw [leadingZeros, if_neg h]; omega, ?_, fun i hi => ?_⟩
  · rw [he, ← BitVec.testBit_toNat]; exact Nat.testBit_log2 h0
  · rw [he] at hi
    rw [← BitVec.testBit_toNat]
    exact Nat.testBit_lt_two_pow (Nat.lt_of_lt_of_le Nat.lt_log2_self (Nat.pow_le_pow_right (by decide) hi))

end Sys2Proof.Machine

namespace Sys2Proof.Claims
open Sys2Proof.Machine

/-! The bundles: an instruction with one result retires with its function's value of the operands at issue (R53, R55). -/

theorem wroteS_of_aluSem {s : State} {idle : BitVec 3} {l : List (BitVec 5)} {lat : Nat} {d : BitVec 5} {f : Core → Word}
    {v : Word} (hf : Free s (d :: l)) (hv : f (atIssue s).core = v) :
    .next (issueS idle (aluSem l lat d f) s) = wroteS s idle lat d v := by
  subst hv
  exact congrArg Host.Outcome.next (issueS_done hf.1 hf.2 (parityHit_none _ _ rfl rfl) rfl)

section
variable {s : State} {idle : BitVec 3} {lat : Nat} {d a b : BitVec 5} {v : Word}

theorem wroteS_of_alu2L {f : Word → Word → Word} (hf : Free s [d, a, b]) (hv : f (rdS s.core a) (rdS s.core b) = v) :
    .next (issueS idle (alu2L lat d a b f) s) = wroteS s idle lat d v :=
  wroteS_of_aluSem hf (by simpa using hv)

theorem wroteS_of_alu2 {f : Word → Word → Word} (hf : Free s [d, a, b]) (hv : f (rdS s.core a) (rdS s.core b) = v) :
    .next (issueS idle (alu2 d a b f) s) = wroteS s idle 1 d v :=
  wroteS_of_alu2L hf hv

theorem wroteS_of_alu1 {f : Word → Word} (hf : Free s [d, a]) (hv : f (rdS s.core a) = v) :
    .next (issueS idle (alu1 d a f) s) = wroteS s idle 1 d v :=
  wroteS_of_aluSem hf (by simpa using hv)

end

theorem registerGroupResults : RegisterGroupResults := by
  intro s idle d a b hf x y
  refine ⟨wroteS_of_alu2 hf rfl, wroteS_of_alu2 hf rfl, wroteS_of_alu2 hf rfl, wroteS_of_alu2 hf rfl, wroteS_of_alu2 hf rfl,
    wroteS_of_alu2 hf rfl, ?shl, ?shr, ?sra, ?min, ?max, ?minu, ?maxu, ?seq, ?sne, ?slt, ?sle, ?sltu, ?sleu, ?mul,
    wroteS_of_alu2L hf rfl, wroteS_of_alu2L hf rfl⟩
  case shl => exact wroteS_of_alu2 hf (shiftLeft_eq_ofNat_mul x _)
  case shr => exact wroteS_of_alu2 hf (ushiftRight_eq_ofNat_div x _)
  case sra => exact wroteS_of_alu2 hf (sshiftRight_eq_ofInt_div x _)
  case min => exact wroteS_of_alu2 hf (ite_slt_eq_ofInt_min x y)
  case max => exact wroteS_of_alu2 hf (ite_slt_eq_ofInt_max x y)
  case minu => exact wroteS_of_alu2 hf (ite_ult_eq_ofNat_min x y)
  case maxu => exact wroteS_of_alu2 hf (ite_ult_eq_ofNat_max x y)
  case seq => exact wroteS_of_alu2 hf (b2w_beq x y)
  case sne => exact wroteS_of_alu2 hf (b2w_bne x y)
  case slt => exact wroteS_of_alu2 hf (b2w_decide (x.toInt < y.toInt))
  case sle => exact wroteS_of_alu2 hf (b2w_decide (x.toInt ≤ y.toInt))
  case sltu => exact wroteS_of_alu2 hf (b2w_decide (x.toNat < y.toNat))
  case sleu => exact wroteS_of_alu2 hf (b2w_decide (x.toNat ≤ y.toNat))
  case mul => exact wroteS_of_alu2L hf (mul_eq_ofNat_mul x y)

theorem divisionResults : DivisionResults := by
  intro s idle d a b hf x y
  refine ⟨sdivW x y, sremW x y, udivW x y, uremW x y, wroteS_of_alu2L hf rfl, wroteS_of_alu2L hf rfl,
    wroteS_of_alu2L hf rfl, wroteS_of_alu2L hf rfl, fun h => ?_, udivW_uremW_spec x, sdivW_sremW_overflow, sdivW_sremW_spec⟩
  simp only [sdivW, sremW, udivW, uremW, h, if_true, and_self]

theorem bitCounts : BitCounts := by
  intro s idle d a hf x
  refine ⟨leadingZeros x, lowestOne 64 x.toNat, wroteS_of_alu1 hf (clzW_eq_leadingZeros x), wroteS_of_alu1 hf rfl,
    wroteS_of_alu1 hf (popcW_eq_length_filter x), fun h => ?_, fun h => ?_⟩
  · rw [h]; decide
  · obtain ⟨hlt, hone, hzero⟩ := leadingZeros_spec h
    obtain ⟨-, hlow, htrail⟩ := lowestOne_spec 64 x.toNat
    exact ⟨hlt, lowestOne_lt h, hone, hzero, htrail (lowestOne_lt h), hlow⟩

/-- Settles O23: each result of R65's table is the arithmetic one, division and bit counts included. -/
theorem scalarRegisterResults : Obligations.ScalarRegisterResults :=
  ⟨registerGroupResults, divisionResults, bitCounts⟩

end Sys2Proof.Claims
end

section
/-! LOOP (R70): the bundle that counts down, and why no encoding of a LOOP on S0 decodes. -/
namespace Sys2Proof.Claims
open Sys2Proof.Machine

/-- The count reaches zero: LOOP falls through. -/
theorem exec_loop_last {s : State} {idle : BitVec 3} {a : BitVec 5} {off : BitVec 18} (hf : Free s [a])
    (h : rdS s.core a - 1 = 0) :
    exec (.loop idle a off) s = retired idle (withCore (atIssue s) (wrSL (atIssue s).core 1 a (rdS s.core a - 1))) := by
  refine congrArg Host.Outcome.next (issueS_done hf.1 hf.2 (parityHit_none _ _ rfl rfl) ?_)
  simp only [semLoop, atIssue_core, rdS_landTo, h, if_true, withCore]

/-- The count is not yet zero: LOOP rotates the bases back and branches. -/
theorem exec_loop_again {s : State} {idle : BitVec 3} {a : BitVec 5} {off : BitVec 18} (hf : Free s [a])
    (h : rdS s.core a - 1 ≠ 0) :
    exec (.loop idle a off) s =
      jumps idle (withCore (atIssue s) { wrSL (atIssue s).core 1 a (rdS s.core a - 1) with vrb := s.core.vrb - 1, prb := s.core.prb - 1 })
        true (s.core.pc + 16 * off.signExtend 64) := by
  refine congrArg Host.Outcome.next (issueS_done hf.1 hf.2 (parityHit_none _ _ rfl rfl) ?_)
  simp only [semLoop, atIssue_core, rdS_landTo, landTo_vrb, landTo_prb, landTo_pc, h, if_false, if_true, withCore, relTarget]

end Sys2Proof.Claims

namespace Sys2Proof.Machine

/-- The bits of a LOOP on S0. -/
theorem encodeS_loop_zero (idle : BitVec 3) (off : BitVec 18) :
    encodeS (.loop idle 0 off) = off.toNat + 26 * 2 ^ 23 + idle.toNat * 2 ^ 29 := by
  have ho := off.isLt
  have hi := idle.isLt
  simp only [encodeS, pack, BitVec.ofNat_eq_ofNat, BitVec.toNat_ofNat]
  omega

/-- What the decoder accepts is well formed. -/
theorem wf_of_decodeS {w : Nat} {i : Instr} (h : decodeS w = .ok i) : i.wf = true := by
  unfold decodeS checked at h
  split at h
  · split at h
    · rename_i hw; cases h; exact hw
    · cases h
  · cases h

/-- An encoding whose fields parse to an ill-formed instruction is refused for its sub-field. -/
theorem decodeS_ill_formed {w : Nat} {i : Instr} (h : parseS w = .ok i) (hw : i.wf = false) : decodeS w = .error .subField := by
  simp only [decodeS, h, checked, hw, Bool.false_eq_true, if_false]

theorem decodeS_loop_zero (idle : BitVec 3) (off : BitVec 18) : decodeS (encodeS (.loop idle 0 off)) = .error .subField :=
  decodeS_ill_formed (parse_loop idle 0 off) rfl

/-- A bundle whose S syllable does not decode faults in slot 1 (R13). -/
theorem decodeBundle_of_decodeS_error {w : Nat} {e : DecodeErr} (h : decodeS (w % 2 ^ 32) = .error e) :
    decodeBundle w = .error (1, e) := by
  simp only [decodeBundle, unpack, h]

/-- TRAP and RFT beside a V or M syllable that is not zero are no bundle (R74, R75). -/
theorem decodeBundle_not_alone {w : Nat} {i : Instr} (h : decodeS (w % 2 ^ 32) = .ok i) (ha : alone i = true)
    (hw : w / 2 ^ 32 % 2 ^ 96 ≠ 0) : decodeBundle w = .error (1, .reservedBits) := by
  have hvm : w / 2 ^ 32 % 2 ^ 48 ≠ 0 ∨ w / 2 ^ 32 / 2 ^ 48 % 2 ^ 48 ≠ 0 := by omega
  have hc : (alone i && (w / 2 ^ 32 % 2 ^ 48 != 0 || w / 2 ^ 32 / 2 ^ 48 % 2 ^ 48 != 0)) = true := by
    simpa only [ha, Bool.true_and, Bool.or_eq_true, bne_iff_ne] using hvm
  simp only [decodeBundle, unpack, h, hc, if_true]

end Sys2Proof.Machine

namespace Sys2Proof.Claims
open Sys2Proof.Machine

/-- Settles O1: the two outcomes of LOOP, and the refusal of S0 for every idle count and offset. -/
theorem loopResults : Obligations.LoopResults := by
  intro s idle a off
  refine ⟨fun hf _ => ⟨exec_loop_last hf, exec_loop_again hf⟩, fun w h => ?_, ?_, rfl⟩
  · exact absurd (wf_of_decodeS h) (by simp [Instr.wf])
  · have hd := encodeS_loop_zero idle off ▸ decodeS_loop_zero idle off
    refine ⟨.subField, hd, rfl, fun v => decodeBundle_of_decodeS_error ?_⟩
    have ho := off.isLt
    have hi := idle.isLt
    rwa [Nat.add_mul_mod_self_left, Nat.mod_eq_of_lt (by omega)]

end Sys2Proof.Claims
end

section
/-! TRAP (R74), and what taking a trap and writing its record leave of the core (R57, R393). -/
namespace Sys2Proof.Machine

/-! What reaches memory, the banks or a context leaves the core in focus as it is. -/

@[simp] theorem modCtx_core (s : State) (slot : Nat) (f : Ctx → Ctx) : (modCtx s slot f).core = s.core := by
  unfold modCtx; split <;> rfl

@[simp] theorem tellCtx_core (s : State) (slot : Nat) (m : HostMsg) : (tellCtx s slot m).core = s.core := by
  unfold tellCtx
  split
  · split <;> rfl
  · rfl

@[simp] theorem logMc_core (s : State) (e : Word) : (logMc s e).core = s.core := by
  unfold logMc
  split
  · rfl
  · dsimp only
    split
    · exact tellCtx_core _ _ _
    · rfl

@[simp] theorem checkstop_core (unit place : Nat) (s : State) :
    (checkstop unit place s).core = { s.core with checkstop := true } := logMc_core _ _

@[simp] theorem askLaunch_core (slot : Nat) (a : Word) (s : State) : (askLaunch slot a s).core = s.core := by
  rw [askLaunch, modCtx_core, becomesReady]; split <;> rfl

/-- A fold of steps that leave the core as it is does so. -/
theorem foldl_core {α : Type} {f : State → α → State} (h : ∀ t x, (f t x).core = t.core) (l : List α) (s : State) :
    (l.foldl f s).core = s.core :=
  List.foldlRecOn (motive := fun t => t.core = s.core) l f rfl fun t ht x _ => (h t x).trans ht

@[simp] theorem doorbell_core (s : State) (pa n v : Nat) : (doorbell s pa n v).core = s.core := by
  unfold doorbell
  split
  · rfl
  · refine foldl_core (fun t p => ?_) _ _
    split
    · split
      · exact askLaunch_core _ _ _
      · rfl
    · rfl

@[simp] theorem touchMany_core (n : Nat) (s : State) (slot pa : Nat) : (touchMany n s slot pa).core = s.core := by
  unfold touchMany
  dsimp only
  split
  · rfl
  · split
    · show State.core (if _ then _ else _) = _
      split
      · rfl
      · exact modCtx_core _ _ _
    · rfl

@[simp] theorem touchBank_core (s : State) (slot pa : Nat) : (touchBank s slot pa).core = s.core := touchMany_core 1 s slot pa

@[simp] theorem touchWalk_core (s : State) (slot va : Nat) : (touchWalk s slot va).core = s.core := by
  unfold touchWalk
  split
  · rfl
  · split
    · rfl
    · exact foldl_core (fun t pa => touchBank_core t slot pa) _ _

@[simp] theorem touch_core (s : State) (slot va pa : Nat) : (touch s slot va pa).core = s.core := by simp [touch]

@[simp] theorem putMem_core (s : State) (pa n : Nat) (m : Memory) : (putMem s pa n m).core = s.core := by
  show (logPartial s pa n).core = s.core
  unfold logPartial
  split
  · rfl
  · exact foldl_core (fun t p => logMc_core t _) _ _

@[simp] theorem storeNum_core (s : State) (tol va pa n v : Nat) : (storeNum s tol va pa n v).core = s.core := by
  unfold storeNum
  split <;> exact putMem_core _ _ _ _

theorem engStore_core {s t : State} {slot kh va n v : Nat} (h : engStore s slot kh va n v = .ok t) : t.core = s.core := by
  unfold engStore engStoreAt at h
  split at h
  · cases h
  · split at h <;> cases h <;> simp

theorem engWriteS_core {slot kh : Nat} (n : Nat) : ∀ {va v : Nat} {s t : State}, engWriteS slot kh n va v s = .ok t → t.core = s.core := by
  induction n with
  | zero => intro va v s t h; cases h; rfl
  | succ n ih =>
    intro va v s t h
    simp only [engWriteS] at h
    split at h
    · cases h
    · rename_i u hu
      exact (ih h).trans (engStore_core hu)

/-- A buffered store that is performed changes nothing of the core, unless it stops it (R352, R396). -/
theorem performStore_core (slot : Nat) (e : StoreEntry) (s : State) :
    ∃ b, (performStore slot e s).core = { s.core with checkstop := b } := by
  unfold performStore
  split
  · exact ⟨true, checkstop_core _ _ _⟩
  · exact ⟨s.core.checkstop, by simp⟩

theorem performStores_core (slot : Nat) (l : List StoreEntry) : ∀ s : State,
    ∃ b, (l.foldl (fun t e => performStore slot e t) s).core = { s.core with checkstop := b } := by
  induction l with
  | nil => exact fun s => ⟨s.core.checkstop, rfl⟩
  | cons e l ih =>
    intro s
    obtain ⟨b, hb⟩ := performStore_core slot e s
    obtain ⟨b', hb'⟩ := ih (performStore slot e s)
    exact ⟨b', by rw [List.foldl_cons, hb', hb]⟩

/-- Stores that share a byte with a range leave the buffer: nothing else of the core changes, unless it stops (R296). -/
theorem drainFor_core (slot : Nat) (rng : Nat × Nat) (s : State) :
    ∃ b, (drainFor slot rng s).core = { s.core with sb := s.core.sb.drop (sharing rng s), checkstop := b } := by
  obtain ⟨b, hb⟩ := performStores_core slot (s.core.sb.take (sharing rng s)) s
  exact ⟨b, by rw [drainFor, withCore_core, hb]⟩

/-- Writing the trap record takes stores from the buffer, and changes nothing else of the core (R393). -/
theorem writeTrapRec_core {s u : State} {epc tcause tval : Word} (h : writeTrapRec s epc tcause tval = .ok u) :
    ∃ n b, u.core = { s.core with sb := s.core.sb.drop n, checkstop := b } := by
  unfold writeTrapRec at h
  split at h
  · dsimp only at h
    split at h
    · cases h
    · split at h
      · cases h
      · split at h
        · rename_i u' hu
          cases h
          obtain ⟨b, hb⟩ := drainFor_core _ _ s
          exact ⟨_, b, (engWriteS_core _ hu).trans hb⟩
        · cases h
  · cases h

/-! TCAUSE (R63). -/

theorem tcauseOf_toNat (t : Trap) : (tcauseOf t).toNat = pack [(8, t.cause), (3, t.slot), (5, 0), (13, t.code), (35, 0)] :=
  Nat.mod_eq_of_lt (pack_lt _)

theorem tcauseOf_cause (t : Trap) : bits (tcauseOf t).toNat 7 0 = t.cause % 256 := by
  simp only [tcauseOf_toNat, bits, pack]; omega

theorem tcauseOf_slot (t : Trap) : bits (tcauseOf t).toNat 10 8 = t.slot % 8 := by
  simp only [tcauseOf_toNat, bits, pack]; omega

theorem tcauseOf_code (t : Trap) : bits (tcauseOf t).toNat 28 16 = t.code % 8192 := by
  simp only [tcauseOf_toNat, bits, pack]; omega

/-! Taking a trap (R57, R394). -/

/-- A trap inside a handler is a double trap: the core checkstops (R394). -/
theorem takeTrap_in_handler {s : State} (h : s.core.tstat.getLsbD 0 = true) (t : Trap) (epc : Word) (tn : Nat) :
    takeTrap t epc tn s = checkstop 7 0 s := by
  simp only [takeTrap, h, if_true]

/-- The trap registers and the pc once the record is written, outside a handler. -/
theorem takeTrap_recorded {s u : State} {t : Trap} {epc : Word} {tn : Nat} (h : s.core.tstat.getLsbD 0 = false)
    (hr : writeTrapRec (capture tn s) epc (tcauseOf t) t.tval = .ok u) :
    (takeTrap t epc tn s).core.epc = epc ∧ (takeTrap t epc tn s).core.tcause = tcauseOf t ∧ (takeTrap t epc tn s).core.tval = t.tval ∧
      (takeTrap t epc tn s).core.tstat = (if t.emu then 3 else 1) ∧
      (takeTrap t epc tn s).core.pc = (if t.emu then s.core.evec else s.core.tvec) &&& 0xFFFFFFFFFFFFFFF0 := by
  obtain ⟨n, b, hc⟩ := writeTrapRec_core hr
  have hv : u.core.tvec = s.core.tvec ∧ u.core.evec = s.core.evec := by
    rw [hc]; exact ⟨landTo_tvec tn s.core, landTo_evec tn s.core⟩
  simp only [takeTrap, h, hr, hv, Bool.false_eq_true, if_false, and_self]

/-- The S slot's bundle completes and then traps, with the next bundle as EPC (R74). -/
theorem issueS_after {s : State} {i : BitVec 3} {a : Sem} {u : State} {t : Trap} (h : running s = true)
    (hu : a.uses.any (pending s.core) = false) (hp : parityHit s.core a = none)
    (he : a.eff (atIssue s) (atIssue s) = .after u t) :
    issueS i a s = takeTrap t (s.core.pc + 16) (s.core.ticks + ticksAfter i.toNat false) u := by
  rw [issueS_eq h i a hu hp, he]
  simp [finish, SlotOut.isTick, SlotOut.isStall, firstBad]

end Sys2Proof.Machine

namespace Sys2Proof.Claims
open Sys2Proof.Machine

/-- The trap that TRAP raises (R74). -/
def trapOf (code : BitVec 13) : Trap := { cause := 0x10, slot := 1, code := code.toNat, tval := 0, bundle := 0, emu := false }

theorem exec_trap {s : State} (h : running s = true) (idle : BitVec 3) (code : BitVec 13) :
    exec (.trap idle code) s = .next (takeTrap (trapOf code) (s.core.pc + 16) (s.core.ticks + 1 + idle.toNat) (atIssue s)) := by
  have ht : s.core.ticks + 1 + idle.toNat = s.core.ticks + ticksAfter idle.toNat false := Nat.add_assoc _ _ _
  rw [ht]
  exact congrArg Host.Outcome.next (issueS_after h rfl (parityHit_none _ _ rfl rfl) rfl)

/-- Settles O4: outside a handler the trap registers that R74 names, inside one the double trap, and TRAP beside a V or M syllable
refused. -/
theorem trapInstruction : Obligations.TrapInstruction := by
  intro s u idle code w hrun t tn
  have hstat : (atIssue s).core.tstat = s.core.tstat := landTo_tstat _ _
  refine ⟨fun h0 hr => ⟨_, exec_trap hrun idle code, ?_⟩, fun h1 => ?_, fun hd hw => ?_⟩
  · obtain ⟨hepc, hcause, htval, htstat, hpc⟩ := takeTrap_recorded (hstat ▸ h0) hr
    rw [← landTo_tvec s.core.ticks s.core]
    refine ⟨hepc, ?_, ?_, ?_, htval, htstat, hpc⟩
    · exact (congrArg (bits ·.toNat 7 0) hcause).trans (tcauseOf_cause t)
    · exact (congrArg (bits ·.toNat 10 8) hcause).trans (tcauseOf_slot t)
    · exact ((congrArg (bits ·.toNat 28 16) hcause).trans (tcauseOf_code t)).trans (Nat.mod_eq_of_lt code.isLt)
  · rw [exec_trap hrun, takeTrap_in_handler (hstat ▸ h1)]
  · exact ⟨1, .reservedBits, decodeBundle_not_alone hd rfl hw, rfl⟩

end Sys2Proof.Claims
end
